-- ==== Sys2Proof/Word.lean ====
section
/-!
DEFINITION. Words, bytes and the finite maps the state is built from.
-/

namespace Sys2Proof

/-- A byte (R7). -/
abbrev Byte := BitVec 8
/-- A general register or control register: 64 bits (R41, R49). -/
abbrev Word := BitVec 64
/-- A vector register or queue entry: 512 bits (R45, R318). -/
abbrev Line := BitVec 512

/-- The low 64 bits of a number. -/
abbrev word (n : Nat) : Word := BitVec.ofNat 64 n

/-- A finite map: a list of key and value pairs, strictly rising in its keys when built by `FMap.set`. -/
abbrev FMap (β : Type) := List (Nat × β)

/-- Insert a pair before the first larger key. -/
def insKey {β : Type} (k : Nat) (v : β) : FMap β → FMap β
  | [] => [(k, v)]
  | (j, w) :: m => if k < j then (k, v) :: (j, w) :: m else (j, w) :: insKey k v m

/-- Remove every pair of one key. -/
def FMap.del {β : Type} (k : Nat) : FMap β → FMap β
  | [] => []
  | (j, w) :: m => if j = k then FMap.del k m else (j, w) :: FMap.del k m

/-- The value of a key, if listed. -/
def FMap.find {β : Type} (k : Nat) : FMap β → Option β
  | [] => none
  | (j, w) :: m => if j = k then some w else FMap.find k m

/-- The value of a key, or the value of an unlisted one. -/
def FMap.get {β : Type} (d : β) (m : FMap β) (k : Nat) : β := (FMap.find k m).getD d

/-- Give a key one value. -/
def FMap.set {β : Type} (m : FMap β) (k : Nat) (v : β) : FMap β := insKey k v (FMap.del k m)

end Sys2Proof
end

