-- ==== Sys2Proof/Syntax.lean ====
section
/-!
DEFINITION. The operands and the instructions of the ISN-8 (spec/04_opcode_map.md), and the part's own steps.
-/

namespace Sys2Proof

/-- A general register specifier: 0 to 23 name g0 to g23, 24 to 31 the queue registers q0 to q7 (R41). -/
abbrev GSpec := BitVec 5
/-- A vector register specifier (R45). -/
abbrev VSpec := BitVec 6
/-- A lane-mask number (R46). -/
abbrev KReg := BitVec 3
/-- A predicate number (R43). -/
abbrev PReg := BitVec 4
/-- A lookahead (R64). -/
abbrev Look := BitVec 4
/-- An energy class (R76). -/
abbrev Energy := BitVec 2

/-- The conditions of `cmp`, `cmpi` and `vcmp` (R96); `n` marks the unsigned ones. -/
inductive Cond where
  | eq | ne | lt | le | gt | ge | ltn | len | gtn | gen | uo
  deriving DecidableEq, Repr

/-- The code of a Cond in its field. -/
def Cond.toBits : Cond → BitVec 4
  | .eq => 0#4
  | .ne => 1#4
  | .lt => 2#4
  | .le => 3#4
  | .gt => 4#4
  | .ge => 5#4
  | .ltn => 6#4
  | .len => 7#4
  | .gtn => 8#4
  | .gen => 9#4
  | .uo => 10#4

/-- The Cond of a field; reserved codes name none. -/
def Cond.ofBits (b : BitVec 4) : Option Cond :=
  match b.toNat with
  | 0 => some .eq
  | 1 => some .ne
  | 2 => some .lt
  | 3 => some .le
  | 4 => some .gt
  | 5 => some .ge
  | 6 => some .ltn
  | 7 => some .len
  | 8 => some .gtn
  | 9 => some .gen
  | 10 => some .uo
  | _ => none

/-- The element formats of the F field (R105). -/
inductive Fmt where
  | i8 | i16 | i32 | i64 | n8 | n16 | n32 | n64 | fp16 | bf16 | fp32 | e4m3 | e5m2 | e3m2 | e2m3 | qc | pk
  deriving DecidableEq, Repr

/-- The code of a Fmt in its field. -/
def Fmt.toBits : Fmt → BitVec 5
  | .i8 => 0#5
  | .i16 => 1#5
  | .i32 => 2#5
  | .i64 => 3#5
  | .n8 => 4#5
  | .n16 => 5#5
  | .n32 => 6#5
  | .n64 => 7#5
  | .fp16 => 8#5
  | .bf16 => 9#5
  | .fp32 => 10#5
  | .e4m3 => 11#5
  | .e5m2 => 12#5
  | .e3m2 => 13#5
  | .e2m3 => 14#5
  | .qc => 15#5
  | .pk => 16#5

/-- The Fmt of a field; reserved codes name none. -/
def Fmt.ofBits (b : BitVec 5) : Option Fmt :=
  match b.toNat with
  | 0 => some .i8
  | 1 => some .i16
  | 2 => some .i32
  | 3 => some .i64
  | 4 => some .n8
  | 5 => some .n16
  | 6 => some .n32
  | 7 => some .n64
  | 8 => some .fp16
  | 9 => some .bf16
  | 10 => some .fp32
  | 11 => some .e4m3
  | 12 => some .e5m2
  | 13 => some .e3m2
  | 14 => some .e2m3
  | 15 => some .qc
  | 16 => some .pk
  | _ => none

/-- The apertures of the generic address space (R97). -/
inductive Aperture where
  | local_ | quad | shared | bstore | global | pod
  deriving DecidableEq, Repr

/-- The code of a Aperture in its field. -/
def Aperture.toBits : Aperture → BitVec 3
  | .local_ => 0#3
  | .quad => 1#3
  | .shared => 2#3
  | .bstore => 3#3
  | .global => 4#3
  | .pod => 5#3

/-- The Aperture of a field; reserved codes name none. -/
def Aperture.ofBits (b : BitVec 3) : Option Aperture :=
  match b.toNat with
  | 0 => some .local_
  | 1 => some .quad
  | 2 => some .shared
  | 3 => some .bstore
  | 4 => some .global
  | 5 => some .pod
  | _ => none

/-- The scopes of a fence (R98). -/
inductive FScope where
  | lane | core | quad | die | pkg | pod
  deriving DecidableEq, Repr

/-- The code of a FScope in its field. -/
def FScope.toBits : FScope → BitVec 3
  | .lane => 0#3
  | .core => 1#3
  | .quad => 2#3
  | .die => 3#3
  | .pkg => 4#3
  | .pod => 5#3

/-- The FScope of a field; reserved codes name none. -/
def FScope.ofBits (b : BitVec 3) : Option FScope :=
  match b.toNat with
  | 0 => some .lane
  | 1 => some .core
  | 2 => some .quad
  | 3 => some .die
  | 4 => some .pkg
  | 5 => some .pod
  | _ => none

/-- The scopes of an acquire or release (R99). -/
inductive OrdScope where
  | core | quad | die | pkg | pod
  deriving DecidableEq, Repr

/-- The code of a OrdScope in its field. -/
def OrdScope.toBits : OrdScope → BitVec 3
  | .core => 1#3
  | .quad => 2#3
  | .die => 3#3
  | .pkg => 4#3
  | .pod => 5#3

/-- The OrdScope of a field; reserved codes name none. -/
def OrdScope.ofBits (b : BitVec 3) : Option OrdScope :=
  match b.toNat with
  | 1 => some .core
  | 2 => some .quad
  | 3 => some .die
  | 4 => some .pkg
  | 5 => some .pod
  | _ => none

/-- The access widths (R99). -/
inductive Width where
  | w8 | w16 | w32 | w64
  deriving DecidableEq, Repr

/-- The code of a Width in its field. -/
def Width.toBits : Width → BitVec 2
  | .w8 => 0#2
  | .w16 => 1#2
  | .w32 => 2#2
  | .w64 => 3#2

/-- The Width of a field; reserved codes name none. -/
def Width.ofBits (b : BitVec 2) : Option Width :=
  match b.toNat with
  | 0 => some .w8
  | 1 => some .w16
  | 2 => some .w32
  | _ => some .w64

/-- The atomic operations (R100). -/
inductive AmoOp where
  | add | adds | and_ | or_ | xor_ | min | max | minn | maxn | swap | cas
  deriving DecidableEq, Repr

/-- The code of a AmoOp in its field. -/
def AmoOp.toBits : AmoOp → BitVec 4
  | .add => 0#4
  | .adds => 1#4
  | .and_ => 2#4
  | .or_ => 3#4
  | .xor_ => 4#4
  | .min => 5#4
  | .max => 6#4
  | .minn => 7#4
  | .maxn => 8#4
  | .swap => 9#4
  | .cas => 10#4

/-- The AmoOp of a field; reserved codes name none. -/
def AmoOp.ofBits (b : BitVec 4) : Option AmoOp :=
  match b.toNat with
  | 0 => some .add
  | 1 => some .adds
  | 2 => some .and_
  | 3 => some .or_
  | 4 => some .xor_
  | 5 => some .min
  | 6 => some .max
  | 7 => some .minn
  | 8 => some .maxn
  | 9 => some .swap
  | 10 => some .cas
  | _ => none

/-- The reductions of `vred` and `vscan` (R106). -/
inductive RedOp where
  | add | min | max | and_ | or_ | xor_
  deriving DecidableEq, Repr

/-- The code of a RedOp in its field. -/
def RedOp.toBits : RedOp → BitVec 3
  | .add => 0#3
  | .min => 1#3
  | .max => 2#3
  | .and_ => 3#3
  | .or_ => 4#3
  | .xor_ => 5#3

/-- The RedOp of a field; reserved codes name none. -/
def RedOp.ofBits (b : BitVec 3) : Option RedOp :=
  match b.toNat with
  | 0 => some .add
  | 1 => some .min
  | 2 => some .max
  | 3 => some .and_
  | 4 => some .or_
  | 5 => some .xor_
  | _ => none

/-- The three ring families (R102). -/
inductive RingKind where
  | x | y | z
  deriving DecidableEq, Repr

/-- The code of a RingKind in its field. -/
def RingKind.toBits : RingKind → BitVec 2
  | .x => 0#2
  | .y => 1#2
  | .z => 2#2

/-- The RingKind of a field; reserved codes name none. -/
def RingKind.ofBits (b : BitVec 2) : Option RingKind :=
  match b.toNat with
  | 0 => some .x
  | 1 => some .y
  | 2 => some .z
  | _ => none

/-- The ordering field O of a load or a store (R99). -/
inductive MemOrd where
  | none | at (s : OrdScope)
  deriving DecidableEq, Repr

/-- The code of an ordering field. -/
def MemOrd.toBits : MemOrd → BitVec 3
  | .none => 0#3
  | .at s => s.toBits

/-- The ordering of a field; codes 6 and 7 name none. -/
def MemOrd.ofBits (b : BitVec 3) : Option MemOrd :=
  if b = 0#3 then some .none else (OrdScope.ofBits b).map .at

/-- The paired fields K and O of an atomic (R99): which halves are ordered, and at what scope. -/
inductive AmoOrd where
  | plain | acq (s : OrdScope) | rel (s : OrdScope) | acqRel (s : OrdScope)
  deriving DecidableEq, Repr

/-- K above O. -/
def AmoOrd.toBits : AmoOrd → BitVec 5
  | .plain => 0#5
  | .acq s => 1#2 ++ s.toBits
  | .rel s => 2#2 ++ s.toBits
  | .acqRel s => 3#2 ++ s.toBits

/-- K is 00 exactly when O is 0. -/
def AmoOrd.ofBits (b : BitVec 5) : Option AmoOrd :=
  if b = 0#5 then some .plain else
  match (b.extractLsb' 3 2).toNat with
  | 0 => .none
  | 1 => (OrdScope.ofBits (b.extractLsb' 0 3)).map .acq
  | 2 => (OrdScope.ofBits (b.extractLsb' 0 3)).map .rel
  | _ => (OrdScope.ofBits (b.extractLsb' 0 3)).map .acqRel

/-- The patterns of `vshuf` (R197). -/
inductive Shuf where
  | rot (p : BitVec 6) | bc (p : BitVec 6) | rev (p : BitVec 3) | uzp | zip
  deriving DecidableEq, Repr

/-- Kind above parameter. -/
def Shuf.toBits : Shuf → BitVec 8
  | .rot p => 0#2 ++ p
  | .bc p => 1#2 ++ p
  | .rev p => 2#2 ++ 0#3 ++ p
  | .uzp => 0xC0#8
  | .zip => 0xC1#8

/-- The pattern of a field. -/
def Shuf.ofBits (b : BitVec 8) : Option Shuf :=
  match (b.extractLsb' 6 2).toNat with
  | 0 => some (.rot (b.extractLsb' 0 6))
  | 1 => some (.bc (b.extractLsb' 0 6))
  | 2 => if b.extractLsb' 3 3 = 0#3 then some (.rev (b.extractLsb' 0 3)) else .none
  | _ => if b = 0xC0#8 then some .uzp else if b = 0xC1#8 then some .zip else .none

/-- The formats of `mma`: those of FMTA and FMTB, or two of its own (R216). -/
inductive FmtPair where
  | regs | over (fa fb : Fmt)
  deriving DecidableEq, Repr

/-- OvAB, FA and FB. -/
def FmtPair.toBits : FmtPair → BitVec 11
  | .regs => 0#11
  | .over fa fb => 1#1 ++ fa.toBits ++ fb.toBits

/-- FA and FB are zero when OvAB is. -/
def FmtPair.ofBits (b : BitVec 11) : Option FmtPair :=
  if b = 0#11 then some .regs else
  if b.extractLsb' 10 1 = 1#1 then
    (Fmt.ofBits (b.extractLsb' 5 5)).bind fun fa => (Fmt.ofBits (b.extractLsb' 0 5)).map (.over fa)
  else .none

/-- The row format of `mrd` and `mwr`: that of FMTC, or one of its own (R222). -/
inductive FmtOpt where
  | regs | over (f : Fmt)
  deriving DecidableEq, Repr

/-- OvC and FC. -/
def FmtOpt.toBits : FmtOpt → BitVec 6
  | .regs => 0#6
  | .over f => 1#1 ++ f.toBits

/-- FC is zero when OvC is. -/
def FmtOpt.ofBits (b : BitVec 6) : Option FmtOpt :=
  if b = 0#6 then some .regs else
  if b.extractLsb' 5 1 = 1#1 then (Fmt.ofBits (b.extractLsb' 0 5)).map .over else .none


/-- The instructions of spec/opcode_table.json, and the steps of the part that the table lists beside them: one constructor per row. -/
inductive Instr where
  /-- `NOP` (R160). -/
  | nop
  /-- `YIELD` (R160). -/
  | yield
  /-- `END` (R161). -/
  | end_
  /-- `RET` (R158). -/
  | ret (a : GSpec)
  /-- `TRET` (R163). -/
  | tret
  /-- `TRAP` (R162). -/
  | trap (code : BitVec 6)
  /-- `BR` (R157). -/
  | br (disp : BitVec 11)
  /-- `CALL` (R158). -/
  | call (d : GSpec) (disp : BitVec 48)
  /-- `JMP` (R158). -/
  | jmp (a : GSpec)
  /-- `CALLI` (R158). -/
  | calli (d : GSpec) (a : GSpec)
  /-- `LOOP` (R159). -/
  | loop (a : GSpec) (disp : BitVec 11)
  /-- `SYSC` (R164). -/
  | sysc (n : BitVec 6)
  /-- `ADD` (R137). -/
  | add (d : GSpec) (a : GSpec) (b : GSpec)
  /-- `SUB` (R137). -/
  | sub (d : GSpec) (a : GSpec) (b : GSpec)
  /-- `MUL` (R137). -/
  | mul (d : GSpec) (a : GSpec) (b : GSpec)
  /-- `MULH` (R137). -/
  | mulh (d : GSpec) (a : GSpec) (b : GSpec)
  /-- `MULHN` (R137). -/
  | mulhn (d : GSpec) (a : GSpec) (b : GSpec)
  /-- `DIV` (R138). -/
  | div (d : GSpec) (a : GSpec) (b : GSpec) (l : Look)
  /-- `DIVN` (R138). -/
  | divn (d : GSpec) (a : GSpec) (b : GSpec) (l : Look)
  /-- `REM` (R138). -/
  | rem (d : GSpec) (a : GSpec) (b : GSpec) (l : Look)
  /-- `REMN` (R138). -/
  | remn (d : GSpec) (a : GSpec) (b : GSpec) (l : Look)
  /-- `AND` (R142). -/
  | and_ (d : GSpec) (a : GSpec) (b : GSpec)
  /-- `OR` (R142). -/
  | or_ (d : GSpec) (a : GSpec) (b : GSpec)
  /-- `XOR` (R142). -/
  | xor_ (d : GSpec) (a : GSpec) (b : GSpec)
  /-- `ANDN` (R142). -/
  | andn (d : GSpec) (a : GSpec) (b : GSpec)
  /-- `ORN` (R142). -/
  | orn (d : GSpec) (a : GSpec) (b : GSpec)
  /-- `SHL` (R143). -/
  | shl (d : GSpec) (a : GSpec) (b : GSpec)
  /-- `SHR` (R143). -/
  | shr (d : GSpec) (a : GSpec) (b : GSpec)
  /-- `SRA` (R143). -/
  | sra (d : GSpec) (a : GSpec) (b : GSpec)
  /-- `ROL` (R143). -/
  | rol (d : GSpec) (a : GSpec) (b : GSpec)
  /-- `MIN` (R141). -/
  | min (d : GSpec) (a : GSpec) (b : GSpec)
  /-- `MAX` (R141). -/
  | max (d : GSpec) (a : GSpec) (b : GSpec)
  /-- `MINN` (R141). -/
  | minn (d : GSpec) (a : GSpec) (b : GSpec)
  /-- `MAXN` (R141). -/
  | maxn (d : GSpec) (a : GSpec) (b : GSpec)
  /-- `ADDS` (R139). -/
  | adds (d : GSpec) (a : GSpec) (b : GSpec) (uns : Bool)
  /-- `SUBS` (R139). -/
  | subs (d : GSpec) (a : GSpec) (b : GSpec) (uns : Bool)
  /-- `ABS` (R140). -/
  | abs (d : GSpec) (a : GSpec)
  /-- `NEG` (R140). -/
  | neg (d : GSpec) (a : GSpec)
  /-- `CLZ` (R145). -/
  | clz (d : GSpec) (a : GSpec)
  /-- `CTZ` (R145). -/
  | ctz (d : GSpec) (a : GSpec)
  /-- `POPC` (R145). -/
  | popc (d : GSpec) (a : GSpec)
  /-- `BSWAP` (R145). -/
  | bswap (d : GSpec) (a : GSpec)
  /-- `SEXT` (R146). -/
  | sext (d : GSpec) (a : GSpec) (w : BitVec 6)
  /-- `ZEXT` (R146). -/
  | zext (d : GSpec) (a : GSpec) (w : BitVec 6)
  /-- `BFX` (R147). -/
  | bfx (d : GSpec) (a : GSpec) (pos : BitVec 6) (w : BitVec 6)
  /-- `BFI` (R147). -/
  | bfi (d : GSpec) (a : GSpec) (pos : BitVec 6) (w : BitVec 6)
  /-- `MOV` (R148). -/
  | mov (d : GSpec) (a : GSpec)
  /-- `SEL` (R148). -/
  | sel (d : GSpec) (a : GSpec) (b : GSpec) (p : PReg) (nt : Bool)
  /-- `CMP` (R150). -/
  | cmp (d : PReg) (a : GSpec) (b : GSpec) (c : Cond)
  /-- `ADDI` (R149). -/
  | addi (d : GSpec) (a : GSpec) (imm : BitVec 11)
  /-- `LI` (R149). -/
  | li (d : GSpec) (imm : BitVec 48)
  /-- `LIH` (R149). -/
  | lih (d : GSpec) (imm : BitVec 16)
  /-- `SHLI` (R144). -/
  | shli (d : GSpec) (a : GSpec) (n : BitVec 6)
  /-- `SHRI` (R144). -/
  | shri (d : GSpec) (a : GSpec) (n : BitVec 6)
  /-- `SRAI` (R144). -/
  | srai (d : GSpec) (a : GSpec) (n : BitVec 6)
  /-- `CMPI` (R150). -/
  | cmpi (d : PReg) (a : GSpec) (c : Cond) (imm : BitVec 48)
  /-- `LEA` (R151). -/
  | lea (d : GSpec) (a : GSpec) (b : GSpec) (sh : BitVec 2) (disp : BitVec 9)
  /-- `PTR_CVT_IN` (R152). -/
  | ptrCvtIn (d : GSpec) (a : GSpec) (ap : Aperture)
  /-- `PTR_CVT_OUT` (R152). -/
  | ptrCvtOut (d : GSpec) (a : GSpec) (ap : Aperture)
  /-- `PTR_IN` (R153). -/
  | ptrIn (d : PReg) (a : GSpec) (ap : Aperture)
  /-- `PAND` (R154). -/
  | pand (d : PReg) (a : PReg) (b : PReg) (nt : Bool)
  /-- `POR` (R154). -/
  | por (d : PReg) (a : PReg) (b : PReg) (nt : Bool)
  /-- `PXOR` (R154). -/
  | pxor (d : PReg) (a : PReg) (b : PReg) (nt : Bool)
  /-- `PNOT` (R154). -/
  | pnot (d : PReg) (a : PReg)
  /-- `PMOV` (R154). -/
  | pmov (d : PReg) (a : PReg)
  /-- `PSET` (R155). -/
  | pset (d : PReg) (v : Bool)
  /-- `PSET_ALL` (R155). -/
  | psetAll (a : GSpec)
  /-- `PGET` (R155). -/
  | pget (d : GSpec)
  /-- `CTL_GET` (R165). -/
  | ctlGet (d : GSpec) (idx : BitVec 12)
  /-- `CTL_SET` (R165). -/
  | ctlSet (a : GSpec) (idx : BitVec 12)
  /-- `CTL_SWAP` (R165). -/
  | ctlSwap (d : GSpec) (a : GSpec) (idx : BitVec 12)
  /-- `FENCE` (R168). -/
  | fence (scp : FScope)
  /-- `FENCE_ACQ` (R168). -/
  | fenceAcq (scp : FScope)
  /-- `FENCE_REL` (R168). -/
  | fenceRel (scp : FScope)
  /-- `REPART_HALF` (R170). -/
  | repartHalf
  /-- `REPART_DBL` (R170). -/
  | repartDbl
  /-- `GATE_UP` (R333). -/
  | gateUp
  /-- `GATE_DOWN` (R333). -/
  | gateDown
  /-- `GATE_FREE_UP` (R333). -/
  | gateFreeUp
  /-- `GATE_FREE_DOWN` (R333). -/
  | gateFreeDown
  /-- `CAP_GET` (R167). -/
  | capGet (d : PReg) (bit : BitVec 7)
  /-- `TLB_INV_PAGE` (R171). -/
  | tlbInvPage (a : GSpec)
  /-- `TLB_INV_CTX` (R171). -/
  | tlbInvCtx (a : GSpec)
  /-- `TLB_INV_ALL` (R171). -/
  | tlbInvAll
  /-- `CTAB_LOAD` (R172). -/
  | ctabLoad (a : GSpec) (t : BitVec 4) (l : Look)
  /-- `LD` (R303). -/
  | ld (d : GSpec) (a : GSpec) (w : Width) (sx : Bool) (o : MemOrd) (imm : BitVec 48)
  /-- `ST` (R304). -/
  | st (d : GSpec) (a : GSpec) (w : Width) (o : MemOrd) (imm : BitVec 48)
  /-- `LDV` (R305). -/
  | ldv (vd : VSpec) (a : GSpec) (k : KReg) (imm : BitVec 26) (o : MemOrd) (l : Look)
  /-- `STV` (R305). -/
  | stv (vd : VSpec) (a : GSpec) (k : KReg) (imm : BitVec 26) (o : MemOrd) (l : Look)
  /-- `GATH` (R307). -/
  | gath (vd : VSpec) (a : GSpec) (vb : VSpec) (k : KReg) (w : Width) (sh : BitVec 2) (o : MemOrd) (l : Look)
  /-- `SCAT` (R307). -/
  | scat (vd : VSpec) (a : GSpec) (vb : VSpec) (k : KReg) (w : Width) (sh : BitVec 2) (o : MemOrd) (l : Look)
  /-- `LR` (R309). -/
  | lr (d : GSpec) (a : GSpec) (dbl : Bool) (o : MemOrd) (l : Look)
  /-- `SC` (R310). -/
  | sc (d : GSpec) (a : GSpec) (dbl : Bool) (o : MemOrd) (p : PReg) (l : Look)
  /-- `AMO` (R311). -/
  | amo (d : GSpec) (a : GSpec) (b : GSpec) (op : AmoOp) (dbl : Bool) (o : AmoOrd) (l : Look)
  /-- `VAMO` (R313). -/
  | vamo (vd : VSpec) (a : GSpec) (vb : VSpec) (vc : VSpec) (k : KReg) (op : AmoOp) (dbl : Bool) (o : AmoOrd) (l : Look)
  /-- `WRS` (R314). -/
  | wrs (a : GSpec)
  /-- `WALK` (R315). -/
  | walk (a : GSpec)
  /-- `WALK_HOME` (R316). -/
  | walkHome
  /-- `QMAP` (R321). -/
  | qmap (n : BitVec 3) (id : BitVec 8)
  /-- `QFREE` (R322). -/
  | qfree (d : GSpec) (n : BitVec 3)
  /-- `QLEN` (R322). -/
  | qlen (d : GSpec) (n : BitVec 3)
  /-- `QPEEK` (R322). -/
  | qpeek (d : GSpec) (n : BitVec 3)
  /-- `QTRY` (R323). -/
  | qtry (d : GSpec) (n : BitVec 3) (p : PReg)
  /-- `QPUT` (R323). -/
  | qput (n : BitVec 3) (a : GSpec) (p : PReg)
  /-- `QCLOSE` (R324). -/
  | qclose (n : BitVec 3)
  /-- `BAR_INIT` (R328). -/
  | barInit (a : GSpec) (id : BitVec 9)
  /-- `BAR_JOIN` (R328). -/
  | barJoin (id : BitVec 9)
  /-- `BAR_ARR` (R328). -/
  | barArr (id : BitVec 9)
  /-- `BAR_DROP` (R328). -/
  | barDrop (id : BitVec 9)
  /-- `BAR_LEAVE` (R328). -/
  | barLeave (id : BitVec 9)
  /-- `BAR_EXP` (R331). -/
  | barExp (a : GSpec) (id : BitVec 9)
  /-- `BAR_WAIT` (R329). -/
  | barWait (id : BitVec 9)
  /-- `BAR_TRY` (R329). -/
  | barTry (d : PReg) (id : BitVec 9)
  /-- `BAR_BITS` (R328). -/
  | barBits (d : GSpec) (id : BitVec 9)
  /-- `LT_GET` (R347). -/
  | ltGet (d : GSpec) (c : BitVec 2)
  /-- `LT_ENTER` (R348). -/
  | ltEnter
  /-- `LT_LEAVE` (R348). -/
  | ltLeave
  /-- `LT_STEP` (R348). -/
  | ltStep
  /-- `SPAWN` (R351). -/
  | spawn (d : GSpec) (a : GSpec) (l : Look)
  /-- `SPAWN_LIGHT` (R351). -/
  | spawnLight (d : GSpec) (a : GSpec) (l : Look)
  /-- `ORD_SPAWN` (R351). -/
  | ordSpawn (d : GSpec) (a : GSpec) (l : Look)
  /-- `ORD_SPAWN_LIGHT` (R351). -/
  | ordSpawnLight (d : GSpec) (a : GSpec) (l : Look)
  /-- `LAUNCH` (R404). -/
  | launch (d : PReg) (a : GSpec) (l : Look)
  /-- `TCAP_HOLD` (R352). -/
  | tcapHold (a : GSpec) (stg : BitVec 6)
  /-- `TCAP_FREE` (R352). -/
  | tcapFree (a : GSpec) (stg : BitVec 6)
  /-- `PLUMB_WAIT` (R354). -/
  | plumbWait (a : GSpec) (stg : BitVec 6)
  /-- `PLUMB_GET` (R355). -/
  | plumbGet (d : GSpec) (stg : BitVec 6)
  /-- `RING_MATCH` (R363). -/
  | ringMatch (a : GSpec) (e : BitVec 6) (l : Look)
  /-- `RING_PUT` (R362). -/
  | ringPut (a : GSpec) (b : GSpec) (perch : Bool) (r : RingKind) (l : Look)
  /-- `RING_TAKE` (R369). -/
  | ringTake (d : GSpec) (a : GSpec) (perch : Bool) (r : RingKind) (l : Look)
  /-- `RING_ST` (R370). -/
  | ringSt (d : GSpec) (r : RingKind)
  /-- `RING_DRAIN` (R371). -/
  | ringDrain (r : RingKind)
  /-- `RING_CFG` (R360). -/
  | ringCfg (a : GSpec) (r : RingKind) (l : Look)
  /-- `XFER` (R374). -/
  | xfer (a : GSpec)
  /-- `XFER_TRY` (R374). -/
  | xferTry (a : GSpec) (p : PReg)
  /-- `XFER_WP` (R387). -/
  | xferWp (d : GSpec) (a : GSpec)
  /-- `XFER_ST` (R387). -/
  | xferSt (d : GSpec) (a : GSpec)
  /-- `COLL_PUT` (R393). -/
  | collPut (a : GSpec) (grp : BitVec 8) (l : Look)
  /-- `COLL_GET` (R393). -/
  | collGet (d : GSpec) (grp : BitVec 8) (l : Look)
  /-- `COLL_AGREE` (R393). -/
  | collAgree (d : GSpec) (a : GSpec) (grp : BitVec 8) (l : Look)
  /-- `MMA` (R218). -/
  | mma (acc : BitVec 2) (src : BitVec 5) (k : GSpec) (fmts : FmtPair) (z : Bool) (l : Look) (e : Energy)
  /-- `MZERO` (R221). -/
  | mzero (acc : BitVec 2) (l : Look) (e : Energy)
  /-- `MRD` (R222). -/
  | mrd (acc : BitVec 2) (src : BitVec 5) (k : GSpec) (vec : VSpec) (row : BitVec 6) (rreg : Bool) (cnt : BitVec 6) (fc : FmtOpt) (l : Look) (e : Energy)
  /-- `MWR` (R222). -/
  | mwr (acc : BitVec 2) (src : BitVec 5) (k : GSpec) (vec : VSpec) (row : BitVec 6) (rreg : Bool) (cnt : BitVec 6) (fc : FmtOpt) (l : Look) (e : Energy)
  /-- `MSAVE` (R223). -/
  | msave (acc : BitVec 2) (a : GSpec) (l : Look)
  /-- `MREST` (R223). -/
  | mrest (acc : BitVec 2) (a : GSpec) (l : Look)
  /-- `BLD` (R211). -/
  | bld (a : GSpec) (len : GSpec) (line : BitVec 11) (bank : BitVec 6) (cnt : BitVec 6) (l : Look) (e : Energy)
  /-- `BSEL` (R210). -/
  | bsel (a : GSpec) (acc : BitVec 2)
  /-- `MCFG_SRC` (R215). -/
  | mcfgSrc (a : GSpec)
  /-- `MCFG_STRIDE` (R215). -/
  | mcfgStride (a : GSpec)
  /-- `MCFG_GO` (R215). -/
  | mcfgGo (a : GSpec)
  /-- `MCFG_STOP` (R215). -/
  | mcfgStop
  /-- `MXP` (R229). -/
  | mxp (n : BitVec 4) (l : Look) (e : Energy)
  /-- `MXP_TAB` (R228). -/
  | mxpTab (a : GSpec) (l : Look)
  /-- `MWAIT` (R224). -/
  | mwait (acc : BitVec 2)
  /-- `VADD` (R181). -/
  | vadd (vd : VSpec) (va : VSpec) (vb : VSpec) (k : KReg) (f : Fmt) (e : Energy)
  /-- `VSUB` (R181). -/
  | vsub (vd : VSpec) (va : VSpec) (vb : VSpec) (k : KReg) (f : Fmt) (e : Energy)
  /-- `VMUL` (R181). -/
  | vmul (vd : VSpec) (va : VSpec) (vb : VSpec) (k : KReg) (f : Fmt) (e : Energy)
  /-- `VFMA` (R182). -/
  | vfma (vd : VSpec) (va : VSpec) (vb : VSpec) (vc : VSpec) (k : KReg) (f : Fmt) (e : Energy)
  /-- `VFMS` (R182). -/
  | vfms (vd : VSpec) (va : VSpec) (vb : VSpec) (vc : VSpec) (k : KReg) (f : Fmt) (e : Energy)
  /-- `VMIN` (R181). -/
  | vmin (vd : VSpec) (va : VSpec) (vb : VSpec) (k : KReg) (f : Fmt) (e : Energy)
  /-- `VMAX` (R181). -/
  | vmax (vd : VSpec) (va : VSpec) (vb : VSpec) (k : KReg) (f : Fmt) (e : Energy)
  /-- `VADDS` (R181). -/
  | vadds (vd : VSpec) (va : VSpec) (vb : VSpec) (k : KReg) (f : Fmt) (e : Energy)
  /-- `VSUBS` (R181). -/
  | vsubs (vd : VSpec) (va : VSpec) (vb : VSpec) (k : KReg) (f : Fmt) (e : Energy)
  /-- `VMULH` (R181). -/
  | vmulh (vd : VSpec) (va : VSpec) (vb : VSpec) (k : KReg) (f : Fmt) (e : Energy)
  /-- `VABS` (R181). -/
  | vabs (vd : VSpec) (va : VSpec) (k : KReg) (f : Fmt) (e : Energy)
  /-- `VNEG` (R181). -/
  | vneg (vd : VSpec) (va : VSpec) (k : KReg) (f : Fmt) (e : Energy)
  /-- `VDOT` (R183). -/
  | vdot (vd : VSpec) (va : VSpec) (vb : VSpec) (vc : VSpec) (k : KReg) (fp : Fmt) (fa : Fmt) (e : Energy)
  /-- `VAND` (R184). -/
  | vand (vd : VSpec) (va : VSpec) (vb : VSpec) (k : KReg) (e : Energy)
  /-- `VOR` (R184). -/
  | vor (vd : VSpec) (va : VSpec) (vb : VSpec) (k : KReg) (e : Energy)
  /-- `VXOR` (R184). -/
  | vxor (vd : VSpec) (va : VSpec) (vb : VSpec) (k : KReg) (e : Energy)
  /-- `VNOT` (R184). -/
  | vnot (vd : VSpec) (va : VSpec) (k : KReg) (e : Energy)
  /-- `VSHL` (R187). -/
  | vshl (vd : VSpec) (va : VSpec) (vb : VSpec) (k : KReg) (f : Fmt) (e : Energy)
  /-- `VSHR` (R187). -/
  | vshr (vd : VSpec) (va : VSpec) (vb : VSpec) (k : KReg) (f : Fmt) (e : Energy)
  /-- `VSRA` (R187). -/
  | vsra (vd : VSpec) (va : VSpec) (vb : VSpec) (k : KReg) (f : Fmt) (e : Energy)
  /-- `VCMP` (R185). -/
  | vcmp (kd : KReg) (va : VSpec) (vb : VSpec) (k : KReg) (f : Fmt) (c : Cond) (e : Energy)
  /-- `VSEL` (R184). -/
  | vsel (vd : VSpec) (va : VSpec) (vb : VSpec) (k : KReg) (e : Energy)
  /-- `VCVT` (R189). -/
  | vcvt (vd : VSpec) (va : VSpec) (k : KReg) (fd : Fmt) (fs : Fmt) (e : Energy)
  /-- `VPACK` (R189). -/
  | vpack (vd : VSpec) (va : VSpec) (vb : VSpec) (k : KReg) (fd : Fmt) (fs : Fmt) (e : Energy)
  /-- `VUNPK` (R189). -/
  | vunpk (vd : VSpec) (va : VSpec) (k : KReg) (fd : Fmt) (fs : Fmt) (hi : Bool) (e : Energy)
  /-- `VSCL` (R191). -/
  | vscl (vd : VSpec) (va : VSpec) (vb : VSpec) (k : KReg) (f : Fmt) (e : Energy)
  /-- `VRCP` (R192). -/
  | vrcp (vd : VSpec) (va : VSpec) (k : KReg) (f : Fmt) (l : Look) (e : Energy)
  /-- `VRSQ` (R192). -/
  | vrsq (vd : VSpec) (va : VSpec) (k : KReg) (f : Fmt) (l : Look) (e : Energy)
  /-- `VSQRT` (R192). -/
  | vsqrt (vd : VSpec) (va : VSpec) (k : KReg) (f : Fmt) (l : Look) (e : Energy)
  /-- `VEXP2` (R192). -/
  | vexp2 (vd : VSpec) (va : VSpec) (k : KReg) (f : Fmt) (l : Look) (e : Energy)
  /-- `VLOG2` (R192). -/
  | vlog2 (vd : VSpec) (va : VSpec) (k : KReg) (f : Fmt) (l : Look) (e : Energy)
  /-- `VSIN` (R192). -/
  | vsin (vd : VSpec) (va : VSpec) (k : KReg) (f : Fmt) (l : Look) (e : Energy)
  /-- `VCOS` (R192). -/
  | vcos (vd : VSpec) (va : VSpec) (k : KReg) (f : Fmt) (l : Look) (e : Energy)
  /-- `VTANH` (R192). -/
  | vtanh (vd : VSpec) (va : VSpec) (k : KReg) (f : Fmt) (l : Look) (e : Energy)
  /-- `VRED` (R195). -/
  | vred (vd : VSpec) (va : VSpec) (k : KReg) (f : Fmt) (op : RedOp) (e : Energy)
  /-- `VSCAN` (R195). -/
  | vscan (vd : VSpec) (va : VSpec) (k : KReg) (f : Fmt) (op : RedOp) (e : Energy)
  /-- `VPERM` (R196). -/
  | vperm (vd : VSpec) (va : VSpec) (vb : VSpec) (vc : VSpec) (k : KReg) (f : Fmt) (e : Energy)
  /-- `VSHUF` (R197). -/
  | vshuf (vd : VSpec) (va : VSpec) (k : KReg) (f : Fmt) (pat : Shuf) (e : Energy)
  /-- `VBC` (R198). -/
  | vbc (vd : VSpec) (a : GSpec) (k : KReg) (f : Fmt) (e : Energy)
  /-- `VEXT` (R199). -/
  | vext (d : GSpec) (va : VSpec) (f : Fmt) (idx : BitVec 6)
  /-- `VINS` (R199). -/
  | vins (vd : VSpec) (a : GSpec) (f : Fmt) (idx : BitVec 6)
  /-- `VQRECV` (R200). -/
  | vqrecv (vd : VSpec) (n : BitVec 3) (k : KReg) (e : Energy)
  /-- `VQSEND` (R200). -/
  | vqsend (n : BitVec 3) (va : VSpec)
  /-- `VMOV` (R184). -/
  | vmov (vd : VSpec) (va : VSpec) (k : KReg) (e : Energy)
  /-- `VZERO` (R184). -/
  | vzero (vd : VSpec) (k : KReg) (e : Energy)
  /-- `VCLASS` (R186). -/
  | vclass (vd : VSpec) (va : VSpec) (k : KReg) (f : Fmt) (e : Energy)
  /-- `KAND` (R201). -/
  | kand (d : KReg) (a : KReg) (b : KReg)
  /-- `KOR` (R201). -/
  | kor (d : KReg) (a : KReg) (b : KReg)
  /-- `KXOR` (R201). -/
  | kxor (d : KReg) (a : KReg) (b : KReg)
  /-- `KNOT` (R201). -/
  | knot (d : KReg) (a : KReg)
  /-- `KMOV` (R201). -/
  | kmov (d : KReg) (a : KReg)
  /-- `KPOP` (R201). -/
  | kpop (d : GSpec) (a : KReg)
  /-- `VSHLI` (R188). -/
  | vshli (vd : VSpec) (va : VSpec) (k : KReg) (f : Fmt) (amt : BitVec 6) (e : Energy)
  /-- `VSHRI` (R188). -/
  | vshri (vd : VSpec) (va : VSpec) (k : KReg) (f : Fmt) (amt : BitVec 6) (e : Energy)
  /-- `VSRAI` (R188). -/
  | vsrai (vd : VSpec) (va : VSpec) (k : KReg) (f : Fmt) (amt : BitVec 6) (e : Energy)
  /-- `RVMUL` (R246). -/
  | rvmul (vd : VSpec) (va : VSpec) (b : GSpec) (k : KReg) (f : Fmt) (e : Energy)
  /-- `UNMUL` (R246). -/
  | unmul (vd : VSpec) (va : VSpec) (b : GSpec) (k : KReg) (f : Fmt) (e : Energy)
  /-- `RVCVT` (R247). -/
  | rvcvt (vd : VSpec) (va : VSpec) (k : KReg) (fd : Fmt) (fs : Fmt) (e : Energy)
  /-- `UNCVT` (R247). -/
  | uncvt (vd : VSpec) (va : VSpec) (k : KReg) (fd : Fmt) (fs : Fmt) (e : Energy)
  /-- `RVSRA` (R245). -/
  | rvsra (vd : VSpec) (va : VSpec) (k : KReg) (f : Fmt) (amt : BitVec 6) (e : Energy)
  /-- `UNSRA` (R245). -/
  | unsra (vd : VSpec) (va : VSpec) (k : KReg) (f : Fmt) (amt : BitVec 6) (e : Energy)
  /-- `RVSCL` (R248). -/
  | rvscl (vd : VSpec) (va : VSpec) (vb : VSpec) (k : KReg) (f : Fmt) (e : Energy)
  /-- `UNSCL` (R248). -/
  | unscl (vd : VSpec) (va : VSpec) (vb : VSpec) (k : KReg) (f : Fmt) (e : Energy)
  /-- `RVACT` (R249). -/
  | rvact (vd : VSpec) (va : VSpec) (k : KReg) (f : Fmt) (s : BitVec 5) (e : Energy)
  /-- `UNACT` (R249). -/
  | unact (vd : VSpec) (va : VSpec) (k : KReg) (f : Fmt) (s : BitVec 5) (e : Energy)
  /-- `SKIM_MARK` (R251). -/
  | skimMark (id : BitVec 5)
  /-- `SKIM_CUT` (R252). -/
  | skimCut (id : BitVec 5)
  /-- `SKIM_DEP` (R254). -/
  | skimDep (d : GSpec)
  /-- `SKIM_AREA` (R255). -/
  | skimArea (a : GSpec) (b : GSpec)
  /-- `SKIM_CHK` (R253). -/
  | skimChk (d : PReg) (id : BitVec 5)
  /-- `POWER_ON_RESET` (R481). -/
  | powerOnReset
  /-- `SCREED_BOOT` (R491). -/
  | screedBoot
  /-- `LAYER_JOIN` (R481). -/
  | layerJoin
  /-- `BSTORE_CALIBRATION_DONE` (R481). -/
  | bstoreCalibrationDone
  /-- `FULL_SERVICE_BEGIN` (R482). -/
  | fullServiceBegin
  /-- `TABLE_OWNER_EXCHANGE` (R174). -/
  | tableOwnerExchange
  /-- `WALK_CONTEXT_ARRIVAL` (R270). -/
  | walkContextArrival
  /-- `ARRIVAL_PLACEMENT` (R270). -/
  | arrivalPlacement
  /-- `REMOTE_ACCESS_REQUEST` (R264). -/
  | remoteAccessRequest
  /-- `PROXIED_ACCESS_REQUEST` (R268). -/
  | proxiedAccessRequest
  /-- `ACCESS_RESPONSE` (R264). -/
  | accessResponse
  /-- `AMO_QUEUE_HEAD` (R287). -/
  | amoQueueHead
  /-- `AMO_UNIT_COMPUTE` (R312). -/
  | amoUnitCompute
  /-- `AMO_WRITE_HALF` (R287). -/
  | amoWriteHalf
  /-- `SC_QUEUE_HEAD` (R310). -/
  | scQueueHead
  /-- `ORDERED_TASK_COMMIT` (R356). -/
  | orderedTaskCommit
  /-- `FIFO_ENTRY_ARRIVAL` (R325). -/
  | fifoEntryArrival
  /-- `FIFO_POP_REPORT` (R325). -/
  | fifoPopReport
  /-- `NETWORK_QUEUE_ARRIVAL` (R318). -/
  | networkQueueArrival
  /-- `GRADIENT_ENTRY_ARRIVAL` (R326). -/
  | gradientEntryArrival
  /-- `GRADIENT_WINDOW_UPDATE` (R326). -/
  | gradientWindowUpdate
  /-- `WIDE_BARRIER_ARRIVAL` (R332). -/
  | wideBarrierArrival
  /-- `WIDE_BARRIER_COMPLETION` (R332). -/
  | wideBarrierCompletion
  /-- `QUAD_GATED` (R334). -/
  | quadGated
  /-- `QUAD_WAKE_COMPLETE` (R333). -/
  | quadWakeComplete
  /-- `HOME_RECORD_REQUEST` (R353). -/
  | homeRecordRequest
  /-- `HOME_RECORD_ANSWER` (R353). -/
  | homeRecordAnswer
  /-- `QUAD_TABLE_FLUSH` (R344). -/
  | quadTableFlush
  /-- `DIE_TABLE_FLUSH` (R344). -/
  | dieTableFlush
  /-- `POINTSTAMP_BATCH_ARRIVAL` (R344). -/
  | pointstampBatchArrival
  /-- `FRONTIER_VIEW_UPDATE` (R346). -/
  | frontierViewUpdate
  /-- `RING_STEP` (R359). -/
  | ringStep
  /-- `COPY_QUEUE_REQUEST` (R374). -/
  | copyQueueRequest
  /-- `COPY_CHANNEL_START` (R382). -/
  | copyChannelStart
  /-- `COPY_DELIVERY` (R381). -/
  | copyDelivery
  /-- `COPY_RESUME` (R383). -/
  | copyResume
  /-- `TREE_RECORD_APPLY` (R395). -/
  | treeRecordApply
  /-- `COPY_COMPLETION` (R384). -/
  | copyCompletion
  /-- `XFER_DONE` (R384). -/
  | xferDone
  /-- `POD_DELIVERY_ACK` (R464). -/
  | podDeliveryAck
  /-- `COLL_ROUND_INPUT` (R391). -/
  | collRoundInput
  /-- `COLL_RESULT_RETURN` (R391). -/
  | collResultReturn
  /-- `FEEDER_PUSH` (R215). -/
  | feederPush
  /-- `MXP_EXCHANGE_START` (R229). -/
  | mxpExchangeStart
  /-- `MXP_ABANDON` (R229). -/
  | mxpAbandon
  /-- `MATRIX_OP_COMPLETE` (R220). -/
  | matrixOpComplete
  /-- `FLAG_TRAP` (R51). -/
  | flagTrap
  /-- `SKIM_BACKGROUND_SPILL` (R241). -/
  | skimBackgroundSpill
  /-- `SKIM_BACKGROUND_REFILL` (R241). -/
  | skimBackgroundRefill
  /-- `LONG_RESULT_WRITTEN` (R64). -/
  | longResultWritten
  /-- `WQ_WINDOW_WRITE` (R398). -/
  | wqWindowWrite
  /-- `DEVICE_OVERFLOW_REFILL` (R403). -/
  | deviceOverflowRefill
  /-- `LAUNCH_ARBITRATION` (R405). -/
  | launchArbitration
  /-- `LAUNCH_NUMBER_TAKEN` (R401). -/
  | launchNumberTaken
  /-- `TASK_TO_DIE_DISPATCHER` (R407). -/
  | taskToDieDispatcher
  /-- `TASK_TO_CORE_POOL` (R406). -/
  | taskToCorePool
  /-- `TASK_PLACED_IN_SLOT` (R409). -/
  | taskPlacedInSlot
  /-- `PARKED_THREAD_SWAP_OUT` (R410). -/
  | parkedThreadSwapOut
  /-- `PARKED_WAIT_SATISFIED` (R61). -/
  | parkedWaitSatisfied
  /-- `WATCHDOG` (R413). -/
  | watchdog
  /-- `EBUDGET_REFILL` (R486). -/
  | ebudgetRefill
  /-- `LAUNCH_END` (R415). -/
  | launchEnd
  /-- `COMPLETION_RECORD_WRITE` (R402). -/
  | completionRecordWrite
  /-- `LAUNCH_RETIRE` (R417). -/
  | launchRetire
  /-- `LAUNCH_ABORT` (R417). -/
  | launchAbort
  /-- `PREEMPT_CONTEXT` (R421). -/
  | preemptContext
  /-- `EVICT_CONTEXT` (R425). -/
  | evictContext
  /-- `RESTORE_CONTEXT` (R426). -/
  | restoreContext
  /-- `HANDLER_FAULT_DELIVERY` (R430). -/
  | handlerFaultDelivery
  /-- `FAULT_REPLAY` (R434). -/
  | faultReplay
  /-- `FAULT_REFUSED` (R434). -/
  | faultRefused
  /-- `HOST_CONFIG_ACCESS` (R443). -/
  | hostConfigAccess
  /-- `BAR4_MEMORY_ACCESS` (R444). -/
  | bar4MemoryAccess
  /-- `HOST_REQUEST_FORWARD` (R447). -/
  | hostRequestForward
  /-- `PORTCFG_MODE_WRITE` (R442). -/
  | portcfgModeWrite
  /-- `PORT_FULL_RETRAIN` (R31). -/
  | portFullRetrain
  /-- `TOPOVER_NEXT_WRITE` (R455). -/
  | topoverNextWrite
  /-- `TOPOLOGY_SWAP` (R455). -/
  | topologySwap
  /-- `PODTIME_WRITE` (R460). -/
  | podtimeWrite
  /-- `BAR4_COUNT_CLEAR` (R445). -/
  | bar4CountClear
  /-- `DONE_HEAD_WRITE` (R446). -/
  | doneHeadWrite
  /-- `STALECNT_CLEAR` (R456). -/
  | stalecntClear
  /-- `THERMSTAT_TRIP_CLEAR` (R485). -/
  | thermstatTripClear
  /-- `GRANT_TABLE_WRITE` (R420). -/
  | grantTableWrite
  /-- `CONTROL_WINDOW_WRITE` (R445). -/
  | controlWindowWrite
  /-- `POD_MESSAGE_FORWARD` (R453). -/
  | podMessageForward
  /-- `FLIT_RECEIVE` (R457). -/
  | flitReceive
  /-- `FEC_GROUP_RECEIVE` (R458). -/
  | fecGroupReceive
  /-- `FEC_RETRY` (R458). -/
  | fecRetry
  /-- `CHAIN_TABLE_INSTALL` (R459). -/
  | chainTableInstall
  /-- `CHAIN_SLOT_START` (R460). -/
  | chainSlotStart
  /-- `CHAIN_DATA_WINDOW` (R461). -/
  | chainDataWindow
  /-- `LINK_BEAT_REPLAY` (R468). -/
  | linkBeatReplay
  /-- `BOND_IDLE_TEST` (R472). -/
  | bondIdleTest
  /-- `BOND_GROUP_FAILURE` (R472). -/
  | bondGroupFailure
  /-- `WAVELENGTH_RETRAIN_START` (R476). -/
  | wavelengthRetrainStart
  /-- `WAVELENGTH_HANDBACK` (R476). -/
  | wavelengthHandback
  /-- `SLICE_SCRUB` (R471). -/
  | sliceScrub
  /-- `BSTORE_SCRUB` (R471). -/
  | bstoreScrub
  /-- `HBM_SCRUB` (R471). -/
  | hbmScrub
  /-- `CHANNEL_COPY_START` (R479). -/
  | channelCopyStart
  /-- `CHANNEL_COPY_COMPLETE` (R479). -/
  | channelCopyComplete
  /-- `CHECKPOINT_START` (R483). -/
  | checkpointStart
  /-- `RESTORE_START` (R483). -/
  | restoreStart
  /-- `CHECKPOINT_COMPLETE` (R483). -/
  | checkpointComplete
  /-- `THERMAL_THROTTLE` (R35). -/
  | thermalThrottle
  /-- `THERMAL_TRIP` (R35). -/
  | thermalTrip
  /-- `REGION_COUNT_HALVING` (R440). -/
  | regionCountHalving
  /-- `REMAPREQ_GO` (R488). -/
  | remapreqGo
  /-- `REMAP_SWAP_RUN` (R490). -/
  | remapSwapRun
  /-- `ATTEST_NONCE_WRITE` (R492). -/
  | attestNonceWrite
  /-- `ATTEST_REPORT_READY` (R492). -/
  | attestReportReady
  /-- `FIRMWARE_UPDATE_WRITE` (R491). -/
  | firmwareUpdateWrite
  /-- `LINK_RETURNS_TO_SERVICE` (R372). -/
  | linkReturnsToService
  deriving DecidableEq, Repr

end Sys2Proof
end

