-- ==== Sys2Proof/WellFormed.lean ====
section
/-!
DEFINITION. The static limits on operands: check 1 of R110, as far as it depends on the instruction alone.
-/

namespace Sys2Proof

/-- The specifier names a general register (R41). -/
def isG (r : GSpec) : Bool := decide (r.toNat < 24)

/-- Position and width stay within 64 bits (R95). -/
def fieldFits (pos w : BitVec 6) : Bool := decide (pos.toNat + w.toNat + 1 ≤ 64)

/-- i8 to i64 and n8 to n64. -/
def Fmt.isInt : Fmt → Bool
  | .i8 | .i16 | .i32 | .i64 | .n8 | .n16 | .n32 | .n64 => true
  | .fp16 | .bf16 | .fp32 | .e4m3 | .e5m2 | .e3m2 | .e2m3 | .qc | .pk => false

/-- i8 to i64. -/
def Fmt.isSigned : Fmt → Bool
  | .i8 | .i16 | .i32 | .i64 => true
  | .n8 | .n16 | .n32 | .n64 | .fp16 | .bf16 | .fp32 | .e4m3 | .e5m2 | .e3m2 | .e2m3 | .qc | .pk => false

/-- FP16, BF16 and FP32. -/
def Fmt.isFloat : Fmt → Bool
  | .fp16 | .bf16 | .fp32 => true
  | .i8 | .i16 | .i32 | .i64 | .n8 | .n16 | .n32 | .n64 | .e4m3 | .e5m2 | .e3m2 | .e2m3 | .qc | .pk => false

/-- The block formats E4M3, E5M2, E3M2, E2M3 and the quad code (R190). -/
def Fmt.isBlock : Fmt → Bool
  | .e4m3 | .e5m2 | .e3m2 | .e2m3 | .qc => true
  | .i8 | .i16 | .i32 | .i64 | .n8 | .n16 | .n32 | .n64 | .fp16 | .bf16 | .fp32 | .pk => false

/-- The formats of the arithmetic rows of R179. -/
def Fmt.isArith (f : Fmt) : Bool := f.isInt || f.isFloat || f == .pk

/-- The element width of a format, the packed one having the width `pkw` that EFMT gives (R176). -/
def Fmt.width (pkw : Nat) : Fmt → Nat
  | .i8 | .n8 | .e4m3 | .e5m2 => 8
  | .i16 | .n16 | .fp16 | .bf16 => 16
  | .i32 | .n32 | .fp32 => 32
  | .i64 | .n64 => 64
  | .e3m2 | .e2m3 => 6
  | .qc => 4
  | .pk => pkw

/-- The greatest width the format can have. -/
def Fmt.maxWidth (f : Fmt) : Nat := f.width 6

/-- The greatest element count the format can have (R176). -/
def Fmt.maxCount (f : Fmt) : Nat := 512 / f.width 4

/-- The two widths are related as asked, as far as check 1 decides: a packed format is judged by EFMT at check 7 (R179, R189). -/
def widthRel (r : Nat → Nat → Bool) (d s : Fmt) : Bool := d == .pk || s == .pk || r (d.width 4) (s.width 4)

/-- Some width of a packed format relates the two as asked (R189). -/
def canRelate (r : Nat → Nat → Bool) (d s : Fmt) : Bool := r (d.width 4) (s.width 4) || r (d.width 6) (s.width 6)

/-- An immediate amount of a shift: below the width of an integer format; of the packed format check 7 judges it (R188, R245). -/
def amtOk (f : Fmt) (amt : Nat) : Bool := f == .pk || (f.isInt && decide (amt < f.width 4))

/-- The pairs of `vdot` (R183), signedness of the packed format apart. -/
def dotPairOk (p a : Fmt) : Bool :=
  match p, a with
  | .i8, .i32 | .n8, .n32 | .i16, .i64 | .n16, .n64 | .pk, .i32 | .pk, .n32 | .fp16, .fp32 | .bf16, .fp32 => true
  | _, _ => false

/-- The conditions of `vcmp`: codes 0 to 5 and 10 with a float format, 0 to 9 without (R96). -/
def cmpCondOk (f : Fmt) (c : Cond) : Bool :=
  match c with
  | .uo => f.isFloat
  | .ltn | .len | .gtn | .gen => !f.isFloat
  | .eq | .ne | .lt | .le | .gt | .ge => true

/-- The limits of R197 that do not depend on EFMT. -/
def shufOk (f : Fmt) (s : Shuf) : Bool :=
  let six := f == .e3m2 || f == .e2m3
  match s with
  | .rot _ => true
  | .bc p => decide (p.toNat < f.maxCount)
  | .rev p => !six && decide (p.toNat < 7) && decide (2 ^ (p.toNat + 1) ≤ f.maxCount)
  | .uzp | .zip => !six

/-- The A and B formats of `mma` (R205). -/
def Fmt.isMat : Fmt → Bool
  | .fp16 | .bf16 | .i8 | .n8 | .e4m3 | .e5m2 | .e3m2 | .e2m3 | .qc => true
  | .i16 | .i32 | .i64 | .n16 | .n32 | .n64 | .fp32 | .pk => false

/-- The row formats of FMTC (R207). -/
def Fmt.isRow : Fmt → Bool
  | .i8 | .i32 | .fp16 | .bf16 | .fp32 | .e4m3 | .e5m2 | .e3m2 | .e2m3 | .qc => true
  | .i16 | .i64 | .n8 | .n16 | .n32 | .n64 | .pk => false

/-- FA and FB stay within R205. -/
def matPairOk : FmtPair → Bool
  | .regs => true
  | .over fa fb => fa.isMat && fb.isMat

/-- FC stays within R207. -/
def rowFmtOptOk : FmtOpt → Bool
  | .regs => true
  | .over f => f.isRow

/-- asrc of `mrd` and `mwr`: 0 for the vector form, 24 to 31 for a queue, whose Vec is zero (R222). -/
def rowSourceOk (src : BitVec 5) (vec : VSpec) : Bool := src == 0#5 || (decide (24 ≤ src.toNat) && vec == 0#6)

/-- The queue ids of R318. -/
def queueIdOk (id : BitVec 8) : Bool :=
  let n := id.toNat
  decide (n ≤ 0x07) || (decide (0x10 ≤ n) && decide (n ≤ 0x13)) || (decide (0x18 ≤ n) && decide (n ≤ 0x1A)) ||
  (decide (0x20 ≤ n) && decide (n ≤ 0x25)) || (decide (0x28 ≤ n) && decide (n ≤ 0x2B)) || n == 0x30 || n == 0x31

/-- The access classes of control registers (R49). -/
inductive CtlAccess where
  | rw | ro | rt
  deriving DecidableEq, Repr

/-- The access of a control register index; `none` when it is not listed (R49). -/
def ctlAccess (idx : BitVec 12) : Option CtlAccess :=
  match idx.toNat with
  | 0x000 | 0x001 | 0x002 | 0x010 | 0x011 | 0x012 | 0x013 | 0x014 | 0x032 | 0x071 | 0x072 | 0x0A0 => some .rw
  | 0x020 | 0x030 | 0x031 | 0x040 | 0x041 | 0x050 | 0x051 | 0x052 | 0x053 | 0x054 | 0x060 | 0x070 | 0x080 | 0x090
  | 0x091 | 0x0A1 => some .ro
  | 0x800 | 0x801 | 0x802 => some .rt
  | _ => none

/-- `ctl.set` may name the register: it is listed and not RO (R49). -/
def ctlWritable (idx : BitVec 12) : Bool :=
  match ctlAccess idx with
  | some .rw | some .rt => true
  | some .ro | none => false

/-- The static limits of every instruction. The steps of the part have none. -/
def Instr.wf : Instr → Bool
  | .powerOnReset => true
  | .screedBoot => true
  | .layerJoin => true
  | .bstoreCalibrationDone => true
  | .fullServiceBegin => true
  | .nop => true
  | .yield => true
  | .end_ => true
  | .ret a => isG a
  | .tret => true
  | .trap _ => true
  | .br _ => true
  | .call d _ => isG d
  | .jmp a => isG a
  | .calli d a => isG d && isG a
  | .loop a _ => isG a
  | .sysc _ => true
  | .add _ _ _ => true
  | .sub _ _ _ => true
  | .mul _ _ _ => true
  | .mulh _ _ _ => true
  | .mulhn _ _ _ => true
  | .div _ _ _ _ => true
  | .divn _ _ _ _ => true
  | .rem _ _ _ _ => true
  | .remn _ _ _ _ => true
  | .and_ _ _ _ => true
  | .or_ _ _ _ => true
  | .xor_ _ _ _ => true
  | .andn _ _ _ => true
  | .orn _ _ _ => true
  | .shl _ _ _ => true
  | .shr _ _ _ => true
  | .sra _ _ _ => true
  | .rol _ _ _ => true
  | .min _ _ _ => true
  | .max _ _ _ => true
  | .minn _ _ _ => true
  | .maxn _ _ _ => true
  | .adds _ _ _ _ => true
  | .subs _ _ _ _ => true
  | .abs _ _ => true
  | .neg _ _ => true
  | .clz _ _ => true
  | .ctz _ _ => true
  | .popc _ _ => true
  | .bswap _ _ => true
  | .sext _ _ _ => true
  | .zext _ _ _ => true
  | .bfx _ _ pos w => fieldFits pos w
  | .bfi d _ pos w => isG d && fieldFits pos w
  | .mov _ _ => true
  | .sel _ _ _ p nt => !(nt && p == 0#4)
  | .cmp _ _ _ c => c != .uo
  | .addi _ _ _ => true
  | .li _ _ => true
  | .lih d _ => isG d
  | .shli _ _ _ => true
  | .shri _ _ _ => true
  | .srai _ _ _ => true
  | .cmpi _ _ c _ => c != .uo
  | .lea _ _ _ _ _ => true
  | .ptrCvtIn _ _ _ => true
  | .ptrCvtOut _ _ _ => true
  | .ptrIn _ _ _ => true
  | .pand _ _ _ _ => true
  | .por _ _ _ _ => true
  | .pxor _ _ _ _ => true
  | .pnot _ _ => true
  | .pmov _ _ => true
  | .pset _ _ => true
  | .psetAll _ => true
  | .pget _ => true
  | .ctlGet _ idx => (ctlAccess idx).isSome
  | .ctlSet _ idx => ctlWritable idx
  | .ctlSwap _ _ idx => ctlWritable idx
  | .fence _ => true
  | .fenceAcq _ => true
  | .fenceRel _ => true
  | .repartHalf => true
  | .repartDbl => true
  | .gateUp => true
  | .gateDown => true
  | .gateFreeUp => true
  | .gateFreeDown => true
  | .capGet _ _ => true
  | .tlbInvPage _ => true
  | .tlbInvCtx _ => true
  | .tlbInvAll => true
  | .ctabLoad _ _ _ => true
  | .tableOwnerExchange => true
  | .ld _ _ w sx _ _ => !(sx && w == .w64)
  | .st _ _ _ _ _ => true
  | .ldv _ a _ _ _ _ => isG a
  | .stv _ a _ _ _ _ => isG a
  | .gath vd a vb _ _ _ _ _ => isG a && vd != vb
  | .scat _ a _ _ _ _ _ _ => isG a
  | .lr _ _ _ _ _ => true
  | .sc _ _ _ _ _ _ => true
  | .amo d _ _ op _ _ _ => op != .cas || isG d
  | .vamo vd a vb vc _ op _ _ _ => isG a && vd != vb && vd != vc && op != .cas
  | .wrs _ => true
  | .walk _ => true
  | .walkHome => true
  | .walkContextArrival => true
  | .arrivalPlacement => true
  | .remoteAccessRequest => true
  | .proxiedAccessRequest => true
  | .accessResponse => true
  | .amoQueueHead => true
  | .amoUnitCompute => true
  | .amoWriteHalf => true
  | .scQueueHead => true
  | .orderedTaskCommit => true
  | .qmap _ id => queueIdOk id || id == 0xFF#8
  | .qfree _ _ => true
  | .qlen _ _ => true
  | .qpeek _ _ => true
  | .qtry d _ _ => isG d
  | .qput _ a _ => isG a
  | .qclose _ => true
  | .fifoEntryArrival => true
  | .fifoPopReport => true
  | .networkQueueArrival => true
  | .gradientEntryArrival => true
  | .gradientWindowUpdate => true
  | .barInit _ _ => true
  | .barJoin _ => true
  | .barArr _ => true
  | .barDrop _ => true
  | .barLeave _ => true
  | .barExp _ _ => true
  | .barWait _ => true
  | .barTry _ _ => true
  | .barBits _ _ => true
  | .wideBarrierArrival => true
  | .wideBarrierCompletion => true
  | .quadGated => true
  | .quadWakeComplete => true
  | .ltGet _ _ => true
  | .ltEnter => true
  | .ltLeave => true
  | .ltStep => true
  | .spawn _ _ _ => true
  | .spawnLight _ _ _ => true
  | .ordSpawn _ _ _ => true
  | .ordSpawnLight _ _ _ => true
  | .launch _ _ _ => true
  | .tcapHold _ _ => true
  | .tcapFree _ _ => true
  | .homeRecordRequest => true
  | .homeRecordAnswer => true
  | .plumbWait _ _ => true
  | .plumbGet _ _ => true
  | .quadTableFlush => true
  | .dieTableFlush => true
  | .pointstampBatchArrival => true
  | .frontierViewUpdate => true
  | .ringMatch _ _ _ => true
  | .ringPut a b _ _ _ => isG a && isG b
  | .ringTake _ a _ _ _ => isG a
  | .ringSt _ _ => true
  | .ringDrain _ => true
  | .ringCfg _ _ _ => true
  | .ringStep => true
  | .xfer a => decide (a.toNat ≤ 20)
  | .xferTry a _ => decide (a.toNat ≤ 20)
  | .xferWp _ _ => true
  | .xferSt _ _ => true
  | .copyQueueRequest => true
  | .copyChannelStart => true
  | .copyDelivery => true
  | .copyResume => true
  | .treeRecordApply => true
  | .copyCompletion => true
  | .xferDone => true
  | .podDeliveryAck => true
  | .collPut _ _ _ => true
  | .collGet _ _ _ => true
  | .collAgree _ _ _ _ => true
  | .collRoundInput => true
  | .collResultReturn => true
  | .mma _ src k fmts _ _ _ => isG k && (decide (src.toNat < 16) || decide (24 ≤ src.toNat)) && matPairOk fmts
  | .mzero _ _ _ => true
  | .mrd _ src k vec row rreg cnt fc _ _ => rowSourceOk src vec && (if rreg then isG k else k == 0#5 && decide (row.toNat + cnt.toNat + 1 ≤ 64)) && rowFmtOptOk fc
  | .mwr _ src k vec row rreg cnt fc _ _ => rowSourceOk src vec && (if rreg then isG k else k == 0#5 && decide (row.toNat + cnt.toNat + 1 ≤ 64)) && rowFmtOptOk fc
  | .msave _ a _ => isG a
  | .mrest _ a _ => isG a
  | .bld a len _ bank cnt _ _ => isG a && isG len && decide (bank.toNat + cnt.toNat + 1 ≤ 64)
  | .bsel _ _ => true
  | .mcfgSrc _ => true
  | .mcfgStride _ => true
  | .mcfgGo _ => true
  | .mcfgStop => true
  | .feederPush => true
  | .mxp _ _ _ => true
  | .mxpTab _ _ => true
  | .mwait _ => true
  | .mxpExchangeStart => true
  | .mxpAbandon => true
  | .matrixOpComplete => true
  | .flagTrap => true
  | .vadd _ _ _ _ f _ => f.isArith
  | .vsub _ _ _ _ f _ => f.isArith
  | .vmul _ _ _ _ f _ => f.isArith
  | .vfma _ _ _ _ _ f _ => f.isArith
  | .vfms _ _ _ _ _ f _ => f.isArith
  | .vmin _ _ _ _ f _ => f.isArith
  | .vmax _ _ _ _ f _ => f.isArith
  | .vadds _ _ _ _ f _ => f.isInt || f == .pk
  | .vsubs _ _ _ _ f _ => f.isInt || f == .pk
  | .vmulh _ _ _ _ f _ => f.isInt || f == .pk
  | .vabs _ _ _ f _ => f.isSigned || f == .pk || f.isFloat
  | .vneg _ _ _ f _ => f.isSigned || f == .pk || f.isFloat
  | .vdot _ _ _ _ _ fp fa _ => dotPairOk fp fa
  | .vand _ _ _ _ _ => true
  | .vor _ _ _ _ _ => true
  | .vxor _ _ _ _ _ => true
  | .vnot _ _ _ _ => true
  | .vshl _ _ _ _ f _ => f.isInt || f == .pk
  | .vshr _ _ _ _ f _ => f.isInt || f == .pk
  | .vsra _ _ _ _ f _ => f.isInt || f == .pk
  | .vcmp _ _ _ _ f c _ => f.isArith && cmpCondOk f c
  | .vsel _ _ _ _ _ => true
  | .vcvt _ _ _ fd fs _ => widthRel (fun d s => d == s) fd fs
  | .vpack _ _ _ _ fd fs _ => widthRel (fun d s => decide (d < s)) fd fs
  | .vunpk _ _ _ fd fs _ _ => widthRel (fun d s => decide (s < d)) fd fs
  | .vscl _ _ _ _ f _ => f.isFloat
  | .vrcp _ _ _ f _ _ => f.isFloat
  | .vrsq _ _ _ f _ _ => f.isFloat
  | .vsqrt _ _ _ f _ _ => f.isFloat
  | .vexp2 _ _ _ f _ _ => f.isFloat
  | .vlog2 _ _ _ f _ _ => f.isFloat
  | .vsin _ _ _ f _ _ => f.isFloat
  | .vcos _ _ _ f _ _ => f.isFloat
  | .vtanh _ _ _ f _ _ => f.isFloat
  | .vred _ _ _ f op _ => f.isArith && (!f.isFloat || op == .add || op == .min || op == .max)
  | .vscan _ _ _ f op _ => f.isArith && (!f.isFloat || op == .add || op == .min || op == .max)
  | .vperm _ _ _ _ _ _ _ => true
  | .vshuf _ _ _ f pat _ => shufOk f pat
  | .vbc _ a _ f _ => !(f == .n64 && !isG a)
  | .vext d _ f idx => isG d && decide (idx.toNat < f.maxCount)
  | .vins _ _ f idx => decide (idx.toNat < f.maxCount)
  | .vqrecv _ _ _ _ => true
  | .vqsend _ _ => true
  | .vmov _ _ _ _ => true
  | .vzero _ _ _ => true
  | .vclass _ _ _ f _ => f.isFloat
  | .kand _ _ _ => true
  | .kor _ _ _ => true
  | .kxor _ _ _ => true
  | .knot _ _ => true
  | .kmov _ _ => true
  | .kpop _ _ => true
  | .vshli _ _ _ f amt _ => amtOk f amt.toNat
  | .vshri _ _ _ f amt _ => amtOk f amt.toNat
  | .vsrai _ _ _ f amt _ => amtOk f amt.toNat
  | .rvmul _ _ b _ f _ => f.isInt && isG b
  | .unmul _ _ b _ f _ => f.isInt && isG b
  | .rvcvt _ _ _ fd fs _ => widthRel (fun d s => decide (d < s)) fd fs
  | .uncvt _ _ _ fd fs _ => widthRel (fun d s => decide (d < s)) fd fs
  | .rvsra _ _ _ f amt _ => amtOk f amt.toNat
  | .unsra _ _ _ f amt _ => amtOk f amt.toNat
  | .rvscl _ _ _ _ f _ => f.isFloat
  | .unscl _ _ _ _ f _ => f.isFloat
  | .rvact _ _ _ f _ _ => f.isFloat || f.isSigned || f == .pk
  | .unact _ _ _ f _ _ => f.isFloat || f.isSigned || f == .pk
  | .skimMark _ => true
  | .skimCut _ => true
  | .skimDep _ => true
  | .skimArea a b => isG a && isG b
  | .skimChk _ _ => true
  | .skimBackgroundSpill => true
  | .skimBackgroundRefill => true
  | .longResultWritten => true
  | .wqWindowWrite => true
  | .deviceOverflowRefill => true
  | .launchArbitration => true
  | .launchNumberTaken => true
  | .taskToDieDispatcher => true
  | .taskToCorePool => true
  | .taskPlacedInSlot => true
  | .parkedThreadSwapOut => true
  | .parkedWaitSatisfied => true
  | .watchdog => true
  | .ebudgetRefill => true
  | .launchEnd => true
  | .completionRecordWrite => true
  | .launchRetire => true
  | .launchAbort => true
  | .preemptContext => true
  | .evictContext => true
  | .restoreContext => true
  | .handlerFaultDelivery => true
  | .faultReplay => true
  | .faultRefused => true
  | .hostConfigAccess => true
  | .bar4MemoryAccess => true
  | .hostRequestForward => true
  | .portcfgModeWrite => true
  | .portFullRetrain => true
  | .topoverNextWrite => true
  | .topologySwap => true
  | .podtimeWrite => true
  | .bar4CountClear => true
  | .doneHeadWrite => true
  | .stalecntClear => true
  | .thermstatTripClear => true
  | .grantTableWrite => true
  | .controlWindowWrite => true
  | .podMessageForward => true
  | .flitReceive => true
  | .fecGroupReceive => true
  | .fecRetry => true
  | .chainTableInstall => true
  | .chainSlotStart => true
  | .chainDataWindow => true
  | .linkBeatReplay => true
  | .bondIdleTest => true
  | .bondGroupFailure => true
  | .wavelengthRetrainStart => true
  | .wavelengthHandback => true
  | .sliceScrub => true
  | .bstoreScrub => true
  | .hbmScrub => true
  | .channelCopyStart => true
  | .channelCopyComplete => true
  | .checkpointStart => true
  | .restoreStart => true
  | .checkpointComplete => true
  | .thermalThrottle => true
  | .thermalTrip => true
  | .regionCountHalving => true
  | .remapreqGo => true
  | .remapSwapRun => true
  | .attestNonceWrite => true
  | .attestReportReady => true
  | .firmwareUpdateWrite => true
  | .linkReturnsToService => true

end Sys2Proof
end

