-- ==== Sys2Proof/Decode.lean ====
section
/-!
DEFINITION. Code lines, heads and tails (spec/03_lines_and_assembly.md), the decoder, total on any bytes, and the encoder
(spec/04_opcode_map.md).
-/

namespace Sys2Proof

/-- The T1 tail: d 15:11, a 10:6, x 5:0 (R76). -/
structure T1 where
  d : BitVec 5 := 0
  a : BitVec 5 := 0
  x : BitVec 6 := 0
  deriving DecidableEq, Repr

/-- The T2-S tail (R76). -/
structure T2S where
  d : BitVec 5 := 0
  a : BitVec 5 := 0
  b : BitVec 5 := 0
  l : BitVec 4 := 0
  e : BitVec 2 := 0
  x : BitVec 11 := 0
  deriving DecidableEq, Repr

/-- The T2-V tail (R76). -/
structure T2V where
  vd : BitVec 6 := 0
  va : BitVec 6 := 0
  vb : BitVec 6 := 0
  k : BitVec 3 := 0
  e : BitVec 2 := 0
  l : BitVec 4 := 0
  x : BitVec 5 := 0
  deriving DecidableEq, Repr

/-- The T4-I tail (R76). -/
structure T4I where
  d : BitVec 5 := 0
  a : BitVec 5 := 0
  x : BitVec 6 := 0
  imm : BitVec 48 := 0
  deriving DecidableEq, Repr

/-- The T4-V tail (R76). -/
structure T4V where
  vd : BitVec 6 := 0
  va : BitVec 6 := 0
  vb : BitVec 6 := 0
  vc : BitVec 6 := 0
  k : BitVec 3 := 0
  e : BitVec 2 := 0
  l : BitVec 4 := 0
  x : BitVec 31 := 0
  deriving DecidableEq, Repr

/-- The T4-M tail; r is bits 45:0 (R76). -/
structure T4M where
  acc : BitVec 2 := 0
  asrc : BitVec 5 := 0
  k : BitVec 5 := 0
  l : BitVec 4 := 0
  e : BitVec 2 := 0
  r : BitVec 46 := 0
  deriving DecidableEq, Repr

/-- The bits of a T1 tail. -/
def T1.toBits (t : T1) : BitVec 16 := t.d ++ t.a ++ t.x
/-- The bits of a T2-S tail. -/
def T2S.toBits (t : T2S) : BitVec 32 := t.d ++ t.a ++ t.b ++ t.l ++ t.e ++ t.x
/-- The bits of a T2-V tail. -/
def T2V.toBits (t : T2V) : BitVec 32 := t.vd ++ t.va ++ t.vb ++ t.k ++ t.e ++ t.l ++ t.x
/-- The bits of a T4-I tail. -/
def T4I.toBits (t : T4I) : BitVec 64 := t.d ++ t.a ++ t.x ++ t.imm
/-- The bits of a T4-V tail. -/
def T4V.toBits (t : T4V) : BitVec 64 := t.vd ++ t.va ++ t.vb ++ t.vc ++ t.k ++ t.e ++ t.l ++ t.x
/-- The bits of a T4-M tail. -/
def T4M.toBits (t : T4M) : BitVec 64 := t.acc ++ t.asrc ++ t.k ++ t.l ++ t.e ++ t.r

/-- The fields of a T1 tail. -/
def T1.ofBits (b : BitVec 16) : T1 := ⟨b.extractLsb' 11 5, b.extractLsb' 6 5, b.extractLsb' 0 6⟩
/-- The fields of a T2-S tail. -/
def T2S.ofBits (b : BitVec 32) : T2S :=
  ⟨b.extractLsb' 27 5, b.extractLsb' 22 5, b.extractLsb' 17 5, b.extractLsb' 13 4, b.extractLsb' 11 2, b.extractLsb' 0 11⟩
/-- The fields of a T2-V tail. -/
def T2V.ofBits (b : BitVec 32) : T2V :=
  ⟨b.extractLsb' 26 6, b.extractLsb' 20 6, b.extractLsb' 14 6, b.extractLsb' 11 3, b.extractLsb' 9 2,
   b.extractLsb' 5 4, b.extractLsb' 0 5⟩
/-- The fields of a T4-I tail. -/
def T4I.ofBits (b : BitVec 64) : T4I :=
  ⟨b.extractLsb' 59 5, b.extractLsb' 54 5, b.extractLsb' 48 6, b.extractLsb' 0 48⟩
/-- The fields of a T4-V tail. -/
def T4V.ofBits (b : BitVec 64) : T4V :=
  ⟨b.extractLsb' 58 6, b.extractLsb' 52 6, b.extractLsb' 46 6, b.extractLsb' 40 6, b.extractLsb' 37 3,
   b.extractLsb' 35 2, b.extractLsb' 31 4, b.extractLsb' 0 31⟩
/-- The fields of a T4-M tail. -/
def T4M.ofBits (b : BitVec 64) : T4M :=
  ⟨b.extractLsb' 62 2, b.extractLsb' 57 5, b.extractLsb' 52 5, b.extractLsb' 48 4, b.extractLsb' 46 2, b.extractLsb' 0 46⟩

/-- The tail layouts; each major uses exactly one (R76). -/
inductive Layout where
  | none | t1 | t2s | t2v | t4i | t4v | t4m
  deriving DecidableEq, Repr

/-- The tail-length code TL of a layout (R68). -/
def Layout.tl : Layout → BitVec 2
  | .none => 0#2
  | .t1 => 1#2
  | .t2s => 2#2
  | .t2v => 2#2
  | .t4i => 3#2
  | .t4v => 3#2
  | .t4m => 3#2

/-- A tail, as its fields. -/
inductive Tail where
  | none | t1 (t : T1) | t2s (t : T2S) | t2v (t : T2V) | t4i (t : T4I) | t4v (t : T4V) | t4m (t : T4M)
  deriving DecidableEq, Repr

/-- The layout of a tail. -/
def Tail.layout : Tail → Layout
  | .none => .none
  | .t1 _ => .t1
  | .t2s _ => .t2s
  | .t2v _ => .t2v
  | .t4i _ => .t4i
  | .t4v _ => .t4v
  | .t4m _ => .t4m

/-- The bits of a tail, in the low bits of 64. -/
def Tail.toBits : Tail → BitVec 64
  | .none => 0#64
  | .t1 t => 0#48 ++ t.toBits
  | .t2s t => 0#32 ++ t.toBits
  | .t2v t => 0#32 ++ t.toBits
  | .t4i t => t.toBits
  | .t4v t => t.toBits
  | .t4m t => t.toBits

/-- The tail that the low bits of 64 hold, in a layout. -/
def Tail.ofBits (l : Layout) (b : BitVec 64) : Tail :=
  match l with
  | .none => .none
  | .t1 => .t1 (T1.ofBits (b.extractLsb' 0 16))
  | .t2s => .t2s (T2S.ofBits (b.extractLsb' 0 32))
  | .t2v => .t2v (T2V.ofBits (b.extractLsb' 0 32))
  | .t4i => .t4i (T4I.ofBits b)
  | .t4v => .t4v (T4V.ofBits b)
  | .t4m => .t4m (T4M.ofBits b)

/-- A major and a tail: what a head and its tail say beside the pair bit and the guard. -/
structure Enc where
  op : BitVec 8
  tail : Tail
  deriving DecidableEq, Repr

/-- Why bytes are no instruction. Every one of them is ILLEGAL_OP at issue (R75, R78). -/
inductive DecErr where
  /-- The major is unassigned (R108). -/
  | unassignedMajor
  /-- TL differs from the tail length of the major (R75). -/
  | tailLength
  /-- The guard is 0b1_0000 (R44). -/
  | guardField
  /-- A code of the tail is reserved (R77). -/
  | reservedCode
  /-- A field that the instruction does not use is not zero (R77). -/
  | reservedField
  /-- The operands break a limit of the instruction's entry (R78). -/
  | operandLimit
  /-- P is set on the last head of the line (R75). -/
  | pairAtEnd
  /-- P is set and the two heads are of one class (R75). -/
  | pairClass
  /-- P is set on a head that is itself the second of a bundle (R75). -/
  | pairOnSecond
  deriving DecidableEq, Repr


/-- The instruction that an assigned major with no tail names (R94 to R107); `none` for a reserved code. -/
def decodeNone (op : Nat) : Option Instr :=
  match op with
  | 0x00 => some (.nop)
  | 0x01 => some (.yield)
  | 0x02 => some (.end_)
  | 0x04 => some (.tret)
  | 0x5C => some (.walkHome)
  | 0x74 => some (.ltEnter)
  | 0x75 => some (.ltLeave)
  | 0x76 => some (.ltStep)
  | _ => none

/-- The instruction that an assigned major with a T1 tail names (R94 to R107); `none` for a reserved code. -/
def decodeT1 (op : Nat) (t : T1) : Option Instr :=
  match op with
  | 0x03 => some (.ret t.a)
  | 0x05 => some (.trap t.x)
  | 0x08 => some (.jmp t.a)
  | 0x09 => some (.calli t.d t.a)
  | 0x0B => some (.sysc t.x)
  | 0x28 => some (.abs t.d t.a)
  | 0x29 => some (.neg t.d t.a)
  | 0x2A => some (.clz t.d t.a)
  | 0x2B => some (.ctz t.d t.a)
  | 0x2C => some (.popc t.d t.a)
  | 0x2D => some (.bswap t.d t.a)
  | 0x2E => some (.sext t.d t.a t.x)
  | 0x2F => some (.zext t.d t.a t.x)
  | 0x32 => some (.mov t.d t.a)
  | 0x38 => some (.shli t.d t.a t.x)
  | 0x39 => some (.shri t.d t.a t.x)
  | 0x3A => some (.srai t.d t.a t.x)
  | 0x3D => if (t.x.extractLsb' 3 1) == 0#1 then (Aperture.ofBits (t.x.extractLsb' 0 3)).bind fun ap => some (.ptrCvtIn t.d t.a ap) else if (t.x.extractLsb' 3 1) == 1#1 then (Aperture.ofBits (t.x.extractLsb' 0 3)).bind fun ap => some (.ptrCvtOut t.d t.a ap) else none
  | 0x3E => (Aperture.ofBits (t.x.extractLsb' 0 3)).bind fun ap => some (.ptrIn (t.d.extractLsb' 0 4) t.a ap)
  | 0x40 => some (.pand (t.d.extractLsb' 0 4) (t.a.extractLsb' 0 4) (t.x.extractLsb' 0 4) ((t.x.extractLsb' 4 1) == 1#1))
  | 0x41 => some (.por (t.d.extractLsb' 0 4) (t.a.extractLsb' 0 4) (t.x.extractLsb' 0 4) ((t.x.extractLsb' 4 1) == 1#1))
  | 0x42 => some (.pxor (t.d.extractLsb' 0 4) (t.a.extractLsb' 0 4) (t.x.extractLsb' 0 4) ((t.x.extractLsb' 4 1) == 1#1))
  | 0x43 => some (.pnot (t.d.extractLsb' 0 4) (t.a.extractLsb' 0 4))
  | 0x44 => some (.pmov (t.d.extractLsb' 0 4) (t.a.extractLsb' 0 4))
  | 0x45 => if (t.x.extractLsb' 5 1) == 0#1 then some (.pset (t.d.extractLsb' 0 4) ((t.x.extractLsb' 0 1) == 1#1)) else if (t.x.extractLsb' 5 1) == 1#1 then some (.psetAll t.a) else none
  | 0x46 => some (.pget t.d)
  | 0x4A => if (t.x.extractLsb' 3 2) == 0#2 then (FScope.ofBits (t.x.extractLsb' 0 3)).bind fun scp => some (.fence scp) else if (t.x.extractLsb' 3 2) == 1#2 then (FScope.ofBits (t.x.extractLsb' 0 3)).bind fun scp => some (.fenceAcq scp) else if (t.x.extractLsb' 3 2) == 2#2 then (FScope.ofBits (t.x.extractLsb' 0 3)).bind fun scp => some (.fenceRel scp) else none
  | 0x4B => if (t.x.extractLsb' 0 2) == 1#2 then some (.repartHalf) else if (t.x.extractLsb' 0 2) == 2#2 then some (.repartDbl) else none
  | 0x4C => if (t.x.extractLsb' 0 2) == 0#2 then some (.gateUp) else if (t.x.extractLsb' 0 2) == 1#2 then some (.gateDown) else if (t.x.extractLsb' 0 2) == 2#2 then some (.gateFreeUp) else if (t.x.extractLsb' 0 2) == 3#2 then some (.gateFreeDown) else none
  | 0x4E => if (t.x.extractLsb' 0 2) == 0#2 then some (.tlbInvPage t.a) else if (t.x.extractLsb' 0 2) == 1#2 then some (.tlbInvCtx t.a) else if (t.x.extractLsb' 0 2) == 2#2 then some (.tlbInvAll) else none
  | 0x5A => some (.wrs t.a)
  | 0x5B => some (.walk t.a)
  | 0x61 => some (.qfree t.d (t.a.extractLsb' 0 3))
  | 0x62 => some (.qlen t.d (t.a.extractLsb' 0 3))
  | 0x63 => some (.qpeek t.d (t.a.extractLsb' 0 3))
  | 0x66 => some (.qclose (t.d.extractLsb' 0 3))
  | 0x73 => some (.ltGet t.d (t.x.extractLsb' 0 2))
  | 0x80 => some (.xfer t.a)
  | 0x81 => some (.xferTry t.a (t.x.extractLsb' 0 4))
  | 0x82 => some (.xferWp t.d t.a)
  | 0x83 => some (.xferSt t.d t.a)
  | 0x9B => some (.mwait (t.x.extractLsb' 0 2))
  | _ => none

/-- The instruction that an assigned major with a T2S tail names (R94 to R107); `none` for a reserved code. -/
def decodeT2S (op : Nat) (t : T2S) : Option Instr :=
  match op with
  | 0x06 => some (.br t.x)
  | 0x0A => some (.loop t.a t.x)
  | 0x10 => some (.add t.d t.a t.b)
  | 0x11 => some (.sub t.d t.a t.b)
  | 0x12 => some (.mul t.d t.a t.b)
  | 0x13 => some (.mulh t.d t.a t.b)
  | 0x14 => some (.mulhn t.d t.a t.b)
  | 0x15 => some (.div t.d t.a t.b t.l)
  | 0x16 => some (.divn t.d t.a t.b t.l)
  | 0x17 => some (.rem t.d t.a t.b t.l)
  | 0x18 => some (.remn t.d t.a t.b t.l)
  | 0x19 => some (.and_ t.d t.a t.b)
  | 0x1A => some (.or_ t.d t.a t.b)
  | 0x1B => some (.xor_ t.d t.a t.b)
  | 0x1C => some (.andn t.d t.a t.b)
  | 0x1D => some (.orn t.d t.a t.b)
  | 0x1E => some (.shl t.d t.a t.b)
  | 0x1F => some (.shr t.d t.a t.b)
  | 0x20 => some (.sra t.d t.a t.b)
  | 0x21 => some (.rol t.d t.a t.b)
  | 0x22 => some (.min t.d t.a t.b)
  | 0x23 => some (.max t.d t.a t.b)
  | 0x24 => some (.minn t.d t.a t.b)
  | 0x25 => some (.maxn t.d t.a t.b)
  | 0x26 => some (.adds t.d t.a t.b ((t.x.extractLsb' 0 1) == 1#1))
  | 0x27 => some (.subs t.d t.a t.b ((t.x.extractLsb' 0 1) == 1#1))
  | 0x33 => some (.sel t.d t.a t.b (t.x.extractLsb' 0 4) ((t.x.extractLsb' 4 1) == 1#1))
  | 0x34 => (Cond.ofBits (t.x.extractLsb' 0 4)).bind fun c => some (.cmp (t.d.extractLsb' 0 4) t.a t.b c)
  | 0x35 => some (.addi t.d t.a t.x)
  | 0x3C => some (.lea t.d t.a t.b (t.x.extractLsb' 0 2) (t.x.extractLsb' 2 9))
  | 0x4D => some (.capGet (t.d.extractLsb' 0 4) (t.x.extractLsb' 0 7))
  | 0x4F => some (.ctabLoad t.a (t.x.extractLsb' 0 4) t.l)
  | 0x56 => (MemOrd.ofBits (t.x.extractLsb' 1 3)).bind fun o => some (.lr t.d t.a ((t.x.extractLsb' 0 1) == 1#1) o t.l)
  | 0x57 => (MemOrd.ofBits (t.x.extractLsb' 1 3)).bind fun o => some (.sc t.d t.a ((t.x.extractLsb' 0 1) == 1#1) o (t.x.extractLsb' 4 4) t.l)
  | 0x58 => (AmoOp.ofBits (t.x.extractLsb' 0 4)).bind fun op => (AmoOrd.ofBits (t.x.extractLsb' 5 5)).bind fun o => some (.amo t.d t.a t.b op ((t.x.extractLsb' 4 1) == 1#1) o t.l)
  | 0x60 => some (.qmap (t.d.extractLsb' 0 3) (t.x.extractLsb' 0 8))
  | 0x64 => some (.qtry t.d (t.a.extractLsb' 0 3) (t.x.extractLsb' 0 4))
  | 0x65 => some (.qput (t.d.extractLsb' 0 3) t.a (t.x.extractLsb' 0 4))
  | 0x67 => some (.barInit t.a (t.x.extractLsb' 0 9))
  | 0x68 => some (.barJoin (t.x.extractLsb' 0 9))
  | 0x69 => some (.barArr (t.x.extractLsb' 0 9))
  | 0x6A => some (.barDrop (t.x.extractLsb' 0 9))
  | 0x6B => some (.barWait (t.x.extractLsb' 0 9))
  | 0x6C => some (.barTry (t.d.extractLsb' 0 4) (t.x.extractLsb' 0 9))
  | 0x6D => some (.barExp t.a (t.x.extractLsb' 0 9))
  | 0x6E => some (.barBits t.d (t.x.extractLsb' 0 9))
  | 0x6F => some (.barLeave (t.x.extractLsb' 0 9))
  | 0x70 => if (t.x.extractLsb' 0 1) == 0#1 then some (.spawn t.d t.a t.l) else if (t.x.extractLsb' 0 1) == 1#1 then some (.spawnLight t.d t.a t.l) else none
  | 0x71 => if (t.x.extractLsb' 0 1) == 0#1 then some (.ordSpawn t.d t.a t.l) else if (t.x.extractLsb' 0 1) == 1#1 then some (.ordSpawnLight t.d t.a t.l) else none
  | 0x72 => some (.launch (t.d.extractLsb' 0 4) t.a t.l)
  | 0x77 => some (.tcapHold t.a (t.x.extractLsb' 0 6))
  | 0x78 => some (.tcapFree t.a (t.x.extractLsb' 0 6))
  | 0x79 => some (.plumbWait t.a (t.x.extractLsb' 0 6))
  | 0x7A => some (.plumbGet t.d (t.x.extractLsb' 0 6))
  | 0x7B => some (.ringMatch t.a (t.x.extractLsb' 0 6) t.l)
  | 0x7C => (RingKind.ofBits (t.x.extractLsb' 1 2)).bind fun r => some (.ringPut t.a t.b ((t.x.extractLsb' 0 1) == 1#1) r t.l)
  | 0x7D => (RingKind.ofBits (t.x.extractLsb' 1 2)).bind fun r => some (.ringTake t.d t.a ((t.x.extractLsb' 0 1) == 1#1) r t.l)
  | 0x7E => (RingKind.ofBits (t.x.extractLsb' 1 2)).bind fun r => some (.ringSt t.d r)
  | 0x7F => (RingKind.ofBits (t.x.extractLsb' 1 2)).bind fun r => some (.ringDrain r)
  | 0x84 => some (.collPut t.a (t.x.extractLsb' 0 8) t.l)
  | 0x85 => some (.collGet t.d (t.x.extractLsb' 0 8) t.l)
  | 0x86 => some (.collAgree t.d t.a (t.x.extractLsb' 0 8) t.l)
  | 0x87 => (RingKind.ofBits (t.x.extractLsb' 1 2)).bind fun r => some (.ringCfg t.a r t.l)
  | 0x97 => some (.bsel t.a (t.x.extractLsb' 0 2))
  | 0x98 => if (t.x.extractLsb' 0 3) == 0#3 then some (.mcfgSrc t.a) else if (t.x.extractLsb' 0 3) == 1#3 then some (.mcfgStride t.a) else if (t.x.extractLsb' 0 3) == 2#3 then some (.mcfgGo t.a) else if (t.x.extractLsb' 0 3) == 3#3 then some (.mcfgStop) else none
  | 0x99 => some (.mxp (t.x.extractLsb' 0 4) t.l t.e)
  | 0x9A => some (.mxpTab t.a t.l)
  | _ => none

/-- The instruction that an assigned major with a T2V tail names (R94 to R107); `none` for a reserved code. -/
def decodeT2V (op : Nat) (t : T2V) : Option Instr :=
  match op with
  | 0xA0 => (Fmt.ofBits t.x).bind fun f => some (.vadd t.vd t.va t.vb t.k f t.e)
  | 0xA1 => (Fmt.ofBits t.x).bind fun f => some (.vsub t.vd t.va t.vb t.k f t.e)
  | 0xA2 => (Fmt.ofBits t.x).bind fun f => some (.vmul t.vd t.va t.vb t.k f t.e)
  | 0xA5 => (Fmt.ofBits t.x).bind fun f => some (.vmin t.vd t.va t.vb t.k f t.e)
  | 0xA6 => (Fmt.ofBits t.x).bind fun f => some (.vmax t.vd t.va t.vb t.k f t.e)
  | 0xA7 => (Fmt.ofBits t.x).bind fun f => some (.vabs t.vd t.va t.k f t.e)
  | 0xA8 => (Fmt.ofBits t.x).bind fun f => some (.vneg t.vd t.va t.k f t.e)
  | 0xA9 => (Fmt.ofBits t.x).bind fun f => some (.vadds t.vd t.va t.vb t.k f t.e)
  | 0xAA => (Fmt.ofBits t.x).bind fun f => some (.vsubs t.vd t.va t.vb t.k f t.e)
  | 0xAB => (Fmt.ofBits t.x).bind fun f => some (.vmulh t.vd t.va t.vb t.k f t.e)
  | 0xAD => some (.vand t.vd t.va t.vb t.k t.e)
  | 0xAE => some (.vor t.vd t.va t.vb t.k t.e)
  | 0xAF => some (.vxor t.vd t.va t.vb t.k t.e)
  | 0xB0 => some (.vnot t.vd t.va t.k t.e)
  | 0xB1 => (Fmt.ofBits t.x).bind fun f => some (.vshl t.vd t.va t.vb t.k f t.e)
  | 0xB2 => (Fmt.ofBits t.x).bind fun f => some (.vshr t.vd t.va t.vb t.k f t.e)
  | 0xB3 => (Fmt.ofBits t.x).bind fun f => some (.vsra t.vd t.va t.vb t.k f t.e)
  | 0xB5 => some (.vsel t.vd t.va t.vb t.k t.e)
  | 0xBA => (Fmt.ofBits t.x).bind fun f => some (.vrcp t.vd t.va t.k f t.l t.e)
  | 0xBB => (Fmt.ofBits t.x).bind fun f => some (.vrsq t.vd t.va t.k f t.l t.e)
  | 0xBC => (Fmt.ofBits t.x).bind fun f => some (.vsqrt t.vd t.va t.k f t.l t.e)
  | 0xBD => (Fmt.ofBits t.x).bind fun f => some (.vexp2 t.vd t.va t.k f t.l t.e)
  | 0xBE => (Fmt.ofBits t.x).bind fun f => some (.vlog2 t.vd t.va t.k f t.l t.e)
  | 0xBF => (Fmt.ofBits t.x).bind fun f => some (.vsin t.vd t.va t.k f t.l t.e)
  | 0xC0 => (Fmt.ofBits t.x).bind fun f => some (.vcos t.vd t.va t.k f t.l t.e)
  | 0xC1 => (Fmt.ofBits t.x).bind fun f => some (.vtanh t.vd t.va t.k f t.l t.e)
  | 0xC9 => some (.vmov t.vd t.va t.k t.e)
  | 0xCA => some (.vzero t.vd t.k t.e)
  | 0xCB => (Fmt.ofBits t.x).bind fun f => some (.vclass t.vd t.va t.k f t.e)
  | 0xCC => some (.kand (t.vd.extractLsb' 0 3) (t.va.extractLsb' 0 3) (t.vb.extractLsb' 0 3))
  | 0xCD => some (.kor (t.vd.extractLsb' 0 3) (t.va.extractLsb' 0 3) (t.vb.extractLsb' 0 3))
  | 0xCE => some (.kxor (t.vd.extractLsb' 0 3) (t.va.extractLsb' 0 3) (t.vb.extractLsb' 0 3))
  | 0xCF => some (.knot (t.vd.extractLsb' 0 3) (t.va.extractLsb' 0 3))
  | 0xD0 => some (.kmov (t.vd.extractLsb' 0 3) (t.va.extractLsb' 0 3))
  | 0xD1 => some (.kpop (t.vd.extractLsb' 0 5) (t.va.extractLsb' 0 3))
  | 0xEA => some (.skimMark t.x)
  | 0xEB => some (.skimCut t.x)
  | 0xEC => some (.skimDep (t.vd.extractLsb' 0 5))
  | 0xED => some (.skimArea (t.va.extractLsb' 0 5) (t.vb.extractLsb' 0 5))
  | 0xEE => some (.skimChk (t.vd.extractLsb' 0 4) t.x)
  | _ => none

/-- The instruction that an assigned major with a T4I tail names (R94 to R107); `none` for a reserved code. -/
def decodeT4I (op : Nat) (t : T4I) : Option Instr :=
  match op with
  | 0x07 => some (.call t.d t.imm)
  | 0x30 => some (.bfx t.d t.a (t.imm.extractLsb' 0 6) (t.imm.extractLsb' 8 6))
  | 0x31 => some (.bfi t.d t.a (t.imm.extractLsb' 0 6) (t.imm.extractLsb' 8 6))
  | 0x36 => some (.li t.d t.imm)
  | 0x37 => some (.lih t.d (t.imm.extractLsb' 0 16))
  | 0x3B => (Cond.ofBits (t.x.extractLsb' 0 4)).bind fun c => some (.cmpi (t.d.extractLsb' 0 4) t.a c t.imm)
  | 0x47 => some (.ctlGet t.d (t.imm.extractLsb' 0 12))
  | 0x48 => some (.ctlSet t.a (t.imm.extractLsb' 0 12))
  | 0x49 => some (.ctlSwap t.d t.a (t.imm.extractLsb' 0 12))
  | 0x50 => (Width.ofBits (t.x.extractLsb' 0 2)).bind fun w => (MemOrd.ofBits (t.x.extractLsb' 3 3)).bind fun o => some (.ld t.d t.a w ((t.x.extractLsb' 2 1) == 1#1) o t.imm)
  | 0x51 => (Width.ofBits (t.x.extractLsb' 0 2)).bind fun w => (MemOrd.ofBits (t.x.extractLsb' 3 3)).bind fun o => some (.st t.d t.a w o t.imm)
  | _ => none

/-- The instruction that an assigned major with a T4V tail names (R94 to R107); `none` for a reserved code. -/
def decodeT4V (op : Nat) (t : T4V) : Option Instr :=
  match op with
  | 0x52 => (MemOrd.ofBits (t.x.extractLsb' 26 3)).bind fun o => some (.ldv t.vd (t.va.extractLsb' 0 5) t.k (t.x.extractLsb' 0 26) o t.l)
  | 0x53 => (MemOrd.ofBits (t.x.extractLsb' 26 3)).bind fun o => some (.stv t.vd (t.va.extractLsb' 0 5) t.k (t.x.extractLsb' 0 26) o t.l)
  | 0x54 => (Width.ofBits (t.x.extractLsb' 0 2)).bind fun w => (MemOrd.ofBits (t.x.extractLsb' 4 3)).bind fun o => some (.gath t.vd (t.va.extractLsb' 0 5) t.vb t.k w (t.x.extractLsb' 2 2) o t.l)
  | 0x55 => (Width.ofBits (t.x.extractLsb' 0 2)).bind fun w => (MemOrd.ofBits (t.x.extractLsb' 4 3)).bind fun o => some (.scat t.vd (t.va.extractLsb' 0 5) t.vb t.k w (t.x.extractLsb' 2 2) o t.l)
  | 0x59 => (AmoOp.ofBits (t.x.extractLsb' 0 4)).bind fun op => (AmoOrd.ofBits (t.x.extractLsb' 5 5)).bind fun o => some (.vamo t.vd (t.va.extractLsb' 0 5) t.vb t.vc t.k op ((t.x.extractLsb' 4 1) == 1#1) o t.l)
  | 0xA3 => (Fmt.ofBits (t.x.extractLsb' 0 5)).bind fun f => some (.vfma t.vd t.va t.vb t.vc t.k f t.e)
  | 0xA4 => (Fmt.ofBits (t.x.extractLsb' 0 5)).bind fun f => some (.vfms t.vd t.va t.vb t.vc t.k f t.e)
  | 0xAC => (Fmt.ofBits (t.x.extractLsb' 0 5)).bind fun fp => (Fmt.ofBits (t.x.extractLsb' 5 5)).bind fun fa => some (.vdot t.vd t.va t.vb t.vc t.k fp fa t.e)
  | 0xB4 => (Fmt.ofBits (t.x.extractLsb' 0 5)).bind fun f => (Cond.ofBits (t.x.extractLsb' 5 4)).bind fun c => some (.vcmp (t.vd.extractLsb' 0 3) t.va t.vb t.k f c t.e)
  | 0xB6 => (Fmt.ofBits (t.x.extractLsb' 0 5)).bind fun fd => (Fmt.ofBits (t.x.extractLsb' 5 5)).bind fun fs => some (.vcvt t.vd t.va t.k fd fs t.e)
  | 0xB7 => (Fmt.ofBits (t.x.extractLsb' 0 5)).bind fun fd => (Fmt.ofBits (t.x.extractLsb' 5 5)).bind fun fs => some (.vpack t.vd t.va t.vb t.k fd fs t.e)
  | 0xB8 => (Fmt.ofBits (t.x.extractLsb' 0 5)).bind fun fd => (Fmt.ofBits (t.x.extractLsb' 5 5)).bind fun fs => some (.vunpk t.vd t.va t.k fd fs ((t.x.extractLsb' 10 1) == 1#1) t.e)
  | 0xB9 => (Fmt.ofBits (t.x.extractLsb' 0 5)).bind fun f => some (.vscl t.vd t.va t.vb t.k f t.e)
  | 0xC2 => (Fmt.ofBits (t.x.extractLsb' 0 5)).bind fun f => (RedOp.ofBits (t.x.extractLsb' 5 3)).bind fun op => some (.vred t.vd t.va t.k f op t.e)
  | 0xC3 => (Fmt.ofBits (t.x.extractLsb' 0 5)).bind fun f => (RedOp.ofBits (t.x.extractLsb' 5 3)).bind fun op => some (.vscan t.vd t.va t.k f op t.e)
  | 0xC4 => (Fmt.ofBits (t.x.extractLsb' 0 5)).bind fun f => some (.vperm t.vd t.va t.vb t.vc t.k f t.e)
  | 0xC5 => (Fmt.ofBits (t.x.extractLsb' 0 5)).bind fun f => (Shuf.ofBits (t.x.extractLsb' 5 8)).bind fun pat => some (.vshuf t.vd t.va t.k f pat t.e)
  | 0xC6 => if t.va.extractLsb' 3 3 == 3#3 && t.x.extractLsb' 0 5 == 7#5 then some (.vqrecv t.vd (t.va.extractLsb' 0 3) t.k t.e) else (Fmt.ofBits (t.x.extractLsb' 0 5)).bind fun f => some (.vbc t.vd (t.va.extractLsb' 0 5) t.k f t.e)
  | 0xC7 => if t.vd.extractLsb' 3 3 == 3#3 && t.x.extractLsb' 0 5 == 7#5 then some (.vqsend (t.vd.extractLsb' 0 3) t.va) else (Fmt.ofBits (t.x.extractLsb' 0 5)).bind fun f => some (.vext (t.vd.extractLsb' 0 5) t.va f (t.x.extractLsb' 5 6))
  | 0xC8 => (Fmt.ofBits (t.x.extractLsb' 0 5)).bind fun f => some (.vins t.vd (t.va.extractLsb' 0 5) f (t.x.extractLsb' 5 6))
  | 0xD2 => (Fmt.ofBits (t.x.extractLsb' 0 5)).bind fun f => some (.vshli t.vd t.va t.k f (t.x.extractLsb' 5 6) t.e)
  | 0xD3 => (Fmt.ofBits (t.x.extractLsb' 0 5)).bind fun f => some (.vshri t.vd t.va t.k f (t.x.extractLsb' 5 6) t.e)
  | 0xD4 => (Fmt.ofBits (t.x.extractLsb' 0 5)).bind fun f => some (.vsrai t.vd t.va t.k f (t.x.extractLsb' 5 6) t.e)
  | 0xE0 => (Fmt.ofBits (t.x.extractLsb' 0 5)).bind fun f => some (.rvmul t.vd t.va (t.vb.extractLsb' 0 5) t.k f t.e)
  | 0xE1 => (Fmt.ofBits (t.x.extractLsb' 0 5)).bind fun f => some (.unmul t.vd t.va (t.vb.extractLsb' 0 5) t.k f t.e)
  | 0xE2 => (Fmt.ofBits (t.x.extractLsb' 0 5)).bind fun fd => (Fmt.ofBits (t.x.extractLsb' 5 5)).bind fun fs => some (.rvcvt t.vd t.va t.k fd fs t.e)
  | 0xE3 => (Fmt.ofBits (t.x.extractLsb' 0 5)).bind fun fd => (Fmt.ofBits (t.x.extractLsb' 5 5)).bind fun fs => some (.uncvt t.vd t.va t.k fd fs t.e)
  | 0xE4 => (Fmt.ofBits (t.x.extractLsb' 0 5)).bind fun f => some (.rvsra t.vd t.va t.k f (t.x.extractLsb' 5 6) t.e)
  | 0xE5 => (Fmt.ofBits (t.x.extractLsb' 0 5)).bind fun f => some (.unsra t.vd t.va t.k f (t.x.extractLsb' 5 6) t.e)
  | 0xE6 => (Fmt.ofBits (t.x.extractLsb' 0 5)).bind fun f => some (.rvscl t.vd t.va t.vb t.k f t.e)
  | 0xE7 => (Fmt.ofBits (t.x.extractLsb' 0 5)).bind fun f => some (.unscl t.vd t.va t.vb t.k f t.e)
  | 0xE8 => (Fmt.ofBits (t.x.extractLsb' 0 5)).bind fun f => some (.rvact t.vd t.va t.k f (t.x.extractLsb' 5 5) t.e)
  | 0xE9 => (Fmt.ofBits (t.x.extractLsb' 0 5)).bind fun f => some (.unact t.vd t.va t.k f (t.x.extractLsb' 5 5) t.e)
  | _ => none

/-- The instruction that an assigned major with a T4M tail names (R94 to R107); `none` for a reserved code. -/
def decodeT4M (op : Nat) (t : T4M) : Option Instr :=
  match op with
  | 0x90 => (FmtPair.ofBits (t.r.extractLsb' 35 11)).bind fun fmts => some (.mma t.acc t.asrc t.k fmts ((t.r.extractLsb' 34 1) == 1#1) t.l t.e)
  | 0x91 => some (.mzero t.acc t.l t.e)
  | 0x92 => (FmtOpt.ofBits (t.r.extractLsb' 21 6)).bind fun fc => some (.mrd t.acc t.asrc t.k (t.r.extractLsb' 40 6) (t.r.extractLsb' 34 6) ((t.r.extractLsb' 33 1) == 1#1) (t.r.extractLsb' 27 6) fc t.l t.e)
  | 0x93 => (FmtOpt.ofBits (t.r.extractLsb' 21 6)).bind fun fc => some (.mwr t.acc t.asrc t.k (t.r.extractLsb' 40 6) (t.r.extractLsb' 34 6) ((t.r.extractLsb' 33 1) == 1#1) (t.r.extractLsb' 27 6) fc t.l t.e)
  | 0x94 => some (.msave t.acc t.asrc t.l)
  | 0x95 => some (.mrest t.acc t.asrc t.l)
  | 0x96 => some (.bld t.asrc t.k (t.r.extractLsb' 35 11) (t.r.extractLsb' 29 6) (t.r.extractLsb' 23 6) t.l t.e)
  | _ => none

/-- The encoder: the major and tail of an instruction (R94 to R107). A step of the part has none. -/
def encode : Instr → Option Enc
  | .powerOnReset => none
  | .screedBoot => none
  | .layerJoin => none
  | .bstoreCalibrationDone => none
  | .fullServiceBegin => none
  | .nop => some ⟨0x00#8, .none⟩
  | .yield => some ⟨0x01#8, .none⟩
  | .end_ => some ⟨0x02#8, .none⟩
  | .ret a => some ⟨0x03#8, .t1 { a := a }⟩
  | .tret => some ⟨0x04#8, .none⟩
  | .trap code => some ⟨0x05#8, .t1 { x := code }⟩
  | .br disp => some ⟨0x06#8, .t2s { x := disp }⟩
  | .call d disp => some ⟨0x07#8, .t4i { d := d, imm := disp }⟩
  | .jmp a => some ⟨0x08#8, .t1 { a := a }⟩
  | .calli d a => some ⟨0x09#8, .t1 { d := d, a := a }⟩
  | .loop a disp => some ⟨0x0A#8, .t2s { a := a, x := disp }⟩
  | .sysc n => some ⟨0x0B#8, .t1 { x := n }⟩
  | .add d a b => some ⟨0x10#8, .t2s { d := d, a := a, b := b }⟩
  | .sub d a b => some ⟨0x11#8, .t2s { d := d, a := a, b := b }⟩
  | .mul d a b => some ⟨0x12#8, .t2s { d := d, a := a, b := b }⟩
  | .mulh d a b => some ⟨0x13#8, .t2s { d := d, a := a, b := b }⟩
  | .mulhn d a b => some ⟨0x14#8, .t2s { d := d, a := a, b := b }⟩
  | .div d a b l => some ⟨0x15#8, .t2s { d := d, a := a, b := b, l := l }⟩
  | .divn d a b l => some ⟨0x16#8, .t2s { d := d, a := a, b := b, l := l }⟩
  | .rem d a b l => some ⟨0x17#8, .t2s { d := d, a := a, b := b, l := l }⟩
  | .remn d a b l => some ⟨0x18#8, .t2s { d := d, a := a, b := b, l := l }⟩
  | .and_ d a b => some ⟨0x19#8, .t2s { d := d, a := a, b := b }⟩
  | .or_ d a b => some ⟨0x1A#8, .t2s { d := d, a := a, b := b }⟩
  | .xor_ d a b => some ⟨0x1B#8, .t2s { d := d, a := a, b := b }⟩
  | .andn d a b => some ⟨0x1C#8, .t2s { d := d, a := a, b := b }⟩
  | .orn d a b => some ⟨0x1D#8, .t2s { d := d, a := a, b := b }⟩
  | .shl d a b => some ⟨0x1E#8, .t2s { d := d, a := a, b := b }⟩
  | .shr d a b => some ⟨0x1F#8, .t2s { d := d, a := a, b := b }⟩
  | .sra d a b => some ⟨0x20#8, .t2s { d := d, a := a, b := b }⟩
  | .rol d a b => some ⟨0x21#8, .t2s { d := d, a := a, b := b }⟩
  | .min d a b => some ⟨0x22#8, .t2s { d := d, a := a, b := b }⟩
  | .max d a b => some ⟨0x23#8, .t2s { d := d, a := a, b := b }⟩
  | .minn d a b => some ⟨0x24#8, .t2s { d := d, a := a, b := b }⟩
  | .maxn d a b => some ⟨0x25#8, .t2s { d := d, a := a, b := b }⟩
  | .adds d a b uns => some ⟨0x26#8, .t2s { d := d, a := a, b := b, x := 0#10 ++ (BitVec.ofBool uns) }⟩
  | .subs d a b uns => some ⟨0x27#8, .t2s { d := d, a := a, b := b, x := 0#10 ++ (BitVec.ofBool uns) }⟩
  | .abs d a => some ⟨0x28#8, .t1 { d := d, a := a }⟩
  | .neg d a => some ⟨0x29#8, .t1 { d := d, a := a }⟩
  | .clz d a => some ⟨0x2A#8, .t1 { d := d, a := a }⟩
  | .ctz d a => some ⟨0x2B#8, .t1 { d := d, a := a }⟩
  | .popc d a => some ⟨0x2C#8, .t1 { d := d, a := a }⟩
  | .bswap d a => some ⟨0x2D#8, .t1 { d := d, a := a }⟩
  | .sext d a w => some ⟨0x2E#8, .t1 { d := d, a := a, x := w }⟩
  | .zext d a w => some ⟨0x2F#8, .t1 { d := d, a := a, x := w }⟩
  | .bfx d a pos w => some ⟨0x30#8, .t4i { d := d, a := a, imm := 0#34 ++ w ++ 0#2 ++ pos }⟩
  | .bfi d a pos w => some ⟨0x31#8, .t4i { d := d, a := a, imm := 0#34 ++ w ++ 0#2 ++ pos }⟩
  | .mov d a => some ⟨0x32#8, .t1 { d := d, a := a }⟩
  | .sel d a b p nt => some ⟨0x33#8, .t2s { d := d, a := a, b := b, x := 0#6 ++ (BitVec.ofBool nt) ++ p }⟩
  | .cmp d a b c => some ⟨0x34#8, .t2s { d := 0#1 ++ d, a := a, b := b, x := 0#7 ++ c.toBits }⟩
  | .addi d a imm => some ⟨0x35#8, .t2s { d := d, a := a, x := imm }⟩
  | .li d imm => some ⟨0x36#8, .t4i { d := d, imm := imm }⟩
  | .lih d imm => some ⟨0x37#8, .t4i { d := d, imm := 0#32 ++ imm }⟩
  | .shli d a n => some ⟨0x38#8, .t1 { d := d, a := a, x := n }⟩
  | .shri d a n => some ⟨0x39#8, .t1 { d := d, a := a, x := n }⟩
  | .srai d a n => some ⟨0x3A#8, .t1 { d := d, a := a, x := n }⟩
  | .cmpi d a c imm => some ⟨0x3B#8, .t4i { d := 0#1 ++ d, a := a, x := 0#2 ++ c.toBits, imm := imm }⟩
  | .lea d a b sh disp => some ⟨0x3C#8, .t2s { d := d, a := a, b := b, x := disp ++ sh }⟩
  | .ptrCvtIn d a ap => some ⟨0x3D#8, .t1 { d := d, a := a, x := 0#2 ++ 0#1 ++ ap.toBits }⟩
  | .ptrCvtOut d a ap => some ⟨0x3D#8, .t1 { d := d, a := a, x := 0#2 ++ 1#1 ++ ap.toBits }⟩
  | .ptrIn d a ap => some ⟨0x3E#8, .t1 { d := 0#1 ++ d, a := a, x := 0#3 ++ ap.toBits }⟩
  | .pand d a b nt => some ⟨0x40#8, .t1 { d := 0#1 ++ d, a := 0#1 ++ a, x := 0#1 ++ (BitVec.ofBool nt) ++ b }⟩
  | .por d a b nt => some ⟨0x41#8, .t1 { d := 0#1 ++ d, a := 0#1 ++ a, x := 0#1 ++ (BitVec.ofBool nt) ++ b }⟩
  | .pxor d a b nt => some ⟨0x42#8, .t1 { d := 0#1 ++ d, a := 0#1 ++ a, x := 0#1 ++ (BitVec.ofBool nt) ++ b }⟩
  | .pnot d a => some ⟨0x43#8, .t1 { d := 0#1 ++ d, a := 0#1 ++ a }⟩
  | .pmov d a => some ⟨0x44#8, .t1 { d := 0#1 ++ d, a := 0#1 ++ a }⟩
  | .pset d v => some ⟨0x45#8, .t1 { d := 0#1 ++ d, x := 0#1 ++ 0#4 ++ (BitVec.ofBool v) }⟩
  | .psetAll a => some ⟨0x45#8, .t1 { a := a, x := 1#1 ++ 0#5 }⟩
  | .pget d => some ⟨0x46#8, .t1 { d := d }⟩
  | .ctlGet d idx => some ⟨0x47#8, .t4i { d := d, imm := 0#36 ++ idx }⟩
  | .ctlSet a idx => some ⟨0x48#8, .t4i { a := a, imm := 0#36 ++ idx }⟩
  | .ctlSwap d a idx => some ⟨0x49#8, .t4i { d := d, a := a, imm := 0#36 ++ idx }⟩
  | .fence scp => some ⟨0x4A#8, .t1 { x := 0#1 ++ 0#2 ++ scp.toBits }⟩
  | .fenceAcq scp => some ⟨0x4A#8, .t1 { x := 0#1 ++ 1#2 ++ scp.toBits }⟩
  | .fenceRel scp => some ⟨0x4A#8, .t1 { x := 0#1 ++ 2#2 ++ scp.toBits }⟩
  | .repartHalf => some ⟨0x4B#8, .t1 { x := 0#4 ++ 1#2 }⟩
  | .repartDbl => some ⟨0x4B#8, .t1 { x := 0#4 ++ 2#2 }⟩
  | .gateUp => some ⟨0x4C#8, .t1 { x := 0#4 ++ 0#2 }⟩
  | .gateDown => some ⟨0x4C#8, .t1 { x := 0#4 ++ 1#2 }⟩
  | .gateFreeUp => some ⟨0x4C#8, .t1 { x := 0#4 ++ 2#2 }⟩
  | .gateFreeDown => some ⟨0x4C#8, .t1 { x := 0#4 ++ 3#2 }⟩
  | .capGet d bit => some ⟨0x4D#8, .t2s { d := 0#1 ++ d, x := 0#4 ++ bit }⟩
  | .tlbInvPage a => some ⟨0x4E#8, .t1 { a := a, x := 0#4 ++ 0#2 }⟩
  | .tlbInvCtx a => some ⟨0x4E#8, .t1 { a := a, x := 0#4 ++ 1#2 }⟩
  | .tlbInvAll => some ⟨0x4E#8, .t1 { x := 0#4 ++ 2#2 }⟩
  | .ctabLoad a t l => some ⟨0x4F#8, .t2s { a := a, l := l, x := 0#7 ++ t }⟩
  | .tableOwnerExchange => none
  | .ld d a w sx o imm => some ⟨0x50#8, .t4i { d := d, a := a, x := o.toBits ++ (BitVec.ofBool sx) ++ w.toBits, imm := imm }⟩
  | .st d a w o imm => some ⟨0x51#8, .t4i { d := d, a := a, x := o.toBits ++ 0#1 ++ w.toBits, imm := imm }⟩
  | .ldv vd a k imm o l => some ⟨0x52#8, .t4v { vd := vd, va := 0#1 ++ a, k := k, l := l, x := 0#2 ++ o.toBits ++ imm }⟩
  | .stv vd a k imm o l => some ⟨0x53#8, .t4v { vd := vd, va := 0#1 ++ a, k := k, l := l, x := 0#2 ++ o.toBits ++ imm }⟩
  | .gath vd a vb k w sh o l => some ⟨0x54#8, .t4v { vd := vd, va := 0#1 ++ a, vb := vb, k := k, l := l, x := 0#24 ++ o.toBits ++ sh ++ w.toBits }⟩
  | .scat vd a vb k w sh o l => some ⟨0x55#8, .t4v { vd := vd, va := 0#1 ++ a, vb := vb, k := k, l := l, x := 0#24 ++ o.toBits ++ sh ++ w.toBits }⟩
  | .lr d a dbl o l => some ⟨0x56#8, .t2s { d := d, a := a, l := l, x := 0#7 ++ o.toBits ++ (BitVec.ofBool dbl) }⟩
  | .sc d a dbl o p l => some ⟨0x57#8, .t2s { d := d, a := a, l := l, x := 0#3 ++ p ++ o.toBits ++ (BitVec.ofBool dbl) }⟩
  | .amo d a b op dbl o l => some ⟨0x58#8, .t2s { d := d, a := a, b := b, l := l, x := 0#1 ++ o.toBits ++ (BitVec.ofBool dbl) ++ op.toBits }⟩
  | .vamo vd a vb vc k op dbl o l => some ⟨0x59#8, .t4v { vd := vd, va := 0#1 ++ a, vb := vb, vc := vc, k := k, l := l, x := 0#21 ++ o.toBits ++ (BitVec.ofBool dbl) ++ op.toBits }⟩
  | .wrs a => some ⟨0x5A#8, .t1 { a := a }⟩
  | .walk a => some ⟨0x5B#8, .t1 { a := a }⟩
  | .walkHome => some ⟨0x5C#8, .none⟩
  | .walkContextArrival => none
  | .arrivalPlacement => none
  | .remoteAccessRequest => none
  | .proxiedAccessRequest => none
  | .accessResponse => none
  | .amoQueueHead => none
  | .amoUnitCompute => none
  | .amoWriteHalf => none
  | .scQueueHead => none
  | .orderedTaskCommit => none
  | .qmap n id => some ⟨0x60#8, .t2s { d := 0#2 ++ n, x := 0#3 ++ id }⟩
  | .qfree d n => some ⟨0x61#8, .t1 { d := d, a := 0#2 ++ n }⟩
  | .qlen d n => some ⟨0x62#8, .t1 { d := d, a := 0#2 ++ n }⟩
  | .qpeek d n => some ⟨0x63#8, .t1 { d := d, a := 0#2 ++ n }⟩
  | .qtry d n p => some ⟨0x64#8, .t2s { d := d, a := 0#2 ++ n, x := 0#7 ++ p }⟩
  | .qput n a p => some ⟨0x65#8, .t2s { d := 0#2 ++ n, a := a, x := 0#7 ++ p }⟩
  | .qclose n => some ⟨0x66#8, .t1 { d := 0#2 ++ n }⟩
  | .fifoEntryArrival => none
  | .fifoPopReport => none
  | .networkQueueArrival => none
  | .gradientEntryArrival => none
  | .gradientWindowUpdate => none
  | .barInit a id => some ⟨0x67#8, .t2s { a := a, x := 0#2 ++ id }⟩
  | .barJoin id => some ⟨0x68#8, .t2s { x := 0#2 ++ id }⟩
  | .barArr id => some ⟨0x69#8, .t2s { x := 0#2 ++ id }⟩
  | .barDrop id => some ⟨0x6A#8, .t2s { x := 0#2 ++ id }⟩
  | .barLeave id => some ⟨0x6F#8, .t2s { x := 0#2 ++ id }⟩
  | .barExp a id => some ⟨0x6D#8, .t2s { a := a, x := 0#2 ++ id }⟩
  | .barWait id => some ⟨0x6B#8, .t2s { x := 0#2 ++ id }⟩
  | .barTry d id => some ⟨0x6C#8, .t2s { d := 0#1 ++ d, x := 0#2 ++ id }⟩
  | .barBits d id => some ⟨0x6E#8, .t2s { d := d, x := 0#2 ++ id }⟩
  | .wideBarrierArrival => none
  | .wideBarrierCompletion => none
  | .quadGated => none
  | .quadWakeComplete => none
  | .ltGet d c => some ⟨0x73#8, .t1 { d := d, x := 0#4 ++ c }⟩
  | .ltEnter => some ⟨0x74#8, .none⟩
  | .ltLeave => some ⟨0x75#8, .none⟩
  | .ltStep => some ⟨0x76#8, .none⟩
  | .spawn d a l => some ⟨0x70#8, .t2s { d := d, a := a, l := l, x := 0#10 ++ 0#1 }⟩
  | .spawnLight d a l => some ⟨0x70#8, .t2s { d := d, a := a, l := l, x := 0#10 ++ 1#1 }⟩
  | .ordSpawn d a l => some ⟨0x71#8, .t2s { d := d, a := a, l := l, x := 0#10 ++ 0#1 }⟩
  | .ordSpawnLight d a l => some ⟨0x71#8, .t2s { d := d, a := a, l := l, x := 0#10 ++ 1#1 }⟩
  | .launch d a l => some ⟨0x72#8, .t2s { d := 0#1 ++ d, a := a, l := l }⟩
  | .tcapHold a stg => some ⟨0x77#8, .t2s { a := a, x := 0#5 ++ stg }⟩
  | .tcapFree a stg => some ⟨0x78#8, .t2s { a := a, x := 0#5 ++ stg }⟩
  | .homeRecordRequest => none
  | .homeRecordAnswer => none
  | .plumbWait a stg => some ⟨0x79#8, .t2s { a := a, x := 0#5 ++ stg }⟩
  | .plumbGet d stg => some ⟨0x7A#8, .t2s { d := d, x := 0#5 ++ stg }⟩
  | .quadTableFlush => none
  | .dieTableFlush => none
  | .pointstampBatchArrival => none
  | .frontierViewUpdate => none
  | .ringMatch a e l => some ⟨0x7B#8, .t2s { a := a, l := l, x := 0#5 ++ e }⟩
  | .ringPut a b perch r l => some ⟨0x7C#8, .t2s { a := a, b := b, l := l, x := 0#8 ++ r.toBits ++ (BitVec.ofBool perch) }⟩
  | .ringTake d a perch r l => some ⟨0x7D#8, .t2s { d := d, a := a, l := l, x := 0#8 ++ r.toBits ++ (BitVec.ofBool perch) }⟩
  | .ringSt d r => some ⟨0x7E#8, .t2s { d := d, x := 0#8 ++ r.toBits ++ 0#1 }⟩
  | .ringDrain r => some ⟨0x7F#8, .t2s { x := 0#8 ++ r.toBits ++ 0#1 }⟩
  | .ringCfg a r l => some ⟨0x87#8, .t2s { a := a, l := l, x := 0#8 ++ r.toBits ++ 0#1 }⟩
  | .ringStep => none
  | .xfer a => some ⟨0x80#8, .t1 { a := a }⟩
  | .xferTry a p => some ⟨0x81#8, .t1 { a := a, x := 0#2 ++ p }⟩
  | .xferWp d a => some ⟨0x82#8, .t1 { d := d, a := a }⟩
  | .xferSt d a => some ⟨0x83#8, .t1 { d := d, a := a }⟩
  | .copyQueueRequest => none
  | .copyChannelStart => none
  | .copyDelivery => none
  | .copyResume => none
  | .treeRecordApply => none
  | .copyCompletion => none
  | .xferDone => none
  | .podDeliveryAck => none
  | .collPut a grp l => some ⟨0x84#8, .t2s { a := a, l := l, x := 0#3 ++ grp }⟩
  | .collGet d grp l => some ⟨0x85#8, .t2s { d := d, l := l, x := 0#3 ++ grp }⟩
  | .collAgree d a grp l => some ⟨0x86#8, .t2s { d := d, a := a, l := l, x := 0#3 ++ grp }⟩
  | .collRoundInput => none
  | .collResultReturn => none
  | .mma acc src k fmts z l e => some ⟨0x90#8, .t4m { acc := acc, asrc := src, k := k, l := l, e := e, r := fmts.toBits ++ (BitVec.ofBool z) ++ 0#34 }⟩
  | .mzero acc l e => some ⟨0x91#8, .t4m { acc := acc, l := l, e := e }⟩
  | .mrd acc src k vec row rreg cnt fc l e => some ⟨0x92#8, .t4m { acc := acc, asrc := src, k := k, l := l, e := e, r := vec ++ row ++ (BitVec.ofBool rreg) ++ cnt ++ fc.toBits ++ 0#21 }⟩
  | .mwr acc src k vec row rreg cnt fc l e => some ⟨0x93#8, .t4m { acc := acc, asrc := src, k := k, l := l, e := e, r := vec ++ row ++ (BitVec.ofBool rreg) ++ cnt ++ fc.toBits ++ 0#21 }⟩
  | .msave acc a l => some ⟨0x94#8, .t4m { acc := acc, asrc := a, l := l }⟩
  | .mrest acc a l => some ⟨0x95#8, .t4m { acc := acc, asrc := a, l := l }⟩
  | .bld a len line bank cnt l e => some ⟨0x96#8, .t4m { asrc := a, k := len, l := l, e := e, r := line ++ bank ++ cnt ++ 0#23 }⟩
  | .bsel a acc => some ⟨0x97#8, .t2s { a := a, x := 0#9 ++ acc }⟩
  | .mcfgSrc a => some ⟨0x98#8, .t2s { a := a, x := 0#8 ++ 0#3 }⟩
  | .mcfgStride a => some ⟨0x98#8, .t2s { a := a, x := 0#8 ++ 1#3 }⟩
  | .mcfgGo a => some ⟨0x98#8, .t2s { a := a, x := 0#8 ++ 2#3 }⟩
  | .mcfgStop => some ⟨0x98#8, .t2s { x := 0#8 ++ 3#3 }⟩
  | .feederPush => none
  | .mxp n l e => some ⟨0x99#8, .t2s { l := l, e := e, x := 0#7 ++ n }⟩
  | .mxpTab a l => some ⟨0x9A#8, .t2s { a := a, l := l }⟩
  | .mwait acc => some ⟨0x9B#8, .t1 { x := 0#4 ++ acc }⟩
  | .mxpExchangeStart => none
  | .mxpAbandon => none
  | .matrixOpComplete => none
  | .flagTrap => none
  | .vadd vd va vb k f e => some ⟨0xA0#8, .t2v { vd := vd, va := va, vb := vb, k := k, e := e, x := f.toBits }⟩
  | .vsub vd va vb k f e => some ⟨0xA1#8, .t2v { vd := vd, va := va, vb := vb, k := k, e := e, x := f.toBits }⟩
  | .vmul vd va vb k f e => some ⟨0xA2#8, .t2v { vd := vd, va := va, vb := vb, k := k, e := e, x := f.toBits }⟩
  | .vfma vd va vb vc k f e => some ⟨0xA3#8, .t4v { vd := vd, va := va, vb := vb, vc := vc, k := k, e := e, x := 0#26 ++ f.toBits }⟩
  | .vfms vd va vb vc k f e => some ⟨0xA4#8, .t4v { vd := vd, va := va, vb := vb, vc := vc, k := k, e := e, x := 0#26 ++ f.toBits }⟩
  | .vmin vd va vb k f e => some ⟨0xA5#8, .t2v { vd := vd, va := va, vb := vb, k := k, e := e, x := f.toBits }⟩
  | .vmax vd va vb k f e => some ⟨0xA6#8, .t2v { vd := vd, va := va, vb := vb, k := k, e := e, x := f.toBits }⟩
  | .vadds vd va vb k f e => some ⟨0xA9#8, .t2v { vd := vd, va := va, vb := vb, k := k, e := e, x := f.toBits }⟩
  | .vsubs vd va vb k f e => some ⟨0xAA#8, .t2v { vd := vd, va := va, vb := vb, k := k, e := e, x := f.toBits }⟩
  | .vmulh vd va vb k f e => some ⟨0xAB#8, .t2v { vd := vd, va := va, vb := vb, k := k, e := e, x := f.toBits }⟩
  | .vabs vd va k f e => some ⟨0xA7#8, .t2v { vd := vd, va := va, k := k, e := e, x := f.toBits }⟩
  | .vneg vd va k f e => some ⟨0xA8#8, .t2v { vd := vd, va := va, k := k, e := e, x := f.toBits }⟩
  | .vdot vd va vb vc k fp fa e => some ⟨0xAC#8, .t4v { vd := vd, va := va, vb := vb, vc := vc, k := k, e := e, x := 0#21 ++ fa.toBits ++ fp.toBits }⟩
  | .vand vd va vb k e => some ⟨0xAD#8, .t2v { vd := vd, va := va, vb := vb, k := k, e := e }⟩
  | .vor vd va vb k e => some ⟨0xAE#8, .t2v { vd := vd, va := va, vb := vb, k := k, e := e }⟩
  | .vxor vd va vb k e => some ⟨0xAF#8, .t2v { vd := vd, va := va, vb := vb, k := k, e := e }⟩
  | .vnot vd va k e => some ⟨0xB0#8, .t2v { vd := vd, va := va, k := k, e := e }⟩
  | .vshl vd va vb k f e => some ⟨0xB1#8, .t2v { vd := vd, va := va, vb := vb, k := k, e := e, x := f.toBits }⟩
  | .vshr vd va vb k f e => some ⟨0xB2#8, .t2v { vd := vd, va := va, vb := vb, k := k, e := e, x := f.toBits }⟩
  | .vsra vd va vb k f e => some ⟨0xB3#8, .t2v { vd := vd, va := va, vb := vb, k := k, e := e, x := f.toBits }⟩
  | .vcmp kd va vb k f c e => some ⟨0xB4#8, .t4v { vd := 0#3 ++ kd, va := va, vb := vb, k := k, e := e, x := 0#22 ++ c.toBits ++ f.toBits }⟩
  | .vsel vd va vb k e => some ⟨0xB5#8, .t2v { vd := vd, va := va, vb := vb, k := k, e := e }⟩
  | .vcvt vd va k fd fs e => some ⟨0xB6#8, .t4v { vd := vd, va := va, k := k, e := e, x := 0#21 ++ fs.toBits ++ fd.toBits }⟩
  | .vpack vd va vb k fd fs e => some ⟨0xB7#8, .t4v { vd := vd, va := va, vb := vb, k := k, e := e, x := 0#21 ++ fs.toBits ++ fd.toBits }⟩
  | .vunpk vd va k fd fs hi e => some ⟨0xB8#8, .t4v { vd := vd, va := va, k := k, e := e, x := 0#20 ++ (BitVec.ofBool hi) ++ fs.toBits ++ fd.toBits }⟩
  | .vscl vd va vb k f e => some ⟨0xB9#8, .t4v { vd := vd, va := va, vb := vb, k := k, e := e, x := 0#26 ++ f.toBits }⟩
  | .vrcp vd va k f l e => some ⟨0xBA#8, .t2v { vd := vd, va := va, k := k, e := e, l := l, x := f.toBits }⟩
  | .vrsq vd va k f l e => some ⟨0xBB#8, .t2v { vd := vd, va := va, k := k, e := e, l := l, x := f.toBits }⟩
  | .vsqrt vd va k f l e => some ⟨0xBC#8, .t2v { vd := vd, va := va, k := k, e := e, l := l, x := f.toBits }⟩
  | .vexp2 vd va k f l e => some ⟨0xBD#8, .t2v { vd := vd, va := va, k := k, e := e, l := l, x := f.toBits }⟩
  | .vlog2 vd va k f l e => some ⟨0xBE#8, .t2v { vd := vd, va := va, k := k, e := e, l := l, x := f.toBits }⟩
  | .vsin vd va k f l e => some ⟨0xBF#8, .t2v { vd := vd, va := va, k := k, e := e, l := l, x := f.toBits }⟩
  | .vcos vd va k f l e => some ⟨0xC0#8, .t2v { vd := vd, va := va, k := k, e := e, l := l, x := f.toBits }⟩
  | .vtanh vd va k f l e => some ⟨0xC1#8, .t2v { vd := vd, va := va, k := k, e := e, l := l, x := f.toBits }⟩
  | .vred vd va k f op e => some ⟨0xC2#8, .t4v { vd := vd, va := va, k := k, e := e, x := 0#23 ++ op.toBits ++ f.toBits }⟩
  | .vscan vd va k f op e => some ⟨0xC3#8, .t4v { vd := vd, va := va, k := k, e := e, x := 0#23 ++ op.toBits ++ f.toBits }⟩
  | .vperm vd va vb vc k f e => some ⟨0xC4#8, .t4v { vd := vd, va := va, vb := vb, vc := vc, k := k, e := e, x := 0#26 ++ f.toBits }⟩
  | .vshuf vd va k f pat e => some ⟨0xC5#8, .t4v { vd := vd, va := va, k := k, e := e, x := 0#18 ++ pat.toBits ++ f.toBits }⟩
  | .vbc vd a k f e => some ⟨0xC6#8, .t4v { vd := vd, va := 0#1 ++ a, k := k, e := e, x := 0#26 ++ f.toBits }⟩
  | .vext d va f idx => some ⟨0xC7#8, .t4v { vd := 0#1 ++ d, va := va, x := 0#20 ++ idx ++ f.toBits }⟩
  | .vins vd a f idx => some ⟨0xC8#8, .t4v { vd := vd, va := 0#1 ++ a, x := 0#20 ++ idx ++ f.toBits }⟩
  | .vqrecv vd n k e => some ⟨0xC6#8, .t4v { vd := vd, va := 0#1 ++ 3#2 ++ n, k := k, e := e, x := 0#26 ++ 7#5 }⟩
  | .vqsend n va => some ⟨0xC7#8, .t4v { vd := 0#1 ++ 3#2 ++ n, va := va, x := 0#26 ++ 7#5 }⟩
  | .vmov vd va k e => some ⟨0xC9#8, .t2v { vd := vd, va := va, k := k, e := e }⟩
  | .vzero vd k e => some ⟨0xCA#8, .t2v { vd := vd, k := k, e := e }⟩
  | .vclass vd va k f e => some ⟨0xCB#8, .t2v { vd := vd, va := va, k := k, e := e, x := f.toBits }⟩
  | .kand d a b => some ⟨0xCC#8, .t2v { vd := 0#3 ++ d, va := 0#3 ++ a, vb := 0#3 ++ b }⟩
  | .kor d a b => some ⟨0xCD#8, .t2v { vd := 0#3 ++ d, va := 0#3 ++ a, vb := 0#3 ++ b }⟩
  | .kxor d a b => some ⟨0xCE#8, .t2v { vd := 0#3 ++ d, va := 0#3 ++ a, vb := 0#3 ++ b }⟩
  | .knot d a => some ⟨0xCF#8, .t2v { vd := 0#3 ++ d, va := 0#3 ++ a }⟩
  | .kmov d a => some ⟨0xD0#8, .t2v { vd := 0#3 ++ d, va := 0#3 ++ a }⟩
  | .kpop d a => some ⟨0xD1#8, .t2v { vd := 0#1 ++ d, va := 0#3 ++ a }⟩
  | .vshli vd va k f amt e => some ⟨0xD2#8, .t4v { vd := vd, va := va, k := k, e := e, x := 0#20 ++ amt ++ f.toBits }⟩
  | .vshri vd va k f amt e => some ⟨0xD3#8, .t4v { vd := vd, va := va, k := k, e := e, x := 0#20 ++ amt ++ f.toBits }⟩
  | .vsrai vd va k f amt e => some ⟨0xD4#8, .t4v { vd := vd, va := va, k := k, e := e, x := 0#20 ++ amt ++ f.toBits }⟩
  | .rvmul vd va b k f e => some ⟨0xE0#8, .t4v { vd := vd, va := va, vb := 0#1 ++ b, k := k, e := e, x := 0#26 ++ f.toBits }⟩
  | .unmul vd va b k f e => some ⟨0xE1#8, .t4v { vd := vd, va := va, vb := 0#1 ++ b, k := k, e := e, x := 0#26 ++ f.toBits }⟩
  | .rvcvt vd va k fd fs e => some ⟨0xE2#8, .t4v { vd := vd, va := va, k := k, e := e, x := 0#21 ++ fs.toBits ++ fd.toBits }⟩
  | .uncvt vd va k fd fs e => some ⟨0xE3#8, .t4v { vd := vd, va := va, k := k, e := e, x := 0#21 ++ fs.toBits ++ fd.toBits }⟩
  | .rvsra vd va k f amt e => some ⟨0xE4#8, .t4v { vd := vd, va := va, k := k, e := e, x := 0#20 ++ amt ++ f.toBits }⟩
  | .unsra vd va k f amt e => some ⟨0xE5#8, .t4v { vd := vd, va := va, k := k, e := e, x := 0#20 ++ amt ++ f.toBits }⟩
  | .rvscl vd va vb k f e => some ⟨0xE6#8, .t4v { vd := vd, va := va, vb := vb, k := k, e := e, x := 0#26 ++ f.toBits }⟩
  | .unscl vd va vb k f e => some ⟨0xE7#8, .t4v { vd := vd, va := va, vb := vb, k := k, e := e, x := 0#26 ++ f.toBits }⟩
  | .rvact vd va k f s e => some ⟨0xE8#8, .t4v { vd := vd, va := va, k := k, e := e, x := 0#21 ++ s ++ f.toBits }⟩
  | .unact vd va k f s e => some ⟨0xE9#8, .t4v { vd := vd, va := va, k := k, e := e, x := 0#21 ++ s ++ f.toBits }⟩
  | .skimMark id => some ⟨0xEA#8, .t2v { x := id }⟩
  | .skimCut id => some ⟨0xEB#8, .t2v { x := id }⟩
  | .skimDep d => some ⟨0xEC#8, .t2v { vd := 0#1 ++ d }⟩
  | .skimArea a b => some ⟨0xED#8, .t2v { va := 0#1 ++ a, vb := 0#1 ++ b }⟩
  | .skimChk d id => some ⟨0xEE#8, .t2v { vd := 0#2 ++ d, x := id }⟩
  | .skimBackgroundSpill => none
  | .skimBackgroundRefill => none
  | .longResultWritten => none
  | .wqWindowWrite => none
  | .deviceOverflowRefill => none
  | .launchArbitration => none
  | .launchNumberTaken => none
  | .taskToDieDispatcher => none
  | .taskToCorePool => none
  | .taskPlacedInSlot => none
  | .parkedThreadSwapOut => none
  | .parkedWaitSatisfied => none
  | .watchdog => none
  | .ebudgetRefill => none
  | .launchEnd => none
  | .completionRecordWrite => none
  | .launchRetire => none
  | .launchAbort => none
  | .preemptContext => none
  | .evictContext => none
  | .restoreContext => none
  | .handlerFaultDelivery => none
  | .faultReplay => none
  | .faultRefused => none
  | .hostConfigAccess => none
  | .bar4MemoryAccess => none
  | .hostRequestForward => none
  | .portcfgModeWrite => none
  | .portFullRetrain => none
  | .topoverNextWrite => none
  | .topologySwap => none
  | .podtimeWrite => none
  | .bar4CountClear => none
  | .doneHeadWrite => none
  | .stalecntClear => none
  | .thermstatTripClear => none
  | .grantTableWrite => none
  | .controlWindowWrite => none
  | .podMessageForward => none
  | .flitReceive => none
  | .fecGroupReceive => none
  | .fecRetry => none
  | .chainTableInstall => none
  | .chainSlotStart => none
  | .chainDataWindow => none
  | .linkBeatReplay => none
  | .bondIdleTest => none
  | .bondGroupFailure => none
  | .wavelengthRetrainStart => none
  | .wavelengthHandback => none
  | .sliceScrub => none
  | .bstoreScrub => none
  | .hbmScrub => none
  | .channelCopyStart => none
  | .channelCopyComplete => none
  | .checkpointStart => none
  | .restoreStart => none
  | .checkpointComplete => none
  | .thermalThrottle => none
  | .thermalTrip => none
  | .regionCountHalving => none
  | .remapreqGo => none
  | .remapSwapRun => none
  | .attestNonceWrite => none
  | .attestReportReady => none
  | .firmwareUpdateWrite => none
  | .linkReturnsToService => none

/-- The assigned majors and the tail layout of each (R94 to R107). -/
def layoutRuns0 : List (Nat × Nat × Layout) :=
  [(0x00, 0x02, .none), (0x03, 0x03, .t1), (0x04, 0x04, .none), (0x05, 0x05, .t1), (0x06, 0x06, .t2s), (0x07, 0x07, .t4i), (0x08, 0x09, .t1), (0x0A, 0x0A, .t2s), (0x0B, 0x0B, .t1), (0x10, 0x27, .t2s), (0x28, 0x2F, .t1), (0x30, 0x31, .t4i)]

/-- More runs of majors. -/
def layoutRuns1 : List (Nat × Nat × Layout) :=
  [(0x32, 0x32, .t1), (0x33, 0x35, .t2s), (0x36, 0x37, .t4i), (0x38, 0x3A, .t1), (0x3B, 0x3B, .t4i), (0x3C, 0x3C, .t2s), (0x3D, 0x3E, .t1), (0x40, 0x46, .t1), (0x47, 0x49, .t4i), (0x4A, 0x4C, .t1), (0x4D, 0x4D, .t2s), (0x4E, 0x4E, .t1)]

/-- More runs of majors. -/
def layoutRuns2 : List (Nat × Nat × Layout) :=
  [(0x4F, 0x4F, .t2s), (0x50, 0x51, .t4i), (0x52, 0x55, .t4v), (0x56, 0x58, .t2s), (0x59, 0x59, .t4v), (0x5A, 0x5B, .t1), (0x5C, 0x5C, .none), (0x60, 0x60, .t2s), (0x61, 0x63, .t1), (0x64, 0x65, .t2s), (0x66, 0x66, .t1), (0x67, 0x72, .t2s)]

/-- More runs of majors. -/
def layoutRuns3 : List (Nat × Nat × Layout) :=
  [(0x73, 0x73, .t1), (0x74, 0x76, .none), (0x77, 0x7F, .t2s), (0x80, 0x83, .t1), (0x84, 0x87, .t2s), (0x90, 0x96, .t4m), (0x97, 0x9A, .t2s), (0x9B, 0x9B, .t1), (0xA0, 0xA2, .t2v), (0xA3, 0xA4, .t4v), (0xA5, 0xAB, .t2v), (0xAC, 0xAC, .t4v)]

/-- More runs of majors. -/
def layoutRuns4 : List (Nat × Nat × Layout) :=
  [(0xAD, 0xB3, .t2v), (0xB4, 0xB4, .t4v), (0xB5, 0xB5, .t2v), (0xB6, 0xB9, .t4v), (0xBA, 0xC1, .t2v), (0xC2, 0xC8, .t4v), (0xC9, 0xD1, .t2v), (0xD2, 0xD4, .t4v), (0xE0, 0xE9, .t4v), (0xEA, 0xEE, .t2v)]

/-- Every assigned major with its layout. -/
def layoutRuns : List (Nat × Nat × Layout) := layoutRuns0 ++ layoutRuns1 ++ layoutRuns2 ++ layoutRuns3 ++ layoutRuns4

/-- The layout in a list of runs of majors. -/
def layoutIn (op : Nat) : List (Nat × Nat × Layout) → Option Layout
  | [] => none
  | (lo, hi, l) :: rs => if lo ≤ op ∧ op ≤ hi then some l else layoutIn op rs

/-- The layout of a major; `none` when it is unassigned (R108). -/
def layoutOf (op : BitVec 8) : Option Layout := layoutIn op.toNat layoutRuns

/-- The instruction that a major and the fields of its tail name; `none` for a reserved code. -/
def decodeFields (e : Enc) : Option Instr :=
  match e.tail with
  | .none => decodeNone e.op.toNat
  | .t1 t => decodeT1 e.op.toNat t
  | .t2s t => decodeT2S e.op.toNat t
  | .t2v t => decodeT2V e.op.toNat t
  | .t4i t => decodeT4I e.op.toNat t
  | .t4v t => decodeT4V e.op.toNat t
  | .t4m t => decodeT4M e.op.toNat t

/-- The fields of a head (R74). -/
structure Head where
  tl : BitVec 2
  pair : Bool
  op : BitVec 8
  guard : BitVec 5
  deriving DecidableEq, Repr

/-- The bits of a head. -/
def Head.toBits (h : Head) : BitVec 16 := h.tl ++ BitVec.ofBool h.pair ++ h.op ++ h.guard

/-- The fields of a head's bits. -/
def Head.ofBits (b : BitVec 16) : Head :=
  ⟨b.extractLsb' 14 2, b.extractLsb' 13 1 == 1#1, b.extractLsb' 5 8, b.extractLsb' 0 5⟩

/-- A decoded head: its pair bit, its guard and its instruction. -/
structure Dec where
  pair : Bool
  guard : BitVec 5
  instr : Instr
  deriving DecidableEq, Repr

/-- Decode a major and a tail. The fields that an instruction does not use are zero exactly when the encoder writes
the same tail back (R77). -/
def decodeEnc (e : Enc) : Except DecErr Instr :=
  match decodeFields e with
  | none => .error .reservedCode
  | some i =>
    if encode i = some e then (if i.wf then .ok i else .error .operandLimit) else .error .reservedField

/-- Decode one head with the bits of its tail, apart from its neighbours in the line (R75, R78). -/
def decodeHead (head : BitVec 16) (tail : BitVec 64) : Except DecErr Dec :=
  let h := Head.ofBits head
  match layoutOf h.op with
  | none => .error .unassignedMajor
  | some l =>
    if h.tl ≠ l.tl then .error .tailLength
    else if h.guard = 0b10000#5 then .error .guardField
    else match decodeEnc ⟨h.op, Tail.ofBits l tail⟩ with
      | .error e => .error e
      | .ok i => .ok ⟨h.pair, h.guard, i⟩

/-- The head of an encoded instruction. -/
def Enc.head (e : Enc) (pair : Bool) (guard : BitVec 5) : BitVec 16 :=
  (Head.mk e.tail.layout.tl pair e.op guard).toBits

/-- Class V majors; the others are class S (R94 to R107). -/
def isClassV (op : BitVec 8) : Bool := decide (0xA0 ≤ op.toNat)

/-- The halfwords of a list of bytes, little-endian (R67). -/
def halfwords : List Byte → List (BitVec 16)
  | lo :: hi :: bs => (hi ++ lo) :: halfwords bs
  | _ => []

/-- The bytes of a list of halfwords, little-endian. -/
def bytesOfHalfwords : List (BitVec 16) → List Byte
  | [] => []
  | h :: hs => h.extractLsb' 0 8 :: h.extractLsb' 8 8 :: bytesOfHalfwords hs

/-- The halfword at a place of a line. -/
def hw (hs : List (BitVec 16)) (i : Nat) : BitVec 16 := hs.getD i 0#16

/-- The length in halfwords of the tail of a head (R68). -/
def tailLen (h : BitVec 16) : Nat :=
  match (h.extractLsb' 14 2).toNat with
  | 0 => 0
  | 1 => 1
  | 2 => 2
  | _ => 4

/-- The halfwords that the tails of heads 1 to i take. -/
def tailSum (hs : List (BitVec 16)) : Nat → Nat
  | 0 => 0
  | i + 1 => tailSum hs i + tailLen (hw hs (i + 1))

/-- The head count N of a line (R67). -/
def lineCount (hs : List (BitVec 16)) : Nat := ((hw hs 0).extractLsb' 0 5).toNat

/-- The line is not malformed (R68, R69). -/
def lineOk (hs : List (BitVec 16)) : Bool :=
  decide (lineCount hs ≠ 0) && (hw hs 0).extractLsb' 5 11 == 0#11 &&
  decide (lineCount hs + 1 + tailSum hs (lineCount hs) ≤ 32)

/-- The tail bits of head i: its lowest halfword holds bits 15:0 (R68). -/
def tailBits (hs : List (BitVec 16)) (i : Nat) : BitVec 64 :=
  let t := 32 - tailSum hs i
  match tailLen (hw hs i) with
  | 0 => 0#64
  | 1 => 0#48 ++ hw hs t
  | 2 => 0#32 ++ hw hs (t + 1) ++ hw hs t
  | _ => hw hs (t + 3) ++ hw hs (t + 2) ++ hw hs (t + 1) ++ hw hs t

/-- Head i is the second head of a bundle of its line (R75). -/
def isSecond (hs : List (BitVec 16)) : Nat → Bool
  | 0 => false
  | 1 => false
  | i + 2 => (Head.ofBits (hw hs (i + 1))).pair && !isSecond hs (i + 1)

/-- What issues at a slot: one instruction, two paired ones, or an illegal encoding, with whether the second head of a
bundle holds it (R62, R75). -/
inductive Bundle where
  | single (d : Dec)
  | pair (d e : Dec)
  | illegal (why : DecErr) (second : Bool)
  deriving DecidableEq, Repr

/-- Decode the instruction or bundle at slot i of a well-formed line. -/
def decodeSlot (hs : List (BitVec 16)) (i : Nat) : Bundle :=
  let h := Head.ofBits (hw hs i)
  match decodeHead (hw hs i) (tailBits hs i) with
  | .error e => .illegal e false
  | .ok d =>
    if !h.pair then .single d
    else if isSecond hs i then .illegal .pairOnSecond false
    else if lineCount hs ≤ i then .illegal .pairAtEnd false
    else
      let h2 := Head.ofBits (hw hs (i + 1))
      match decodeHead (hw hs (i + 1)) (tailBits hs (i + 1)) with
      | .error e => if e ≠ .unassignedMajor ∧ isClassV h.op = isClassV h2.op then .illegal .pairClass false else .illegal e true
      | .ok d2 =>
        if isClassV h.op = isClassV h2.op then .illegal .pairClass false
        else if h2.pair then .illegal .pairOnSecond true
        else .pair d d2

/-- The line that holds one head, in slot 1, and its tail (R67, R68). -/
def oneHeadLine (head : BitVec 16) (tail : BitVec 64) : List (BitVec 16) :=
  let n := tailLen head
  let ts := [tail.extractLsb' 0 16, tail.extractLsb' 16 16, tail.extractLsb' 32 16, tail.extractLsb' 48 16].take n
  0x0001#16 :: head :: List.replicate (30 - n) 0#16 ++ ts

/-- The head and tail that a word of spec/opcode_table.json stands for: the head above, and the tail's low bits, below. -/
def splitTableWord (nbits w : Nat) : BitVec 16 × BitVec 64 :=
  if nbits ≤ 16 then (BitVec.ofNat 16 w, 0#64)
  else (BitVec.ofNat 16 (w / 2 ^ (nbits - 16)), BitVec.ofNat 64 (w % 2 ^ (nbits - 16)))

/-- The instruction the decoder reads from a word of the opcode table. -/
def decodeTableWord (nbits w : Nat) : Option Instr :=
  let (head, tail) := splitTableWord nbits w
  match decodeSlot (oneHeadLine head tail) 1 with
  | .single d => some d.instr
  | .pair _ _ => none
  | .illegal _ _ => none

end Sys2Proof
end

