-- ==== Sys2Proof/Machine/State.lean ====
section
/-!
DEFINITION. The state of one package (spec/01 to spec/23), as plain data. Sparse tables are `FMap`s; an unlisted key has
the value its accessor names.
-/

namespace Sys2Proof.Machine

/-- Why a step stops the model. -/
inductive Fault where
  /-- `step` meets a core number that is no core of the package (R4): a state no run reaches. Safe. -/
  | noSuchCore
  deriving DecidableEq, Repr

/-- What the model does not give a meaning. -/
inductive Refusal where
  /-- An instruction of the table with no meaning yet. Safe. -/
  | notModelled (mnemonic : String)
  deriving DecidableEq, Repr

/-- The fault causes (R428). -/
inductive Cause where
  | illegalOp | malformedLine | badTarget | priv | lightVector | matrixOwner | matrixRange | misaligned | badAperture
  | gated | rangeLock | granule | queueUnmapped | queueClosed | queueOwner | skimOrder | skimUnderflow | skimOverflow
  | barBusy | barOrder | barOverflow | timeOverflow | timeEdge | timeOrder | badTask | holdFull | plumbSelf | ringOff
  | ringTag | ringBusy | ringEmpty | missedEncounter | xferBad | xferId | xferDone | collGroup | collOrder | collStale
  | repartBusy | trap | trapNested | flagTrap | pageAbsent | pageProt | pageBad | pageInvalid | watchdog | memError
  deriving DecidableEq, Repr

/-- A fault as an instruction raises it: cause, Aux, faulting address and elements performed (R429). -/
structure FaultInfo where
  cause : Cause
  aux : Nat := 0
  addr : Word := 0
  mask : Nat := 0
  second : Bool := false
  /-- The skim depth before the instruction, where the stack has moved since (R429). -/
  depth : Option Nat := none
  /-- ResumePc when it is not the PC (R429). -/
  resume : Option Word := none
  deriving DecidableEq, Repr

/-- What a parked thread waits for (R61, R422). -/
inductive Wait where
  /-- A time to become plumb at a stage (R354). -/
  | frontier (stage : Nat) (time : Word)
  /-- A phase of a barrier: the phase number when the wait began, and whether the slot had arrived or only observes (R329). -/
  | barrier (id : Nat) (phase : Nat) (arrived : Bool)
  /-- The removal of the thread's pair for a granule (R314). -/
  | reservation (gran : Nat)
  /-- A runtime service (R164). -/
  | service (n : Nat)
  /-- The replay of an access (R434); the record address, 0 before one is taken. -/
  | replay (frec : Word)
  /-- The decision of a handler (R427); the record address. -/
  | suspended (frec : Word)
  /-- A ring to drain (R371). -/
  | ringDrain (ring : Nat)
  deriving DecidableEq, Repr

/-- The state of a slot (R61). -/
inductive TState where
  | empty | running | stalled
  | parked (w : Wait) (since : Nat)
  deriving DecidableEq, Repr

/-- A destination that a long result will be written to (R64). -/
inductive Dest where
  | g (r : Nat) | p (r : Nat) | v (r : Nat)
  deriving DecidableEq, Repr

/-- A part of a long result: a register, a predicate, bytes of a vector register under a byte mask, or an entry for the
queue whose slot was reserved at issue (R42, R64). -/
inductive RegWrite where
  | g (r : Nat) (v : Word)
  | p (r : Nat) (v : Bool)
  | v (r : Nat) (mask : BitVec 64) (v : Line)
  | q (key : Nat) (v : Line)
  /-- The removal of cached translations: every context's, or one context's, or those that cover one address (R171). -/
  | inv (ctx : Option Nat) (va : Option Nat)
  /-- A coefficient table of a context takes new words (R172, R173). -/
  | ctab (key : Nat) (words : List Nat)
  deriving DecidableEq, Repr

/-- What a long instruction in flight does with a coefficient table of its core (R173). -/
inductive TabUse where
  | reads (n : Nat) | loads (n : Nat)
  deriving DecidableEq, Repr

/-- An open lookahead window (R64): instructions left, destinations not yet overwritten, responses still owed, and what
has arrived. -/
structure Window where
  wid : Nat
  left : Nat
  dests : List Dest
  need : Nat
  writes : List RegWrite
  flags : BitVec 5 := 0
  /-- The result is an acquire: later accesses wait for it (R283). -/
  acq : Bool := false
  /-- The table that the instruction reads or loads (R173). -/
  tab : Option TabUse := none
  /-- The instruction: the PC at which it issued, whether it is a second head, and the skim depth before it (R429). -/
  pc : Word := 0
  second : Bool := false
  depth : Nat := 0
  /-- Its flags come with its result (R51). -/
  late : Bool := false
  deriving DecidableEq, Repr

/-- How a thread leaves its slot once the windows that its bundle opened have closed (R160, R161). -/
inductive Leave where
  | end_ | yield
  deriving DecidableEq, Repr

/-- An access of a thread that its owner has not yet performed (R282): its message, its owner core, and whether the pod
aperture holds it. -/
structure Pending where
  msg : Nat
  owner : Nat
  load : Bool
  pod : Bool
  /-- A release of its thread at a scope that does not wait for it has passed it (R284). -/
  rel : Bool := false
  /-- It is an atomic: both its halves must be performed (R282). -/
  amo : Bool := false
  deriving DecidableEq, Repr

/-- The control registers a thread holds (R49), but EBUDGET, the skim registers and those that the core or the context
holds. -/
structure Ctl where
  status : Word := 0
  efmt : Word := 0x2004
  round : Word := 0
  fmta : Word := 9
  fmtb : Word := 9
  fmtc : Word := 0x200A
  scla : Word := 0
  sclb : Word := 0
  qmap : Word := 0xFFFFFFFFFFFFFFFF
  ltime : Word := 0
  stage : Word := 0
  wmode : Word := 1
  xferid : Word := 0
  xstat : Word := 0
  taskh : Word := 0
  trappc : Word := 0
  trapcause : Word := 0
  faultrec : Word := 0
  deriving DecidableEq, Repr

/-- What a matrix operation does (R203). -/
inductive MKind where
  | mma (k : Nat) (fa fb : Fmt) (zero : Bool)
  | mzero
  | mrd (row cnt : Nat) (f : Fmt) (scale : Nat)
  | mwr (row cnt : Nat) (f : Fmt) (scale : Nat)
  | msave (off : Nat)
  | mrest (off : Nat)
  | bld (src len line bank cnt : Nat)
  deriving DecidableEq, Repr

/-- A queued matrix operation with everything it sampled at acceptance (R203, R217). -/
structure MOp where
  kind : MKind
  acc : Nat
  slot : Nat
  ctx : Nat
  taskh : Word
  pc : Word
  /-- First vector row of the file, or the queue id, that the operation streams from or to (R213, R222). -/
  row : Nat
  queue : Option Nat
  bptr : Nat
  sa : List Nat
  sb : List Nat
  round : Nat
  /-- The window of the issuing thread that closes at completion (R225). -/
  wid : Option Nat
  /-- Entries already taken from, or still owed to, the queue. -/
  staged : List Line
  /-- The stream met a closed queue (R214). -/
  range : Bool
  /-- Words of the staged entries that carry poison, as a mask for each entry (R470). -/
  bad : List Nat
  /-- The cycle of its acceptance (R226). -/
  at_ : Nat
  /-- It has begun: entries taken or made. -/
  started : Bool
  flags : BitVec 5
  deriving DecidableEq, Repr

/-- The A feeder of a core (R215): source, stride, panels left, and the place within the panel. -/
structure Feeder where
  src : Nat := 0
  stride : Nat := 0
  left : Nat := 0
  panel : Nat := 0
  row : Nat := 0
  slot : Nat := 0
  ctx : Nat := 0
  taskh : Word := 0
  /-- Source and stride of the run that is under way, as they stood at its start. -/
  runSrc : Nat := 0
  runStride : Nat := 0
  deriving DecidableEq, Repr

/-- What an ordered task needs to run again: its entry, its arguments and its skim stack's marks at its start (R257,
R291). -/
structure OrdStart where
  entry : Word
  args : List Word
  skimDepth : Nat
  skimMarks : FMap Nat
  skimLast : Nat
  skimLastValid : Bool
  deriving DecidableEq, Repr

/-- A slot's thread (R37 to R55). -/
structure Thread where
  st : TState := .empty
  light : Bool := false
  ctx : Nat := 0
  launch : Nat := 0
  role : Nat := 0
  pc : Word := 0
  /-- The PC of the transfer that set `pc`, until its target is checked (R72). -/
  from_ : Option Word := none
  g : FMap Word := []
  pw : BitVec 16 := 1
  k : FMap Word := []
  ctl : Ctl := {}
  holds : List (Nat × Word) := []
  windows : List Window := []
  nextWid : Nat := 0
  pend : List Pending := []
  /-- FLAG_TRAP, completion interrupts (XferId, status word, Handler) and the watchdog, held to a boundary (R163, R422). -/
  heldFlag : Bool := false
  heldXfer : List (Nat × Word × Word) := []
  heldDog : Bool := false
  /-- The PC of the instruction whose flag trap is held (R220, R429). -/
  heldFlagPc : Option Word := none
  /-- That instruction was the second head of a bundle (R62, R429). -/
  heldFlagSecond : Bool := false
  /-- The skim depth before that instruction (R256, R429). -/
  heldFlagDepth : Nat := 0
  /-- A handler-kind fault that waits for a record (R419). -/
  fault : Option FaultInfo := none
  /-- Elements of the instruction at `pc` already performed, from a fault record (R317). -/
  done : Nat := 0
  ord : Option OrdStart := none
  /-- An ordered task that has ended and awaits its commit (R161). -/
  ended : Bool := false
  /-- The records a handler task serves: the task's core and slot and the record (R431). -/
  serves : Option (Nat × Nat × Word) := none
  /-- The cycle of the last issue, plus one; 0 before the first (R60). -/
  lastIssue : Nat := 0
  /-- The cycle at which the watchdog count restarted, and the period that it took then (R413). -/
  dog : Nat := 0
  dogPer : Nat := 0
  /-- Queued matrix operations saved with the thread (R227). -/
  mops : List MOp := []
  /-- A handler has decided that the task ends at this boundary (R431). -/
  kill : Bool := false
  /-- The feeder run that this thread started and lost to a pre-emption (R215). -/
  feed : Option Feeder := none
  /-- A request sent to the home core and its answer (R353): none, waiting, or answered. -/
  homeAns : Option (Option Nat) := none
  /-- A request sent to another cube and its answer (R66, R441): none, waiting, or a code with the value and flags; code 0x100
  says that it will not fault and that its value is still to come. -/
  podAns : Option (Option (Nat × Word × BitVec 5)) := none
  /-- What a stalled instruction has already done, such as a contribution made (R393) or a copy submitted. -/
  latch : Option Nat := none
  /-- An aborted ordered task that was out of its slot: it runs again from its entry (R291). -/
  restart : Bool := false
  /-- Its context ran in runtime mode when its task started (R55). -/
  rt : Bool := false
  /-- It has issued `end` or `yield` in a bundle whose other head has a window open (R160, R161). -/
  leave : Option Leave := none
  /-- The partition mode of its core when it was last saved (R463). -/
  savedMode : Nat := 8
  /-- It has changed counts at the quad that it is at (R345). -/
  counted : Bool := false
  /-- The line of the instruction that parked on a replayable fault: the instruction goes on from it, and not from its start (R434). -/
  mid : Option Line := none
  /-- An access that has issued met an error mark at its owner: the fault is taken at the next boundary (R470). -/
  lateErr : Option FaultInfo := none
  /-- The entries that this instruction took from queues at its issue, in order: queue and entry (R42, R434). -/
  taken : List (Nat × Line) := []
  deriving DecidableEq, Repr

/-- A skim stack (R234): depth, last mark, mark table, bounds, and the entries on core, the top ones, each with its index
(R240, R241). -/
structure Skim where
  depth : Nat := 0
  last : Nat := 0
  lastValid : Bool := false
  marks : FMap Nat := []
  base : Word := 0
  lim : Word := 0
  onCore : List (Nat × BitVec 768) := []
  /-- Entries in the context's save area, whose spill met a fault (R236). -/
  saved : List (Nat × BitVec 768) := []
  /-- What the places of spilled entries held before, which a load may still return (R242). -/
  prior : List (Nat × BitVec 768) := []
  /-- Words of entries on core that carry poison, as a mask of each entry's twelve (R468). -/
  bad : FMap Nat := []
  deriving DecidableEq, Repr

/-- A push slot behind which the queue's order waits (R42, R319): the task and window that reserved it, its entry once that has
come, and who pushed it (R374). -/
structure Reserved where
  task : Word
  wid : Nat
  val : Option Line
  src : Nat := 0
  deriving DecidableEq, Repr

/-- One end of a hardware queue, or a whole intra-core queue (R318 to R326). -/
structure Queue where
  items : List Line := []
  /-- Words of each entry that carry poison, as a mask (R470); beyond the list none does. -/
  marks : List Nat := []
  /-- Push slots from the first that a long instruction has reserved and not yet filled, in push order (R42, R319). -/
  resv : List Reserved := []
  /-- The owning context, for the queues that have one (R320). -/
  owner : Option Nat := none
  closed : Bool := false
  /-- What the pushing end believes is held, and what the popping end knows to have come (R325, R326). -/
  seenFull : Nat := 0
  seenHere : Nat := 0
  /-- Pops not yet reported to the pushing end (R325). -/
  popped : Nat := 0
  /-- At a channel core: the sender of each item, the pops of each sender's entries, and the credits due to it (R326). -/
  srcs : List Nat := []
  pops : FMap Nat := []
  owed : FMap Nat := []
  deriving DecidableEq, Repr

/-- A barrier (R327). -/
structure Barrier where
  members : BitVec 32 := 0
  arrivals : BitVec 32 := 0
  pending : Nat := 0
  credit : Nat := 0
  waiting : BitVec 32 := 0
  passed : BitVec 32 := 0
  /-- Droppers of the current phase, which leave at its completion (R328). -/
  droppers : BitVec 32 := 0
  /-- Joins of this cycle, which apply after a completion (R330). -/
  joins : BitVec 32 := 0
  owner : Option Nat := none
  /-- Phases completed: the model's own count, by which a parked waiter knows its phase has ended. -/
  phase : Nat := 0
  /-- Bytes that copy engines delivered in this cycle, which apply at its end, after its postings (R330). -/
  got : Nat := 0
  /-- A wide barrier: the network the runtime bound it to (1 package, 2 pod, 3 die), and its arrival for this phase sent (R332). -/
  bound : Option Nat := none
  sent : Bool := false
  deriving DecidableEq, Repr

/-- A wide barrier network (R332): its member cores as the runtime gave them, those whose arrival for the open phase has reached it,
and those that its completion has still to reach. -/
structure WideNet where
  members : List Nat := []
  arrived : List Nat := []
  owing : List Nat := []
  deriving DecidableEq, Repr

/-- A cached translation: context, page base, page bits, physical base, W and X (R437, R439). -/
structure TlbEntry where
  ctx : Nat
  va : Nat
  bits : Nat
  pa : Nat
  w : Bool
  x : Bool
  deriving DecidableEq, Repr

/-- A cached non-leaf entry: context, level it leads to, the address bits above it, and the next table (R439). -/
structure WalkEntry where
  ctx : Nat
  lvl : Nat
  va : Nat
  tbl : Nat
  deriving DecidableEq, Repr

/-- A line of a core's speculative buffer: the task, the line address, its written bytes with their mask, and whether it
was read (R290). -/
structure SpecLine where
  task : Nat
  line : Nat
  mask : BitVec 64
  data : Line
  read : Bool
  deriving DecidableEq, Repr

/-- A home record of a light task (R353). -/
structure HomeRec where
  taskh : Word
  ctx : Nat
  holds : List (Nat × Word)
  /-- It stands in its context's core image, the context being evicted from the home core (R423). -/
  out : Bool := false
  deriving DecidableEq, Repr

/-- A core image of an evicted context (R423): its place in the context area, the accumulators and BPTR values it holds. The
coefficient and exchange tables stand in the core's tables, which are kept by context, and the home records in the core's, marked
as out. -/
structure CoreImg where
  addr : Nat
  acc : FMap (FMap Nat) := []
  bptr : FMap Nat := []
  /-- The context is evicted: the image holds its core state. -/
  saved : Bool := false
  /-- The core is gated: the image holds the accumulators and BPTR of the context's slots (R334). -/
  gated : Bool := false
  deriving DecidableEq, Repr

/-- Where a task is to run (R90, R350). -/
structure Place where
  kind : Nat := 0
  num : Nat := 0
  addr : Word := 0
  /-- The owner core of a kind-4 address, resolved when the task is created (R408). -/
  owner : Nat := 0
  deriving DecidableEq, Repr

/-- A task on its way to a slot (R350, R406). -/
structure Task where
  ctx : Nat := 0
  launch : Nat := 0
  entry : Word := 0
  args : List Word := []
  stage : Nat := 0
  time : Word := 0
  ordered : Bool := false
  light : Bool := false
  place : Place := {}
  role : Nat := 0
  /-- Where the handle of a spawned child goes: core, slot and window of the spawner (R351). -/
  reply : Option (Nat × Nat × Nat) := none
  /-- The core on which the creator ran; `none` for a launch's entry task (R407). -/
  origin : Option Nat := none
  taskh : Word := 0
  faultrec : Word := 0
  serves : Option (Nat × Nat × Word) := none
  /-- The delivery pair of a task that an encounter created (R366). -/
  pair : Option Nat := none
  /-- The entry task of a launch (R409). -/
  first : Bool := false
  /-- Accesses of the spawner that must be performed first: its core, its slot and their messages (R351). -/
  after : List Nat := []
  deriving DecidableEq, Repr

/-- An entry of a core's task pool: a new task, or a thread that returns to the slot it left (R406). -/
inductive PoolEntry where
  | new (t : Task)
  /-- A swapped-out thread: its slot, its save record, and the state that the record does not hold. `first` marks one
  that goes ahead of new tasks, having returned from a park. -/
  | back (slot : Nat) (frec : Word) (t : Thread) (first : Bool)
  deriving DecidableEq, Repr

/-- A thread swapped out of its slot while it waits (R410), or saved by a pre-emption (R421). -/
structure Away where
  core : Nat
  slot : Nat
  frec : Word
  thr : Thread
  /-- Out because its context is pre-empted; otherwise out because it is parked. -/
  preempted : Bool
  deriving DecidableEq, Repr

/-- A match entry of a core (R363). -/
structure MatchEntry where
  valid : Bool := false
  pole : Nat := 0
  perch : Nat := 0
  entry : Word := 0
  stage : Nat := 0
  flags : Nat := 0
  rings : Nat := 0
  ctx : Nat := 0
  launch : Nat := 0
  deriving DecidableEq, Repr

/-- A light thread's walking context in transit or in an arrival buffer (R38): the 256 bytes of its message, and the thread, of
which only what the message's envelope names (context, launch, mode) stands beside them. -/
structure Walker where
  thr : Thread
  target : Nat
  msg : List Byte := []
  /-- Where it set out, and its order code (R452). -/
  src : Nat := 2560
  order : Nat := 0
  deriving DecidableEq, Repr

/-- One core: a compute tile's, 0 to 2,047, or a channel core, 2,048 to 2,559 (R4, R18, R20). -/
structure Core where
  /-- Partition mode: 8, 4 or 2 (R56), and the one that starts at the next rotation (R170). -/
  mode : Nat := 8
  modeNext : Option Nat := none
  slots : FMap Thread := []
  /-- The 128 rows of the vector file (R45). -/
  rows : FMap Line := []
  acfg : Word := 0
  /-- Accumulator elements, keyed 4096·N + 64·i + j; an unlisted one is +0 (R204). -/
  acc : FMap Nat := []
  bptr : FMap Nat := []
  /-- EBUDGET of each slot (R231). -/
  ebudget : FMap Word := []
  mq : List MOp := []
  feeder : Feeder := {}
  /-- Coefficient tables that a context has loaded, keyed 16·context + table, as their 256 FP32 words; an unlisted one is
  the factory table (R172, R174). -/
  ctabs : FMap (List Nat) := []
  tabOwner : Option Nat := none
  /-- The context for which a thread waits to make the tables its own (R174). -/
  tabWant : Option Nat := none
  /-- The exchange table of each context that has loaded one; an unlisted one is zero (R174, R228). -/
  xtabs : FMap (List Byte) := []
  /-- The m-th `mxp` that this core has issued and not completed: m, steps, slot, window, cycle (R229). -/
  mxp : Option (Nat × Nat × Nat × Nat × Nat) := none
  mxpCount : Nat := 0
  queues : FMap Queue := []
  matches_ : FMap MatchEntry := []
  arrival : List Walker := []
  pool : List PoolEntry := []
  serial : Nat := 0
  spec : List SpecLine := []
  homes : List HomeRec := []
  tlb : List TlbEntry := []
  /-- Frontier views, keyed 64·launch + stage (R346); an unlisted view is as its launch's start gives it. -/
  views : FMap Word := []
  wide : FMap Barrier := []
  /-- Refusals of this core's gate requests: BelowWhy and AboveWhy (R335). -/
  whyBelow : Nat := 0
  whyAbove : Nat := 0
  /-- Contexts pre-empted on the core and not yet restored (R421). -/
  out : List Nat := []
  /-- Slots pinned by a launch: slot to launch and role (R59, R409). -/
  pins : FMap (Nat × Nat) := []
  /-- The context whose thread each slot held last, to which the accumulators assigned to the slot belong (R334, R423). -/
  slotCtx : FMap Nat := []
  /-- The slot whose parked thread is being swapped out, its task, and the cycle at which the slot empties (R410). -/
  leaving : Option (Nat × Word × Nat) := none
  deriving DecidableEq, Repr

/-- A change of a count: launch, stage, time, delta (R344). -/
structure Delta where
  launch : Nat
  stage : Nat
  time : Word
  d : Int
  deriving DecidableEq, Repr

/-- The gating state of a quad (R333). -/
inductive Gate where
  | none | pending
  /-- The conditions hold; gated at the cycle. -/
  | closing (at_ : Nat)
  | gated
  /-- Released; awake at the cycle. -/
  | waking (at_ : Nat)
  deriving DecidableEq, Repr

/-- A quad, 0 to 511 (R5). -/
structure Quad where
  bars : FMap Barrier := []
  gate : Gate := .none
  tlb : List TlbEntry := []
  times : List Delta := []
  /-- A flush has been asked for, as by a wait that parks (R344). -/
  flush : Bool := false
  /-- Exchanges of the quad that have been abandoned, by their number (R229). -/
  mxpLost : List Nat := []
  deriving DecidableEq, Repr

/-- A tile carried by a ring (R361). -/
structure Carried where
  perch : Bool := false
  key : Nat := 0
  stage : Nat := 0
  time : Word := 0
  remaining : Nat := 0
  laps : Nat := 0
  lapLimit : Nat := 0
  home : Nat := 0
  ctx : Nat := 0
  launch : Nat := 0
  data : List Byte := []
  /-- It entered the ring in this step, and so has crossed no link yet (R365). -/
  still : Bool := false
  deriving DecidableEq, Repr

/-- A delivery pair in use at a core (R366, R369): a number of its own, the ring, the handle of the task that owns it once it
has one, and the entries still held. -/
structure Delivery where
  id : Nat
  ring : Nat
  task : Option Word
  pole : Carried
  perch : Carried
  poleLeft : List Nat
  perchLeft : List Nat
  poleTaken : Bool
  perchTaken : Bool
  deriving DecidableEq, Repr

/-- A ring (R358 to R360), with the configuration that takes effect at the next step. Poles, perches and injection
buffers are keyed by position. -/
structure Ring where
  enabled : Bool := false
  ctx : Nat := 0
  launch : Nat := 0
  missSlots : Nat := 0
  missBase : Word := 0
  missed : Nat := 0
  missSlot : Nat := 0
  poles : FMap Carried := []
  perches : FMap Carried := []
  bufPole : FMap (Carried × Nat × Nat × Nat) := []
  bufPerch : FMap (Carried × Nat × Nat × Nat) := []
  deferred : FMap Nat := []
  /-- A link of the path is out of service (R372). -/
  halted : Bool := false
  liveShown : Nat := 0
  /-- Missed tiles whose handlers wait for a record: the home core, the tile, the slot address (R368, R419). -/
  lost : List (Nat × Carried × Word) := []
  deriving DecidableEq, Repr

/-- A ring or match configuration that waits for the next step boundary (R360, R363): the core, slot and window to
complete, and the write. -/
inductive RingWrite where
  | cfg (ring : Nat) (enable : Bool) (ctx launch slots : Nat) (base : Word)
  | match_ (core idx : Nat) (e : MatchEntry)
  deriving DecidableEq, Repr

/-- Where a position of a copy lies (R378). -/
structure Gauge where
  ext : List Nat
  str : List Int
  deriving DecidableEq, Repr

/-- The statuses of a transfer (R385). -/
inductive XStatus where
  | queued | running | done | fault | stale | parked
  deriving DecidableEq, Repr

/-- A transfer record with its operation (R375 to R385). -/
structure Xfer where
  core : Nat
  slot : Nat
  ctx : Nat
  taskh : Word
  launch : Nat
  xid : Nat
  op : Nat
  w1 : Word
  w2 : Word
  src : Gauge
  dst : Gauge
  total : Nat
  /-- Positions below it have been delivered (R381). -/
  wp : Nat := 0
  /-- Positions below it have been sent, and those sent and not yet performed: position and length (R464). -/
  sent : Nat := 0
  owed : List (Nat × Nat) := []
  status : XStatus
  /-- The final status that it comes to (R384). -/
  fin : Option XStatus := none
  intr : Bool
  handler : Word
  bar : Option Nat
  verAddr : Word
  stamp : Word
  /-- Reads of the version word made (R388), and whether the last differed. -/
  ver : Nat := 0
  stale : Bool := false
  /-- A read of another cube: sent, and what came back with its status. -/
  asked : Bool := false
  got : Option (Nat × List Byte) := none
  /-- The fault that parked it, its record, and whether it still waits for one (R383, R419). -/
  pend : Option FaultInfo := none
  frec : Word := 0
  eng : Nat
  chan : Bool := false
  /-- Physical lines under its read and write locks, the write locks with the last position each holds (R382). -/
  rlocks : List Nat := []
  wlocks : List (Nat × Nat) := []
  live : Bool
  /-- Acceptance order, and its cycle. -/
  seq : Nat
  at_ : Nat
  deriving DecidableEq, Repr

/-- An entry of a router or of the screed unit for a group (R390). -/
structure GroupEntry where
  parent : Nat := 7
  children : Nat := 0
  op : Nat := 0
  sat : Bool := false
  mark : Bool := false
  layers : Nat := 0
  pod : Bool := false
  ctx : Nat := 0
  version : Nat := 0
  deriving DecidableEq, Repr

/-- A value that a round carries: 64-bit lanes held exactly, the lanes' NaN bits, flags, staleness (R391, R392, R394). -/
structure CollVal where
  lo : Int := 0
  hi : Int := 0
  nanLo : Bool := false
  nanHi : Bool := false
  flags : BitVec 5 := 0
  stale : Bool := false
  deriving DecidableEq, Repr

/-- The state a core keeps for a group and context (R393): 0 Idle, 1 Put, 2 Ready, with the result. -/
structure CollState where
  st : Nat := 0
  res : CollVal := {}
  deriving DecidableEq, Repr

/-- A memory location that an access names once translated: the bytes' keys follow one another (R262, R266). -/
structure Loc where
  key : Nat
  owner : Nat
  deriving DecidableEq, Repr

/-- What an access does at its owner (R278, R287, R288). -/
inductive AccKind where
  | load
  | loadResv
  | store (mask : BitVec 64) (data : Line)
  | amo (op : AmoOp) (dbl : Bool) (operand compare : Word)
  | sc (dbl : Bool) (data : Word) (p : Nat)
  deriving DecidableEq, Repr

/-- How a loaded value or an old value reaches its destination. -/
inductive Land where
  /-- A general register, sign-extended from the given width or zero-extended (R303). -/
  | g (r : Nat) (bits : Nat) (sx : Bool)
  /-- A reserved push slot of a queue (R42). -/
  | q (key : Nat) (bits : Nat) (sx : Bool)
  /-- Element i of a vector row, of the given width (R306). -/
  | elem (row i bits : Nat)
  /-- Bytes of a vector row under a mask (R305). -/
  | line (row : Nat) (mask : BitVec 64)
  | pred (p : Nat)
  | none
  deriving DecidableEq, Repr

/-- An access on its way to its owner, or waiting there (R264, R268). -/
structure Access where
  /-- The number its thread knows it by. -/
  msg : Nat
  core : Nat
  slot : Nat
  taskh : Word
  ctx : Nat
  wid : Nat
  /-- The address that its instruction named. -/
  ea : Word := 0
  key : Nat
  bytes : Nat
  owner : Nat
  kind : AccKind
  land : Land
  proxied : Bool
  pod : Option Word
  /-- The order codes of the request and of its response (R452, R494). -/
  order : Nat := 0
  back : Nat := 0
  deriving DecidableEq, Repr

/-- The phases of an atomic at a granule (R287). -/
inductive GPhase where
  | waiting
  /-- The value has been sent. -/
  | sent (old : Word)
  /-- The unit has computed. -/
  | computed (old new : Word)
  deriving DecidableEq, Repr

/-- An entry of a granule's queue (R287): the message it came as, the access and its phase. -/
structure GEntry where
  msg : Nat
  acc : Access
  phase : GPhase
  deriving DecidableEq, Repr

/-- A message in the package (R22, R264, R268, R270, R344, R353, R391). -/
inductive Msg where
  | access (a : Access)
  /-- A response: the access, the value read, and a flag of an atomic or the success of a conditional store. -/
  | response (a : Access) (v : Line) (flags : BitVec 5) (ok : Bool)
  /-- The response to an access that met an error mark: the first poisoned byte's offset in it (R470). -/
  | failed (a : Access) (off : Nat)
  | walk (w : Walker)
  /-- A home record's request and its answer, with the order codes of both (R353, R452). -/
  | home (core slot : Nat) (taskh : Word) (home ctx stage : Nat) (time : Word) (free : Bool) (order : Nat)
  | homeAns (core slot : Nat) (taskh : Word) (home code order : Nat)
  /-- A flush: the table it goes to (0 to 7 a die's, 8 the screed's, 9 the package's) and its deltas, positive first. -/
  | batch (src dst : Nat) (ds : List Delta)
  | task (t : Task)
  /-- An input of a round: the node it goes to, the port it comes from, the group, its version and its value. -/
  | coll (node port grp version : Nat) (v : CollVal)
  /-- A result on its way down: the node, the group and the value. -/
  | collRes (node grp version : Nat) (v : CollVal)
  /-- A NACK: the node that sent what was dropped, the node that dropped it, the group, and whether nothing else ends the sender's round
  (R394, R456). -/
  | nack (node from_ grp : Nat) (ends : Bool)
  deriving DecidableEq, Repr

/-- A launch (R397 to R417, R498). -/
structure Launch where
  active : Bool := false
  ctx : Nat := 0
  prio : Nat := 0
  /-- The host queue, or the queue of the parent's launch for a device launch (R402). -/
  queue : Nat := 0
  device : Bool := false
  intr : Bool := false
  serial : Bool := false
  vector : Nat := 0
  tag : Nat := 0
  image : Word := 0
  /-- Depths of the stages, and edges as (from, to, kind, level) (R340). -/
  stages : List Nat := []
  edges : List (Nat × Nat × Nat × Nat) := []
  /-- ClassOrder of its header (R90, R494). -/
  classOrder : List Nat := []
  gaugeOff : Nat := 0
  gaugeCnt : Nat := 0
  span : Nat := 0
  ringMask : Nat := 0
  partMode : Nat := 8
  roles : List Nat := []
  final : Word := 0
  /-- The stage and time of its entry task: the launch's first pointstamp. -/
  first : Nat × Word := (0, 0)
  /-- The effective priority with which the scheduler took it (R405, R406). -/
  eff : Nat := 0
  groups : List Nat := []
  /-- Groups whose entries a TREE of the launch has written (R465). -/
  treed : List Nat := []
  ended : Bool := false
  recorded : Bool := false
  aborted : Bool := false
  deriving DecidableEq, Repr

/-- A packet that waits: its 64 bytes, its queue or the device, its context, its launch for a kind-2 packet, when it came
in screed cycles, and the core of a device thread (R399, R403, R405). -/
structure Packet where
  bytes : List Byte
  device : Bool
  queue : Nat
  ctx : Nat
  prio : Nat
  parent : Nat
  origin : Nat
  since : Nat
  owner : Nat
  /-- Where it stands in its context's overflow region (R403): the physical address. -/
  spill : Nat := 0
  deriving DecidableEq, Repr

/-- The window and ring of a work queue beside its control-window state (R398, R446). -/
structure WorkQ where
  buf : List Byte := List.replicate 64 0
  head : Nat := 0
  tail : Nat := 0
  /-- When each queued packet came. -/
  since : List Nat := []
  /-- The launch that the queue started last, until it ends (R399). -/
  prev : Option Nat := none
  deriving DecidableEq, Repr

/-- A launch that has passed its checks and waits for a number or a ring (R401). -/
structure Waiting where
  pkt : Packet
  l : Launch
  entry : Task
  deriving DecidableEq, Repr

/-- A completion record that waits for room (R402, R446). -/
structure Completion where
  queue : Nat
  bytes : List Byte
  intr : Bool
  vector : Nat
  /-- It has gone to the bridge of the group, which has not yet said that it left its host port (R446, R448). -/
  sent : Bool := false
  deriving DecidableEq, Repr

/-- What leaves the package: writes to host memory, MSI-X messages, completions of host requests, messages to other cubes. The newest
is first. -/
inductive Output where
  | hostWrite (core off : Nat) (bytes : List Byte)
  | msix (vector : Nat)
  | completion (tag : Nat) (status : Nat) (data : List Byte)
  | flit (port wl : Nat) (header : Word) (bytes : List Byte)
  | resend (port wl group : Nat)
  /-- A receiver asks for a group again. -/
  | retry (port wl group : Nat)
  /-- The control flit of a hand-back: the Seq value from which the wavelength takes flits again (R476). -/
  | handback (port wl seq : Nat)
  /-- The load of a chain table that breaks its limits (R459). -/
  | loadError
  deriving DecidableEq, Repr

/-- A message between cubes, by class, as its payload bytes (R450, R451, R461). -/
structure PodMsg where
  dst : Nat
  src : Nat
  cls : Nat
  /-- The sender's topology version (R457). -/
  ver : Nat
  bytes : List Byte
  /-- Bytes of it already sent in a chain slot (R461). -/
  sent : Nat := 0
  deriving DecidableEq, Repr

/-- A port (R442, R457, R476): what it has received and sent beside its control-window registers. -/
structure Port where
  seqOut : Nat := 0
  seqIn : Nat := 0
  /-- Flits received out of turn: Seq, header and payload (R457). -/
  held : List (Nat × Word × List Byte) := []
  /-- When each wavelength has sent the flit that it is sending, in 224ths of a nanosecond of pod time (R461). -/
  busy : FMap Nat := []
  /-- Flits sent on each wavelength, which fill its FEC groups (R458). -/
  flits : FMap Nat := []
  /-- FEC groups received on each physical wavelength, and those of the last 2^30 bits with symbols corrected (R476). -/
  groups : FMap Nat := []
  symbols : FMap (List (Nat × Nat)) := []
  /-- The wavelength in background retrain, and requests that wait (R31). -/
  retrain : Option Nat := none
  waiting : List Nat := []
  /-- Retrains in a row that each wavelength has failed, and the wavelengths out of service for good (R476). -/
  fails : FMap Nat := []
  dead : List Nat := []
  /-- A full retrain is under way (R31, R442). -/
  full : Bool := false
  deriving DecidableEq, Repr

/-- A link of five bond groups (R23, R472): CRC errors by group and cycle, and for a down link its failed groups and whether it
is out of service. -/
structure Bond where
  crc : List (Nat × Nat) := []
  failed : Nat := 0
  spareFor : Nat := 7
  out : Bool := false
  deriving DecidableEq, Repr

/-- An eviction remap entry of a tile (R425): context, B-store or slice, granule, image address, copy pointer, and whether
the copy runs out (true) or back. -/
structure EvEntry where
  ctx : Nat
  bstore : Bool
  gran : Nat
  image : Word
  ptr : Nat
  out : Bool
  /-- The copies accepted before this number are those it was made for. -/
  upto : Nat := 0
  deriving DecidableEq, Repr

/-- An installed chain table (R459). -/
structure Chain where
  start : Nat := 0
  /-- Slots as (length µs, guard, valid, quota, peers by port). -/
  slots : List (Nat × Nat × Bool × Nat × List (Option Nat)) := []
  deriving DecidableEq, Repr

/-- Bring-up (R481, R482): the screed, the layers (0 absent, 1 calibrating, 2 joined, 3 failed; 5 and 9, which show as calibrating,
passed its tests and waits for the layers below, 9 with its B-stores calibrated), the calibration and the
service level. -/
structure BringUp where
  screed : Bool := false
  layers : List Nat := [0, 0, 0, 0, 0, 0, 0, 0]
  bstore : Bool := false
  full : Bool := false
  deriving DecidableEq, Repr

/-- What a package state image keeps of a core: its queues and wide barriers, and of the contexts evicted from it what their core
images and save records hold and the model keeps beside memory (R423, R483, R484). -/
structure SavedCore where
  queues : FMap Queue
  wide : FMap Barrier
  out : List Nat
  homes : List HomeRec
  ctabs : FMap (List Nat)
  xtabs : FMap (List Byte)
  views : FMap Word
  pins : FMap (Nat × Nat)
  serial : Nat
  /-- Tasks that wait in the pool for the context to come back. -/
  pool : List PoolEntry
  deriving DecidableEq, Repr

/-- What a package state image holds (R483): context table, time tables, barriers, queues, groups, rings, the tables that swap,
and error marks; and what the model keeps of evicted contexts beside memory, so that they can be resumed (R484). -/
structure Saved where
  ctxs : FMap Word
  dieTimes : FMap (List Delta)
  pkgTimes : List Delta
  quads : FMap (List Delta × FMap Barrier)
  cores : FMap SavedCore
  wideNets : FMap WideNet
  groups : FMap GroupEntry
  groupLaunch : FMap Nat
  collSt : FMap CollState
  rings : FMap Ring
  topo : FMap Word
  poison : List Nat
  away : List Away
  images : FMap Word
  coreImgs : FMap CoreImg
  skims : FMap Skim
  launches : FMap Launch
  dispatch : FMap (List Task)
  spawned : List Task
  trapvec : FMap Word
  wdog : FMap Word
  deriving DecidableEq, Repr

/-- The checkpoint sequencer (R483): State, direction, units performed, units sent, and the image. -/
structure Ckpt where
  state : Nat := 0
  restore : Bool := false
  pages : Nat := 0
  sent : Nat := 0
  saved : Option Saved := none
  /-- Ports that left service during the stream, and so left it. -/
  dropped : List Nat := []
  deriving DecidableEq, Repr

/-- A firmware slot by Kind: SVN and digest of what is in flash (R491, R492). -/
structure Firmware where
  svn : Nat := 0
  digest : List Byte := List.replicate 64 0
  body : List Byte := []
  deriving DecidableEq, Repr

/-- The place of an instruction in what issues. -/
inductive Place2 where
  | single | first | second
  deriving DecidableEq, Repr

/-- The outcome that a head of a bundle leaves for `step` (R62). -/
inductive HeadOut where
  | ok | stall | gone | again
  | fault (f : FaultInfo)
  deriving DecidableEq, Repr

/-- What the heads of a bundle read (R62): the thread, its core, its skim stack and its delivery pair as they stood before it. -/
structure View where
  thr : Thread
  core : Core
  skim : Skim
  pair : Option Delivery
  deriving DecidableEq, Repr

/-- What issues at present: the core and slot, the next PC, the state before the bundle that both heads read, and what has
accumulated (R62, R166). -/
structure Cur where
  core : Nat := 0
  slot : Nat := 0
  npc : Word := 0
  /-- The PC of the transfer that set `npc`. -/
  xfer : Option Word := none
  place : Place2 := .single
  view : Option View := none
  /-- Queues that the other head of the bundle has pushed, and those of them whose popping end holds the entry already (R62). -/
  pushed : List Nat := []
  landed : List Nat := []
  flags : BitVec 5 := 0
  /-- The flags of the first head, when the second runs. -/
  firstFlags : BitVec 5 := 0
  /-- The first head wrote ROUND, or STATUS (R166). -/
  wroteRound : Bool := false
  out : HeadOut := .ok
  /-- Heads of the bundle that issues. -/
  heads : Nat := 1
  /-- The skim depth before what issues (R256). -/
  depth : Nat := 0
  deriving DecidableEq, Repr

/-- The state of the package. -/
structure State where
  /-- Every byte of slices, B-stores and HBM that is not zero, keyed by location, rising. -/
  mem : List Host.Cell := []
  cores : FMap Core := []
  quads : FMap Quad := []
  skims : FMap Skim := []
  /-- TRAPVEC and WDOG of each context (R412, R433). -/
  trapvec : FMap Word := []
  wdog : FMap Word := []
  /-- Control-window registers by offset, 8 bytes each (R445). -/
  cw : FMap Word := []
  -- memory owners
  gran : FMap (List GEntry) := []
  resv : FMap (List (Nat × Nat)) := []
  poison : List Nat := []
  remap : FMap Nat := []
  regionCnt : FMap Nat := []
  chanMap : FMap (Nat × Option Nat) := []
  evict : FMap (List EvEntry) := []
  /-- Images of evicted granules, by context, tile and granule (R425). -/
  images : FMap Word := []
  l2walk : FMap (List WalkEntry) := []
  -- messages
  net : List (Nat × Msg) := []
  nextMsg : Nat := 0
  /-- Where messages stood when the routing tables last swapped: a tile and the forced hops still to make (R495). -/
  places : FMap (Nat × List (Nat × Nat)) := []
  /-- Words of messages and walking contexts that carry poison, as a mask (R468). -/
  netMarks : FMap Nat := []
  /-- Elements on their way back to a free list, behind an atomic at its head: context, list and element (R287, R419). -/
  gives : List (Nat × Nat × Nat) := []
  -- rings, copies, collectives
  rings : FMap Ring := []
  ringWrites : List (Nat × Nat × Nat × RingWrite) := []
  deliveries : FMap (List Delivery) := []
  xfers : List Xfer := []
  xseq : Nat := 0
  /-- The core whose request each engine took last (R373). -/
  engLast : FMap Nat := []
  groups : FMap GroupEntry := []
  groupLaunch : FMap Nat := []
  collIn : FMap CollVal := []
  /-- At the root of a group's pod tree: the values of the cubes of its round, keyed 4,096·group + cube (R390). -/
  podIn : FMap CollVal := []
  collSt : FMap CollState := []
  -- time, tasks, launches
  dieTimes : FMap (List Delta) := []
  pkgTimes : List Delta := []
  /-- The cycle of the last change of a count (R346). -/
  countAt : Nat := 0
  dispatch : FMap (List Task) := []
  spawned : List Task := []
  away : List Away := []
  /-- Core images taken from CoreFree, keyed 4,096·context + core (R174, R423). -/
  coreImgs : FMap CoreImg := []
  /-- The wide barrier networks, by `netKey` (R332). -/
  wideNets : FMap WideNet := []
  faultQ : FMap (List Word) := []
  launches : FMap Launch := []
  workQ : FMap WorkQ := []
  devQ : List Packet := []
  ovf : List Packet := []
  waiting : List Waiting := []
  completions : List Completion := []
  rrNext : Nat := 0
  lastArb : Nat := 0
  -- host, pod, repair
  outputs : List Output := []
  /-- What waits for the host port, or for the endpoint to send it (R31, R443), oldest first. -/
  hostQ : List Output := []
  /-- Requests of the host that wait: for its port, for what holds a granule, or behind one of their service core (R31, R297, R447). -/
  hostIn : List (Instr × List Nat) := []
  /-- State images as they lie in the safe tier, by their destination (R483): outside the cube, so a power-on reset leaves them. -/
  tier : FMap Saved := []
  /-- Configuration space of the endpoint, by offset (R443), the cube's group slot, and the cube of each other slot. -/
  pci : FMap Word := []
  groupSlot : Nat := 0
  slotCubes : FMap Nat := []
  ports : FMap Port := []
  bonds : FMap Bond := []
  /-- Messages between cubes that are at this one, and accesses whose request has left it. -/
  podOut : List PodMsg := []
  podSent : List Nat := []
  /-- Messages of which a first part has come: class, sender, destination, version, bytes (R457). -/
  podParts : List (Nat × Nat × Nat × Nat × List Byte) := []
  sendQ : FMap (List PodMsg) := []
  chain : Option Chain := none
  chainNext : Option Chain := none
  /-- The slot whose data window is open, with the quota left of each peer (R461). -/
  chainSlot : Option (Nat × FMap Nat) := none
  bring : BringUp := {}
  ckpt : Ckpt := {}
  debt : Nat := 0
  swap : Option (Nat × Nat × Nat × Nat) := none
  adaptive : Option (Nat × Nat × Nat × Nat) := none
  topo : FMap Word := []
  nonce : List Byte := List.replicate 32 0
  /-- The 4-byte words of the nonce written since a new one began, as a mask (R492). -/
  nonceMask : Nat := 0
  flash : FMap Firmware := []
  running : FMap Firmware := []
  -- clocks
  cycle : Nat := 0
  /-- Screed time in quarter cycles, and pod time in eighths of a nanosecond (R29, R460). -/
  scr4 : Nat := 0
  pod8 : Nat := 0
  -- the model's own schedule
  cur : Cur := {}
  args : List Nat := []
  agenda : List (Instr × List Nat) := []
  /-- Requests of the runtime that wait until they can be met (R425, R426). -/
  asks : List (Instr × List Nat) := []
  issueQ : List Nat := []
  /-- The model's own: the next free choice. -/
  fresh : Nat := 0
  deriving DecidableEq, Repr

/-- The machine right after power-on reset (R481): every register at its reset value, no core holding a thread, memory
with nothing listed. The first step of the part is the screed's boot. -/
def State.reset : State := {}

end Sys2Proof.Machine
end

