-- ==== Sys2Proof/Machine/Crypto.lean ====
section
/-!
DEFINITION. SHA-512 and the verification of Ed25519 signatures (RFC 8032), which R491 names.
-/

namespace Sys2Proof.Machine

/-! ## SHA-512 -/

/-- Round constants 0 to 15 of SHA-512. -/
def shaKFirst : List Word :=
  [0x428A2F98D728AE22, 0x7137449123EF65CD, 0xB5C0FBCFEC4D3B2F, 0xE9B5DBA58189DBBC,
   0x3956C25BF348B538, 0x59F111F1B605D019, 0x923F82A4AF194F9B, 0xAB1C5ED5DA6D8118,
   0xD807AA98A3030242, 0x12835B0145706FBE, 0x243185BE4EE4B28C, 0x550C7DC3D5FFB4E2,
   0x72BE5D74F27B896F, 0x80DEB1FE3B1696B1, 0x9BDC06A725C71235, 0xC19BF174CF692694]

/-- Round constants 16 to 31 of SHA-512. -/
def shaKSecond : List Word :=
  [0xE49B69C19EF14AD2, 0xEFBE4786384F25E3, 0x0FC19DC68B8CD5B5, 0x240CA1CC77AC9C65,
   0x2DE92C6F592B0275, 0x4A7484AA6EA6E483, 0x5CB0A9DCBD41FBD4, 0x76F988DA831153B5,
   0x983E5152EE66DFAB, 0xA831C66D2DB43210, 0xB00327C898FB213F, 0xBF597FC7BEEF0EE4,
   0xC6E00BF33DA88FC2, 0xD5A79147930AA725, 0x06CA6351E003826F, 0x142929670A0E6E70]

/-- Round constants 32 to 47 of SHA-512. -/
def shaKThird : List Word :=
  [0x27B70A8546D22FFC, 0x2E1B21385C26C926, 0x4D2C6DFC5AC42AED, 0x53380D139D95B3DF,
   0x650A73548BAF63DE, 0x766A0ABB3C77B2A8, 0x81C2C92E47EDAEE6, 0x92722C851482353B,
   0xA2BFE8A14CF10364, 0xA81A664BBC423001, 0xC24B8B70D0F89791, 0xC76C51A30654BE30,
   0xD192E819D6EF5218, 0xD69906245565A910, 0xF40E35855771202A, 0x106AA07032BBD1B8]

/-- Round constants 48 to 63 of SHA-512. -/
def shaKFourth : List Word :=
  [0x19A4C116B8D2D0C8, 0x1E376C085141AB53, 0x2748774CDF8EEB99, 0x34B0BCB5E19B48A8,
   0x391C0CB3C5C95A63, 0x4ED8AA4AE3418ACB, 0x5B9CCA4F7763E373, 0x682E6FF3D6B2B8A3,
   0x748F82EE5DEFB2FC, 0x78A5636F43172F60, 0x84C87814A1F0AB72, 0x8CC702081A6439EC,
   0x90BEFFFA23631E28, 0xA4506CEBDE82BDE9, 0xBEF9A3F7B2C67915, 0xC67178F2E372532B]

/-- Round constants 64 to 79 of SHA-512. -/
def shaKFifth : List Word :=
  [0xCA273ECEEA26619C, 0xD186B8C721C0C207, 0xEADA7DD6CDE0EB1E, 0xF57D4F7FEE6ED178,
   0x06F067AA72176FBA, 0x0A637DC5A2C898A6, 0x113F9804BEF90DAE, 0x1B710B35131C471B,
   0x28DB77F523047D84, 0x32CAAB7B40C72493, 0x3C9EBE0A15C9BEBC, 0x431D67C49C100D4C,
   0x4CC5D4BECB3E42B6, 0x597F299CFC657E2A, 0x5FCB6FAB3AD6FAEC, 0x6C44198C4A475817]

/-- The round constants of SHA-512. -/
def shaK : List Word := shaKFirst ++ shaKSecond ++ shaKThird ++ shaKFourth ++ shaKFifth
/-- The initial hash value. -/
def shaInit : List Word :=
  [0x6A09E667F3BCC908, 0xBB67AE8584CAA73B, 0x3C6EF372FE94F82B, 0xA54FF53A5F1D36F1,
   0x510E527FADE682D1, 0x9B05688C2B3E6C1F, 0x1F83D9ABFB41BD6B, 0x5BE0CD19137E2179]

/-- A number as n big-endian bytes. -/
def beBytes (v : Nat) : Nat → List Byte
  | 0 => []
  | n + 1 => BitVec.ofNat 8 (v / 256 ^ n) :: beBytes v n
/-- A list of bytes as a big-endian number. -/
def beNat (bs : List Byte) : Nat := bs.foldl (fun n b => 256 * n + b.toNat) 0

/-- The padded message. -/
def shaPad (bs : List Byte) : List Byte :=
  let z := (239 - bs.length % 128) % 128
  bs ++ [0x80] ++ List.replicate z 0 ++ beBytes (8 * bs.length) 16

/-- The message schedule, newest word first. -/
def shaSchedule : Nat → List Word → List Word
  | 0, w => w
  | n + 1, w =>
    let w := shaSchedule n w
    let a := w.getD 1 0
    let b := w.getD 14 0
    let s1 := a.rotateRight 19 ^^^ a.rotateRight 61 ^^^ (a >>> 6)
    let s0 := b.rotateRight 1 ^^^ b.rotateRight 8 ^^^ (b >>> 7)
    (s1 + w.getD 6 0 + s0 + w.getD 15 0) :: w

/-- One round on the eight working words. -/
def shaRound (v : List Word) (kw : Word) : List Word :=
  let x (i : Nat) : Word := v.getD i 0
  let s1 := (x 4).rotateRight 14 ^^^ (x 4).rotateRight 18 ^^^ (x 4).rotateRight 41
  let ch := (x 4 &&& x 5) ^^^ (~~~(x 4) &&& x 6)
  let t1 := x 7 + s1 + ch + kw
  let s0 := (x 0).rotateRight 28 ^^^ (x 0).rotateRight 34 ^^^ (x 0).rotateRight 39
  let t2 := s0 + ((x 0 &&& x 1) ^^^ (x 0 &&& x 2) ^^^ (x 1 &&& x 2))
  [t1 + t2, x 0, x 1, x 2, x 3 + t1, x 4, x 5, x 6]

/-- One block of 128 bytes. -/
def shaBlock (h : List Word) (bs : List Byte) : List Word :=
  let w := (List.range 16).map fun i => word (beNat ((bs.drop (8 * i)).take 8))
  let ws := (shaSchedule 64 w.reverse).reverse
  List.zipWith (· + ·) h ((List.zipWith (· + ·) shaK ws).foldl shaRound h)

/-- SHA-512 of a message. -/
def sha512 (bs : List Byte) : List Byte :=
  let p := shaPad bs
  ((List.range (p.length / 128)).foldl (fun h i => shaBlock h ((p.drop (128 * i)).take 128)) shaInit).flatMap fun w =>
    beBytes w.toNat 8

/-! ## Ed25519 -/

/-- The prime of the field. -/
def edP : Nat := 2 ^ 255 - 19
/-- The order of the base point. -/
def edL : Nat := 2 ^ 252 + 27742317777372353535851937790883648493

/-- A power in the field, by the low n bits of the exponent. -/
def edPow (b e : Nat) : Nat → Nat
  | 0 => 1
  | n + 1 =>
    let r := edPow (b * b % edP) (e / 2) n
    if e % 2 = 1 then b * r % edP else r
/-- The inverse in the field. -/
def edInv (a : Nat) : Nat := edPow a (edP - 2) 255
/-- The constant d of the curve. -/
def edD : Nat := (edP - 121665) * edInv 121666 % edP

/-- A point as (X : Y : Z : T). -/
structure EdPoint where
  x : Nat
  y : Nat
  z : Nat
  t : Nat
  deriving DecidableEq, Repr

/-- The sum of two points. -/
def EdPoint.add (p q : EdPoint) : EdPoint :=
  let m (a b : Nat) : Nat := a * b % edP
  let s (a b : Nat) : Nat := (a + edP - b) % edP
  let a := m (s p.y p.x) (s q.y q.x)
  let b := m (p.y + p.x) (q.y + q.x)
  let c := m (m (2 * p.t) q.t) edD
  let d := m (2 * p.z) q.z
  let e := s b a
  let f := s d c
  let g := (d + c) % edP
  let h := (b + a) % edP
  ⟨m e f, m g h, m f g, m e h⟩
/-- The neutral point. -/
def edZero : EdPoint := ⟨0, 1, 1, 0⟩
/-- A multiple of a point, by the low n bits of the scalar. -/
def EdPoint.mul (p : EdPoint) (k : Nat) : Nat → EdPoint
  | 0 => edZero
  | n + 1 =>
    let r := (p.add p).mul (k / 2) n
    if k % 2 = 1 then p.add r else r
/-- Two points are the same. -/
def EdPoint.same (p q : EdPoint) : Bool := p.x * q.z % edP == q.x * p.z % edP && p.y * q.z % edP == q.y * p.z % edP

/-- The point of an encoding, if it has one. -/
def edDecode (bs : List Byte) : Option EdPoint :=
  let n := (bs.foldr (fun b n => b.toNat + 256 * n) 0)
  let y := n % 2 ^ 255
  let sign := n / 2 ^ 255
  let u := (y * y + edP - 1) % edP
  let v := (edD * (y * y) + 1) % edP
  let w := u * edPow v 3 2 % edP * edPow (u * edPow v 7 3 % edP) ((edP - 5) / 8) 252 % edP
  let x? : Option Nat :=
    if v * (w * w) % edP = u then some w
    else if v * (w * w) % edP = (edP - u) % edP then some (w * edPow 2 ((edP - 1) / 4) 253 % edP) else none
  match x? with
  | none => none
  | some x =>
    if edP ≤ y ∨ (x = 0 ∧ sign = 1) then none else
    let x := if x % 2 = sign then x else edP - x
    some ⟨x, y, 1, x * y % edP⟩

/-- The base point. -/
def edBase : Option EdPoint := edDecode (0x58 :: List.replicate 31 0x66)

/-- A signature by a public key over a message verifies (RFC 8032, 5.1.7). -/
def edVerify (key msg sig : List Byte) : Bool :=
  let r := sig.take 32
  let sc := ((sig.drop 32).take 32).foldr (fun b n => b.toNat + 256 * n) 0
  match edDecode key, edDecode r, edBase with
  | some a, some r', some b =>
    let k := (sha512 (r ++ key ++ msg)).foldr (fun b n => b.toNat + 256 * n) 0 % edL
    decide (sig.length = 64) && decide (key.length = 32) && decide (sc < edL) &&
    ((b.mul sc 256).mul 8 4).same ((r'.add (a.mul k 256)).mul 8 4)
  | _, _, _ => false

end Sys2Proof.Machine
end

