-- ==== Sys2Proof/Machine/Numbers.lean ====
section
/-!
DEFINITION. Number formats, rounding and conversions (spec/05_numbers.md). Values are exact: a finite value is a sign, a
natural mantissa and a binary exponent.
-/

namespace Sys2Proof.Machine

/-- The STATUS flags an instruction sets: DZ 0, RANGE 1, NAN 2, SAT 3, INEXACT 4 (R50). -/
abbrev Flags := BitVec 5
/-- No flag. -/
abbrev fNone : Flags := 0#5
/-- DZ. -/
abbrev fDz : Flags := 1#5
/-- RANGE. -/
abbrev fRange : Flags := 2#5
/-- NAN. -/
abbrev fNan : Flags := 4#5
/-- SAT. -/
abbrev fSat : Flags := 8#5
/-- INEXACT. -/
abbrev fInexact : Flags := 16#5

/-- The rounding modes of ROUND.Mode (R52). -/
inductive RMode where
  | rne | rtz | rdn | rup | sr
  deriving DecidableEq, Repr

/-- The mode of a ROUND.Mode field; reserved values are never stored (R49). -/
def RMode.ofField : Nat → RMode
  | 0 => .rne
  | 1 => .rtz
  | 2 => .rdn
  | 3 => .rup
  | _ => .sr

/-- What a format does beyond its finite values (R113). -/
inductive FKind where
  /-- Infinities and NaNs. -/
  | ieee
  /-- E4M3: one NaN pattern, no infinity. -/
  | oneNan
  /-- E3M2 and E2M3: finite values alone. -/
  | finite
  deriving DecidableEq, Repr

/-- A floating-point format: exponent width, fraction width, bias (R113). -/
structure FFmt where
  ew : Nat
  fw : Nat
  bias : Nat
  kind : FKind
  deriving DecidableEq, Repr

/-- FP32. -/
def fp32 : FFmt := ⟨8, 23, 127, .ieee⟩
/-- FP16. -/
def fp16 : FFmt := ⟨5, 10, 15, .ieee⟩
/-- BF16. -/
def bf16 : FFmt := ⟨8, 7, 127, .ieee⟩
/-- E4M3. -/
def e4m3 : FFmt := ⟨4, 3, 7, .oneNan⟩
/-- E5M2. -/
def e5m2 : FFmt := ⟨5, 2, 15, .ieee⟩
/-- E3M2. -/
def e3m2 : FFmt := ⟨3, 2, 3, .finite⟩
/-- E2M3. -/
def e2m3 : FFmt := ⟨2, 3, 1, .finite⟩
/-- The 40-bit accumulator format (R127). -/
def acc40 : FFmt := ⟨8, 31, 127, .ieee⟩

/-- A value: finite, infinite or a NaN whose fraction is aligned at the top of 31 bits, the widest fraction (R115). -/
inductive FV where
  | fin (neg : Bool) (m : Nat) (e : Int)
  | inf (neg : Bool)
  | nan (neg : Bool) (frac : Nat)
  deriving DecidableEq, Repr

/-- The default NaN: positive, quiet, nothing else (R114). -/
def FV.dnan : FV := .nan false (2 ^ 30)
/-- The value is a NaN. -/
def FV.isNan : FV → Bool
  | .nan _ _ => true
  | .fin _ _ _ => false
  | .inf _ => false
/-- The value is infinite. -/
def FV.isInf : FV → Bool
  | .inf _ => true
  | .fin _ _ _ => false
  | .nan _ _ => false
/-- The value is a zero. -/
def FV.isZero : FV → Bool
  | .fin _ m _ => m == 0
  | .inf _ => false
  | .nan _ _ => false
/-- The sign. -/
def FV.neg : FV → Bool
  | .fin s _ _ => s
  | .inf s => s
  | .nan s _ => s
/-- The value with its sign inverted. -/
def FV.flip : FV → FV
  | .fin s m e => .fin (!s) m e
  | .inf s => .inf (!s)
  | .nan s f => .nan (!s) f

/-- The total width of a format. -/
def FFmt.width (f : FFmt) : Nat := 1 + f.ew + f.fw

/-- The value of an encoding (R113, R114). -/
def FFmt.value (f : FFmt) (code : Nat) : FV :=
  let frac := code % 2 ^ f.fw
  let ex := code / 2 ^ f.fw % 2 ^ f.ew
  let s := code / 2 ^ (f.fw + f.ew) % 2 == 1
  let fin : FV :=
    if ex = 0 then .fin s frac (1 - (f.bias : Int) - f.fw)
    else .fin s (2 ^ f.fw + frac) ((ex : Int) - f.bias - f.fw)
  match f.kind with
  | .ieee =>
    if ex = 2 ^ f.ew - 1 then (if frac = 0 then .inf s else .nan s (frac * 2 ^ (31 - f.fw))) else fin
  | .oneNan => if ex = 2 ^ f.ew - 1 ∧ frac = 2 ^ f.fw - 1 then .nan s (frac * 2 ^ (31 - f.fw)) else fin
  | .finite => fin

/-- The fraction field of a NaN once it is passed to a fraction of fw bits, quiet (R115). -/
def nanField (fw frac : Nat) : Nat := frac / 2 ^ (31 - fw) ||| 2 ^ (fw - 1)

/-- The largest finite value, as mantissa and exponent (R113). -/
def FFmt.largest (f : FFmt) : Nat × Int :=
  match f.kind with
  | .ieee => (2 ^ (f.fw + 1) - 1, (2 ^ f.ew : Nat) - 2 - (f.bias : Int) - f.fw)
  | .oneNan => (2 ^ (f.fw + 1) - 2, (2 ^ f.ew : Nat) - 1 - (f.bias : Int) - f.fw)
  | .finite => (2 ^ (f.fw + 1) - 1, (2 ^ f.ew : Nat) - 1 - (f.bias : Int) - f.fw)

/-- The bit length of a number. -/
def bitLen (n : Nat) : Nat := if n = 0 then 0 else Nat.log2 n + 1

/-- 2 to a non-negative integer power; 1 below. -/
def pow2 (e : Int) : Nat := 2 ^ e.toNat

/-- m·2^e compared with m'·2^e'. -/
def magLt (m : Nat) (e : Int) (m' : Nat) (e' : Int) : Bool :=
  let b := min e e'
  decide (m * pow2 (e - b) < m' * pow2 (e' - b))

/-- Round up the magnitude lo + r/2^sh, given the mode (R122, R123): `odd` is the parity of lo, `u` the stochastic word. -/
def roundUp (rm : RMode) (neg odd : Bool) (r sh u : Nat) : Bool :=
  if r = 0 then false else
  match rm with
  | .rne => decide (2 ^ sh < 2 * r) || (decide (2 ^ sh = 2 * r) && odd)
  | .rtz => false
  | .rdn => neg
  | .rup => !neg
  | .sr => decide (2 ^ 32 ≤ r * 2 ^ 32 / 2 ^ sh + u)

/-- The encoding of a finite magnitude m·2^g already on the grid of the format. -/
def FFmt.encodeMag (f : FFmt) (neg : Bool) (m : Nat) (g : Int) : Nat :=
  let sbit := if neg then 2 ^ (f.fw + f.ew) else 0
  let (m, g) := if m = 2 ^ (f.fw + 1) then (2 ^ f.fw, g + 1) else (m, g)
  if m < 2 ^ f.fw then sbit + m
  else sbit + (g + f.fw + f.bias).toNat * 2 ^ f.fw + (m - 2 ^ f.fw)

/-- The encoding of an infinity. -/
def FFmt.infCode (f : FFmt) (neg : Bool) : Nat :=
  (if neg then 2 ^ (f.fw + f.ew) else 0) + (2 ^ f.ew - 1) * 2 ^ f.fw

/-- The encoding of the largest finite value. -/
def FFmt.largestCode (f : FFmt) (neg : Bool) : Nat := f.encodeMag neg f.largest.1 f.largest.2

/-- The encoding of an overflow (R125). -/
def FFmt.overflow (f : FFmt) (rm : RMode) (neg : Bool) : Nat × Flags :=
  match f.kind with
  | .ieee =>
    let toInf := match rm with
      | .rne | .sr => true
      | .rtz => false
      | .rdn => neg
      | .rup => !neg
    (if toInf then f.infCode neg else f.largestCode neg, fInexact)
  | .oneNan | .finite => (f.largestCode neg, fSat ||| fInexact)

/-- The encoding of a NaN (R114, R115, R125). -/
def FFmt.nanCode (f : FFmt) (neg : Bool) (frac : Nat) : Nat × Flags :=
  let sbit := if neg then 2 ^ (f.fw + f.ew) else 0
  match f.kind with
  | .ieee => (sbit + (2 ^ f.ew - 1) * 2 ^ f.fw + nanField f.fw frac, fNone)
  | .oneNan => (sbit + 2 ^ (f.fw + f.ew) - 1, fNone)
  | .finite => (0, fRange)

/-- Round a value into a format and encode it (R122, R125). -/
def FFmt.round (f : FFmt) (rm : RMode) (u : Nat) (v : FV) : Nat × Flags :=
  match v with
  | .nan s p => f.nanCode s p
  | .inf s =>
    match f.kind with
    | .ieee => (f.infCode s, fNone)
    | .oneNan | .finite => (f.largestCode s, fSat)
  | .fin s m e =>
    if m = 0 then (if s then 2 ^ (f.fw + f.ew) else 0, fNone) else
    let top : Int := (bitLen m : Int) - 1 + e
    let g := max (top - f.fw) (1 - (f.bias : Int) - f.fw)
    let sh := (g - e).toNat
    let q := if g ≤ e then m * pow2 (e - g) else m / 2 ^ sh
    let r := if g ≤ e then 0 else m % 2 ^ sh
    let q' := if roundUp rm s (q % 2 == 1) r sh u then q + 1 else q
    if magLt f.largest.1 f.largest.2 q' g then f.overflow rm s
    else (f.encodeMag s q' g, if r = 0 then fNone else fInexact)

/-- Of several NaNs, the one a result in a fraction of fw bits carries (R115). Each is read as quiet first (R114): DEDUCED (log entry
106). -/
def pickNan (fw : Nat) (vs : List FV) : Option FV :=
  vs.foldl (fun best v =>
    match v with
    | .fin _ _ _ => best
    | .inf _ => best
    | .nan s p =>
      match best with
      | some (.nan t q) =>
        if nanField fw p < nanField fw q ∨ (nanField fw p = nanField fw q ∧ s = false ∧ t = true) then some (.nan s p)
        else best
      | _ => some (.nan s p)) none

/-- A signed mantissa. -/
def smant (neg : Bool) (m : Nat) : Int := if neg then -(m : Int) else m

/-- The exact sum of finite values; a zero sum is −0 when every term is −0, or when the mode is RDN and not every term
is +0 (R116). -/
def sumFin (rm : RMode) (ts : List (Bool × Nat × Int)) : FV :=
  let b := ts.foldl (fun b t => min b t.2.2) (match ts with | [] => 0 | t :: _ => t.2.2)
  let s : Int := ts.foldl (fun a t => a + smant t.1 (t.2.1 * pow2 (t.2.2 - b))) 0
  if s = 0 then
    let allNeg := ts.all (fun t => t.1 && t.2.1 == 0)
    let allPos := ts.all (fun t => !t.1 && t.2.1 == 0)
    .fin (allNeg || (rm == .rdn && !allPos)) 0 0
  else .fin (decide (s < 0)) s.natAbs b

/-- The sum of terms, each a product of values or a single value paired with one: NaN operands first (R115), then the
invalid operations 0·∞ and ∞ − ∞ (R178), then infinities, then the exact sum. `last` is the addend of a fused operation,
whose NaN hides an invalid product. -/
def dotSum (fw : Nat) (rm : RMode) (ps : List (FV × FV)) (last : Option FV) : FV × Flags :=
  let ops := ps.flatMap (fun p => [p.1, p.2]) ++ last.toList
  match pickNan fw ops with
  | some v => (v, fNone)
  | none =>
    if ps.any (fun p => (p.1.isInf && p.2.isZero) || (p.1.isZero && p.2.isInf)) then (.dnan, fNan) else
    let prods : List FV := ps.map fun p =>
      match p.1, p.2 with
      | .fin s m e, .fin t n d => .fin (s != t) (m * n) (e + d)
      | x, y => .inf (x.neg != y.neg)
    let terms := prods ++ last.toList
    let infs := terms.filter FV.isInf
    match infs with
    | v :: rest => if rest.all (fun w => w.neg == v.neg) then (v, fNone) else (.dnan, fNan)
    | [] => (sumFin rm (terms.filterMap fun v => match v with
        | .fin s m e => some (s, m, e)
        | .inf _ => none
        | .nan _ _ => none), fNone)

/-- The value 1. -/
def FV.one : FV := .fin false 1 0

/-- Sum of two values (R181). -/
def fvAdd (fw : Nat) (rm : RMode) (a b : FV) : FV × Flags := dotSum fw rm [(a, .one)] (some b)
/-- Difference. A NaN subtrahend keeps its sign. -/
def fvSub (fw : Nat) (rm : RMode) (a b : FV) : FV × Flags :=
  dotSum fw rm [(a, .one)] (some (if b.isNan then b else b.flip))
/-- Product. -/
def fvMul (fw : Nat) (rm : RMode) (a b : FV) : FV × Flags := dotSum fw rm [(a, b)] none
/-- Fused multiply-add (R182). -/
def fvFma (fw : Nat) (rm : RMode) (a b c : FV) : FV × Flags := dotSum fw rm [(a, b)] (some c)
/-- Fused multiply-subtract (R182). -/
def fvFms (fw : Nat) (rm : RMode) (a b c : FV) : FV × Flags :=
  dotSum fw rm [(a, b)] (some (if c.isNan then c else c.flip))

/-- Strict order of two values that are not NaN; zeros are equal. -/
def FV.lt (a b : FV) : Bool :=
  match a, b with
  | .inf s, .inf t => s && !t
  | .inf s, .fin _ _ _ => s
  | .fin _ _ _, .inf t => !t
  | .fin s m e, .fin t n d =>
    let b := min e d
    decide (smant s (m * pow2 (e - b)) < smant t (n * pow2 (d - b)))
  | .nan _ _, _ => false
  | _, .nan _ _ => false

/-- The order of minimum and maximum: −0 lies below +0 (R181). -/
def FV.ltZ (a b : FV) : Bool := a.lt b || (a.isZero && b.isZero && a.neg && !b.neg)

/-- IEEE minimum, NaN operands giving a NaN (R181). -/
def fvMin (fw : Nat) (a b : FV) : FV := (pickNan fw [a, b]).getD (if b.ltZ a then b else a)
/-- IEEE maximum. -/
def fvMax (fw : Nat) (a b : FV) : FV := (pickNan fw [a, b]).getD (if a.ltZ b then b else a)

/-! ## Stochastic words -/

/-- One shift of the generator (R123). -/
def lfsrStep (s : Nat) : Nat :=
  let b := (s / 2 ^ 31 + s / 2 ^ 21 + s / 2 + s) % 2
  s * 2 % 2 ^ 32 + b

/-- The word taken from a generator state, which is also its next state (R123). -/
def lfsrWord (s : Nat) : Nat := Nat.iterate lfsrStep 32 s

/-! ## Integers -/

/-- The two's-complement reading of a w-bit code. -/
def sval (w code : Nat) : Int := if code < 2 ^ (w - 1) then code else (code : Int) - 2 ^ w

/-- The w-bit code of an integer, wrapped. -/
def wrapI (w : Nat) (v : Int) : Nat := (v % 2 ^ w).toNat

/-- The value of an integer code by its signedness (R111). -/
def ival (sg : Bool) (w code : Nat) : Int := if sg then sval w code else code

/-- The least value of an integer format. -/
def iMin (sg : Bool) (w : Nat) : Int := if sg then -(2 ^ (w - 1)) else 0
/-- The greatest value of an integer format. -/
def iMax (sg : Bool) (w : Nat) : Int := if sg then 2 ^ (w - 1) - 1 else 2 ^ w - 1

/-- Clamp into an integer format; a clamp sets SAT (R111). -/
def clampI (sg : Bool) (w : Nat) (v : Int) : Nat × Flags :=
  if v < iMin sg w then (wrapI w (iMin sg w), fSat)
  else if iMax sg w < v then (wrapI w (iMax sg w), fSat)
  else (wrapI w v, fNone)

/-- Round a value to an integer by the mode and clamp it (R126). -/
def toInt (sg : Bool) (w : Nat) (rm : RMode) (u : Nat) (v : FV) : Nat × Flags :=
  match v with
  | .nan _ _ => (0, fRange)
  | .inf s => (wrapI w (if s then iMin sg w else iMax sg w), fSat)
  | .fin s m e =>
    let sh := (-e).toNat
    let q := if 0 ≤ e then m * pow2 e else m / 2 ^ sh
    let r := if 0 ≤ e then 0 else m % 2 ^ sh
    let q' := if roundUp rm s (q % 2 == 1) r sh u then q + 1 else q
    let (c, f) := clampI sg w (smant s q')
    (c, f ||| (if r = 0 then fNone else fInexact))

/-! ## Quad codes and scales -/

/-- The magnitudes of a quad code's types, in eighths, in code order (R119). -/
def quadMags : Nat → List Nat
  | 0 => [0, 8, 16, 24, 32, 40, 48, 56]
  | 1 => [0, 4, 8, 12, 16, 24, 32, 48]
  | 2 => [1, 2, 4, 8, 16, 32, 64, 128]
  | _ => [0, 8, 16, 24, 32, 48, 64, 96]

/-- The value of a quad code under a type (R119); a zero reads as +0. -/
def quadValue (ty code : Nat) : FV :=
  if ty = 0 then
    let v := sval 4 code
    .fin (decide (v < 0)) v.natAbs 0
  else if code = 8 then .fin false 0 0
  else .fin (decide (8 ≤ code)) ((quadMags ty).getD (code % 8) 0) (-3)

/-- The rounding candidates of a type and sign: magnitude in eighths, code of the positive value, and last the value that
would come next, which is an overflow (R122, R125). The negative values of type 10 begin at −0.25, its code 1000 being zero (R119). -/
def quadSteps (ty : Nat) (neg : Bool) : List (Nat × Nat) :=
  match ty with
  | 0 => if neg then (List.range 10).map (fun i => (8 * i, i)) else (List.range 9).map (fun i => (8 * i, i))
  | 1 => [(0, 0), (4, 1), (8, 2), (12, 3), (16, 4), (24, 5), (32, 6), (48, 7), (64, 8)]
  | 2 => (0, 8) :: (if neg then [] else [(1, 0)]) ++ [(2, 1), (4, 2), (8, 3), (16, 4), (32, 5), (64, 6), (128, 7), (256, 8)]
  | _ => [(0, 0), (8, 1), (16, 2), (24, 3), (32, 4), (48, 5), (64, 6), (96, 7), (128, 8)]

/-- The zero code of a type for a source sign (R125). -/
def quadZero (ty : Nat) (neg : Bool) : Nat :=
  match ty with
  | 0 => 0
  | 2 => 8
  | _ => if neg then 8 else 0

/-- The code of a magnitude given by its step code. -/
def quadSigned (ty c : Nat) (neg : Bool) : Nat := if ty = 0 then (if neg then (16 - c) % 16 else c) else if neg then 8 + c else c

/-- Round m·2^e between neighbouring steps: the step that holds it from below, then up or not. -/
def quadPick (rm : RMode) (neg : Bool) (m : Nat) (e : Int) (u : Nat) : List (Nat × Nat) → Option (Nat × Nat × Bool)
  | (lo, cl) :: (hi, ch) :: rest =>
    let b := min e (-3)
    let x := m * pow2 (e - b)
    let l := lo * pow2 (-3 - b)
    let h := hi * pow2 (-3 - b)
    if h ≤ x then
      match quadPick rm neg m e u ((hi, ch) :: rest) with
      | some r => some r
      | none => none
    else
      let r := x - l
      let d := h - l
      let up := if r = 0 then false else
        match rm with
        | .rne => decide (d < 2 * r) || (decide (d = 2 * r) && cl % 2 == 1)
        | .rtz => false
        | .rdn => neg
        | .rup => !neg
        | .sr => decide (2 ^ 32 ≤ r * 2 ^ 32 / d + u)
      let overflow := rest.isEmpty && up
      some (if overflow then 1 else 0, if up then ch else cl, decide (r ≠ 0))
  | _ => none

/-- The largest magnitude's code of a type and sign. -/
def quadLargest (ty : Nat) (neg : Bool) : Nat := if ty = 0 then (if neg then 8 else 7) else if neg then 15 else 7

/-- Round a value into the code set of a type (R122, R125). -/
def toQuad (ty : Nat) (rm : RMode) (u : Nat) (v : FV) : Nat × Flags :=
  match v with
  | .nan _ _ => (quadZero ty false, fRange)
  | .inf s => (quadLargest ty s, fSat)
  | .fin s m e =>
    if m = 0 then (quadZero ty s, fNone) else
    match quadPick rm s m e u (quadSteps ty s) with
    | none => (quadLargest ty s, fSat ||| fInexact)
    | some (ov, c, inexact) =>
      if ov = 1 then (quadLargest ty s, fSat ||| fInexact) else
      let fl := if inexact then fInexact else fNone
      let isZero := (ty == 2 && c == 8) || (ty != 2 && c == 0)
      (if isZero then quadZero ty s else quadSigned ty c s, fl)

/-- The Type of a scale byte (R118). -/
def scaleType (b : Nat) : Nat := b / 64 % 4
/-- The Exp of a scale byte (R118). -/
def scaleExp (b : Nat) : Nat := b % 64

/-- A value times 2^k. -/
def FV.scale (v : FV) (k : Int) : FV :=
  match v with
  | .fin s m e => .fin s m (e + k)
  | .inf s => .inf s
  | .nan s f => .nan s f

/-- A value times a scale byte's scale; under the NaN scale every element is the default NaN (R118). -/
def FV.scaled (v : FV) (sb : Nat) : FV :=
  if scaleExp sb = 63 then .dnan else v.scale ((scaleExp sb : Int) - 32)

/-! ## Conversions between element formats -/

/-- A format as conversions see it, with the packed format resolved by EFMT (R176). -/
inductive CFmt where
  | int (sg : Bool) (w : Nat)
  | flt (f : FFmt)
  | blk (f : FFmt)
  | quad
  deriving DecidableEq, Repr

/-- The conversion view of a format. -/
def cfmt (pkSigned : Bool) (pkw : Nat) : Fmt → CFmt
  | .i8 => .int true 8
  | .i16 => .int true 16
  | .i32 => .int true 32
  | .i64 => .int true 64
  | .n8 => .int false 8
  | .n16 => .int false 16
  | .n32 => .int false 32
  | .n64 => .int false 64
  | .fp16 => .flt Machine.fp16
  | .bf16 => .flt Machine.bf16
  | .fp32 => .flt Machine.fp32
  | .e4m3 => .blk Machine.e4m3
  | .e5m2 => .blk Machine.e5m2
  | .e3m2 => .blk Machine.e3m2
  | .e2m3 => .blk Machine.e2m3
  | .qc => .quad
  | .pk => .int pkSigned pkw

/-- The format is a block format (R190). -/
def CFmt.isBlock : CFmt → Bool
  | .blk _ => true
  | .quad => true
  | .int _ _ => false
  | .flt _ => false

/-- Convert one element (R125, R126, R190): `sb` is EFMT.CvtScale, `u` the stochastic word. -/
def convert (d s : CFmt) (sb : Nat) (rm : RMode) (u code : Nat) : Nat × Flags :=
  let both := d.isBlock && s.isBlock
  let src : FV :=
    match s with
    | .int sg w => let v := ival sg w code; .fin (decide (v < 0)) v.natAbs 0
    | .flt f => f.value code
    | .blk f => if both then f.value code else (f.value code).scaled sb
    | .quad => if both then quadValue (scaleType sb) code else (quadValue (scaleType sb) code).scaled sb
  match d, s with
  | .int sg w, .int sg' w' => clampI sg w (ival sg' w' code)
  | .int sg w, _ => toInt sg w rm u src
  | .flt f, _ => f.round rm u src
  | .blk f, _ => f.round rm u (if both then src else src.scale (32 - (scaleExp sb : Int)))
  | .quad, _ => toQuad (scaleType sb) rm u (if both then src else src.scale (32 - (scaleExp sb : Int)))

/-- The conversion rounds, and so takes a stochastic word for each active element (R122, R124). -/
def CFmt.rounds (d s : CFmt) : Bool :=
  match d, s with
  | .int _ _, .int _ _ => false
  | _, _ => true

end Sys2Proof.Machine
end

