-- ==== Sys2Proof/Config.lean ====
section
/-!
DEFINITION. What the spec leaves open, as constants without a body: no proof can see what they are.
-/

namespace Sys2Proof

/-- A free choice among alternatives that the spec does not order (R280, R346, R439): applied to a fresh number. -/
opaque Config.choice : Nat → Nat

/-- A free value of a register or a memory byte string (R65, R242): applied to a fresh number. -/
opaque Config.freeNat : Nat → Nat

/-- The factory coefficient tables (R172): table, word within the table, FP32 code. The spec bounds the error of the
functions they give (R192) and states no coefficient. -/
opaque Config.factoryTable : Nat → Nat → BitVec 32

/-- The set of a second-level TLB that a translation belongs to (R439): context, page, page bits. -/
opaque Config.tlbSet : Nat → Nat → Nat → BitVec 8

/-- Whether an engine's access uses a translation that is still cached where the tables say another (R439): cycle, operation,
address. -/
opaque Config.engineStale : Nat → Nat → Nat → Bool

/-- The tile of its layer at which a die dispatcher stands (R344, R406), within the layer. -/
opaque Config.dieTile : Nat → Nat

/-- How many tasks the runtime's overflow area holds behind a die dispatcher (R406). -/
opaque Config.taskArea : Nat

/-- How many messages the runtime's send queue for a peer of the chain holds (R461). -/
opaque Config.sendRoom : Nat → Nat

/-- The offset in the DMA window at which a notice is written (R493): applied to a fresh number. -/
opaque Config.noticeAt : Nat → Nat

/-- The cube that forms the result of a group's pod tree, and the cubes whose package results join it (R390, R462). -/
opaque Config.podRoot : Nat → Nat
/-- The cubes of a group's pod tree, in the order of combining. -/
opaque Config.podMembers : Nat → List Nat

/-- The certificate of the identity key, byte by byte (R492). -/
opaque Config.certificate : Nat → Byte

/-- The identity key's signature of a message (R492). -/
opaque Config.identitySign : List Byte → List Byte

/-- The module's fused values (R491, R492): the vendor key hash, the least SVN of a Kind, the serial. -/
opaque Config.fusedKeyHash : List Byte
/-- The fused least SVN of a firmware Kind (R491). -/
opaque Config.fusedSvn : Nat → Nat
/-- The module serial (R492). -/
opaque Config.serial : List Byte
/-- The firmware with which the module leaves the factory, by Kind: SVN and digest (R491). -/
opaque Config.factoryFirmware : Nat → Nat × List Byte

end Sys2Proof
end

