-- ==== Sys2Proof/Machine/Base.lean ====
section
/-!
DEFINITION. The named operations over cores, threads, memory, the control window, registers and counts, on which every meaning rests.
-/

namespace Sys2Proof.Machine

/-! ## Cores and threads -/

/-- A core's state (R20). -/
def State.core (s : State) (c : Nat) : Core := FMap.get {} s.cores c
/-- Replace a core. -/
def State.setCore (s : State) (c : Nat) (k : Core) : State := { s with cores := s.cores.set c k }
/-- Change a core. -/
def State.modCore (s : State) (c : Nat) (f : Core → Core) : State := s.setCore c (f (s.core c))
/-- A quad's state (R5). -/
def State.quad (s : State) (q : Nat) : Quad := FMap.get {} s.quads q
/-- Change a quad. -/
def State.modQuad (s : State) (q : Nat) (f : Quad → Quad) : State := { s with quads := s.quads.set q (f (s.quad q)) }
/-- A slot's thread. -/
def Core.slot (k : Core) (i : Nat) : Thread := FMap.get {} k.slots i
/-- The thread of a core's slot. -/
def State.thrAt (s : State) (c i : Nat) : Thread := (s.core c).slot i
/-- Replace a thread. -/
def State.setThrAt (s : State) (c i : Nat) (t : Thread) : State :=
  s.modCore c fun k => { k with slots := k.slots.set i t }
/-- The issuing thread as it stands. -/
def State.thr (s : State) : Thread := s.thrAt s.cur.core s.cur.slot
/-- Replace the issuing thread. -/
def State.setThr (s : State) (t : Thread) : State := s.setThrAt s.cur.core s.cur.slot t
/-- The issuing thread as operands and guards read it: as it stood before the bundle (R62). -/
def State.src (s : State) : Thread :=
  match s.cur.view with
  | some v => v.thr
  | none => s.thr
/-- The issuing core as operands and checks read it (R62). -/
def State.srcCore (s : State) : Core :=
  match s.cur.view with
  | some v => v.core
  | none => s.core s.cur.core
/-- The vector rows as operands read them. -/
def State.srcRows (s : State) : FMap Line := s.srcCore.rows
/-- The issuing core. -/
def State.here (s : State) : Core := s.core s.cur.core
/-- Change the issuing core. -/
def State.modHere (s : State) (f : Core → Core) : State := s.modCore s.cur.core f

/-- The core is a compute tile's (R4). -/
def isTile (c : Nat) : Bool := decide (c < 2048)
/-- x of a tile (R4). -/
def tileX (c : Nat) : Nat := c % 16
/-- y of a tile. -/
def tileY (c : Nat) : Nat := c / 16 % 16
/-- z of a tile. -/
def tileZ (c : Nat) : Nat := c / 256
/-- The tile at coordinates, each taken round its ring. -/
def tileAt (x y z : Nat) : Nat := z % 8 * 256 + y % 16 * 16 + x % 16
/-- The quad of a tile (R5). -/
def quadOf (c : Nat) : Nat := tileZ c * 64 + tileY c / 2 * 8 + tileX c / 2
/-- Tile-in-quad (R5). -/
def inQuad (c : Nat) : Nat := tileY c % 2 * 2 + tileX c % 2
/-- The tile of a quad by tile-in-quad. -/
def quadTile (q i : Nat) : Nat := tileAt (q % 8 * 2 + i % 2) (q / 8 % 8 * 2 + i / 2) (q / 64)
/-- The adjacent quad above, round the z ring (R169). -/
def quadAbove (q : Nat) : Nat := (q + 64) % 512
/-- The adjacent quad below. -/
def quadBelow (q : Nat) : Nat := (q + 448) % 512

/-- The next free number. -/
def State.nextFree (s : State) : Nat × State := (s.fresh, { s with fresh := s.fresh + 1 })

/-! ## Memory -/

/-- The memory is in canonical form: addresses strictly rising, no zero byte listed. -/
def memWf : List Host.Cell → Bool
  | [] => true
  | [c] => c.2 != 0
  | c :: d :: m => c.2 != 0 && decide (c.1 < d.1) && memWf (d :: m)

/-- A byte of memory; an unlisted one reads zero. -/
def State.byte (s : State) (k : Nat) : Byte := FMap.get (0 : Byte) s.mem k
/-- Write a byte of memory, keeping the canonical form. -/
def State.setByte (s : State) (k : Nat) (b : Byte) : State :=
  { s with mem := if b = 0 then FMap.del k s.mem else FMap.set s.mem k b }
/-- n bytes from a location, as a little-endian number (R7). -/
def State.readN (s : State) (k : Nat) : Nat → Nat
  | 0 => 0
  | n + 1 => (s.byte k).toNat + 256 * State.readN s (k + 1) n
/-- Write the low n bytes of a number at a location. -/
def State.writeN (s : State) (k v : Nat) : Nat → State
  | 0 => s
  | n + 1 => State.writeN (s.setByte k (BitVec.ofNat 8 v)) (k + 1) (v / 256) n
/-- Write the bytes of a line that a mask selects. -/
def State.writeMasked (s : State) (k : Nat) (mask : BitVec 64) (v : Nat) : Nat → State
  | 0 => s
  | n + 1 =>
    let s := State.writeMasked s k mask v n
    if mask.getLsbD n then s.setByte (k + n) (BitVec.ofNat 8 (v / 256 ^ n)) else s
/-- n bytes from a location, as a list. -/
def State.bytesAt (s : State) (k n : Nat) : List Byte := (List.range n).map fun i => s.byte (k + i)
/-- Write a list of bytes. -/
def State.putBytes (s : State) (k : Nat) : List Byte → State
  | [] => s
  | b :: bs => (s.setByte k b).putBytes (k + 1) bs
/-- A list of bytes as a little-endian number. -/
def leNat : List Byte → Nat
  | [] => 0
  | b :: bs => b.toNat + 256 * leNat bs
/-- A number as n little-endian bytes. -/
def leBytes (v : Nat) : Nat → List Byte
  | 0 => []
  | n + 1 => BitVec.ofNat 8 v :: leBytes (v / 256) n

/-- The key of the first slice byte of memory. -/
def sliceBase : Nat := 2 ^ 41
/-- The key of the first B-store byte. -/
def bstoreBase : Nat := 2 ^ 42
/-- The location of a slice byte (R262). -/
def sliceKey (tile off : Nat) : Nat := sliceBase + tile * 2 ^ 22 + off
/-- The location of a B-store byte (R258). -/
def bstoreKey (tile off : Nat) : Nat := bstoreBase + tile * 2 ^ 23 + off

/-- The region remap: channel and region to channel and region (R266, R488). -/
def State.regionRemap (s : State) (h reg : Nat) : Nat := FMap.get (h * 1024 + reg) s.remap (h * 1024 + reg)

/-- The channel of a physical address before the remap (R266). -/
def hbmChannel (pa : Nat) : Nat :=
  (pa / 2 ^ 12 % 512) ^^^ (pa / 2 ^ 21 % 512) ^^^ (pa / 2 ^ 30 % 512) ^^^ (pa / 2 ^ 39 % 512)
/-- The offset of a physical address in its channel (R266). -/
def hbmOffset (pa : Nat) : Nat := pa / 2 ^ 21 % 2 ^ 19 * 2 ^ 12 + pa % 2 ^ 12

/-- The device channel that holds an offset of a channel: the spare below the pointer of a channel copy, and for good
after it (R479). -/
def State.device (s : State) (ch off : Nat) : Nat :=
  match FMap.find ch s.chanMap with
  | none => ch
  | some (spare, none) => spare
  | some (spare, some p) => if off < p then spare else ch

/-- Where an HBM byte lies: its location and the channel that owns it (R266, R267). -/
def State.hbmLoc (s : State) (pa : Nat) : Loc :=
  let off := hbmOffset pa
  let r := s.regionRemap (hbmChannel pa) (off / 2 ^ 21)
  let ch := r / 1024
  let off' := r % 1024 * 2 ^ 21 + off % 2 ^ 21
  ⟨s.device ch off' * 2 ^ 31 + off', 2048 + ch⟩

/-- Eight bytes of physical HBM. -/
def State.readPa8 (s : State) (pa : Nat) : Nat := s.readN (s.hbmLoc pa).key 8

/-! ## The control window -/

/-- Reset values of the control window's registers that are not zero (R445, R446, R449, R476, R477, R485, R487, R488). -/
def cwReset (off : Nat) : Word :=
  if off = 0x80 then (1 : Word) <<< 47 ||| (1 : Word) <<< 42 ||| (1 : Word) <<< 37
  else if off = 0xA8 then 16
  else if off = 0x1100 then (8 : Word) <<< 56 ||| (16 : Word) <<< 48 ||| 0x100000
  else if off = 0x1108 then 0x1010101010101010
  else if 0x1200 ≤ off ∧ off < 0x1280 then (4096 : Word) <<< 16 ||| 16
  else if off = 0x1300 then (1 : Word) <<< 62 ||| (2 : Word) <<< 58
  else if 0x2000 ≤ off ∧ off < 0x2400 then 16
  else if 0x4000 ≤ off ∧ off < 0x4060 then (12 : Word) <<< 40 ||| (8 : Word) <<< 32 ||| 0x76543210
  else if 0x20000 ≤ off ∧ off < 0x24000 then (7 : Word) <<< 13
  else if 0x30000 ≤ off ∧ off < 0x38000 ∧ off % 16 = 8 then (1 : Word) <<< 32
  else if 0x200000 ≤ off ∧ off < 0x400000 ∧ off % 32 = 16 then 0x0404
  else 0

/-- A register of the control window, by its offset. -/
def State.cwGet (s : State) (off : Nat) : Word := FMap.get (cwReset off) s.cw off
/-- Set a register of the control window. -/
def State.cwSet (s : State) (off : Nat) (v : Word) : State := { s with cw := s.cw.set off v }
/-- A byte of the control window. -/
def State.cwByte (s : State) (off : Nat) : Nat := (s.cwGet (off / 8 * 8)).toNat / 256 ^ (off % 8) % 256

/-- Bits of a word. -/
def bitsOf (w : Word) (lo n : Nat) : Nat := w.toNat / 2 ^ lo % 2 ^ n
/-- A word with some bits replaced. -/
def putBits (w : Word) (lo n v : Nat) : Word := word (w.toNat - bitsOf w lo n * 2 ^ lo + v % 2 ^ n * 2 ^ lo)

/-- A bit of the endpoint's Command register, in power state D0 (R443). PRESUMED of PCI Express (log entry 110): bit 1 lets the BARs
answer and bit 2 lets the endpoint send memory writes, neither in D3hot. -/
def State.pciOn (s : State) (bit : Nat) : Bool :=
  (FMap.get 0 s.pci 4).getLsbD bit && bitsOf (FMap.get 0 s.pci 0x44) 0 2 == 0
/-- The BARs of the bridge answer; requests that reach another cube of the group have passed them (R447). -/
def State.barOpen (s : State) : Bool := s.groupSlot != 0 || s.pciOn 1
/-- This cube's number (R449). -/
def State.selfCube (s : State) : Nat := ((s.cwGet 0x80).extractLsb' 52 12).toNat
/-- The bridge cube of the group (R443), as the runtime gave it. -/
def State.bridge (s : State) : Nat := FMap.get 0 s.slotCubes 0
/-- A message to another cube; its version is stamped as its first flit leaves (R457). -/
def State.toPod (s : State) (cube cls : Nat) (bytes : List Byte) : State :=
  { s with podOut := s.podOut ++ [⟨cube, s.selfCube, cls, 0, bytes, 0⟩] }
/-- A port in host mode carries traffic (R31, R442). The other cubes of a group reach the host through the bridge. -/
def State.hostUp (s : State) : Bool :=
  s.groupSlot != 0 || (List.range 12).any fun p => bitsOf (s.cwGet (8 * p)) 4 2 == 3 && (s.cwGet (8 * p)).getLsbD 3
/-- Memory writes to the host can leave (R31, R446). -/
def State.hostWrites (s : State) : Bool := s.hostUp && (s.groupSlot != 0 || s.pciOn 2)
/-- What is for the host can leave now. -/
def State.mayLeave (s : State) (o : Output) : Bool :=
  match o with
  | .hostWrite _ _ _ | .msix _ => s.hostWrites
  | .completion _ _ _ | .flit _ _ _ _ | .resend _ _ _ | .retry _ _ _ | .handback _ _ _ | .loadError => s.hostUp
/-- What a cube that is no bridge has for the host, as a class 0 message to the bridge's service core (R447, R448). -/
def Output.forBridge : Output → List Byte
  | .hostWrite core off bytes => [13, BitVec.ofNat 8 core] ++ leBytes 0 4 ++ leBytes off 8 ++ bytes
  | .msix v => 11 :: leBytes v 2
  | .completion tag st data => 10 :: leBytes tag 4 ++ [BitVec.ofNat 8 st] ++ data
  | .loadError => [17]
  | .flit _ _ _ _ | .resend _ _ _ | .retry _ _ _ | .handback _ _ _ => []
/-- Something goes to the host, or waits until it can; from a cube that is no bridge it goes through the bridge (R448). -/
def State.toHost (s : State) (o : Output) : State :=
  if s.groupSlot != 0 then s.toPod s.bridge 0 o.forBridge
  else if s.mayLeave o then { s with outputs := o :: s.outputs } else { s with hostQ := s.hostQ ++ [o] }
/-- What waited for the host and can leave does, in order. -/
def State.flushHost (s : State) : State :=
  { s with outputs := (s.hostQ.filter s.mayLeave).reverse ++ s.outputs, hostQ := s.hostQ.filter fun o => !s.mayLeave o }

/-- A vector cannot be sent now (R443): MSI-X is disabled or masked as a whole, or the vector is masked, or the endpoint may not write.
The other cubes of a group send theirs to the bridge. -/
def State.msixHeld (s : State) (v : Nat) : Bool :=
  s.groupSlot == 0 &&
  (bitsOf (FMap.get 0 s.pci 0x50) 30 2 != 2 || (s.cwGet (0x30000 + 16 * v + 8)).getLsbD 32 || !s.pciOn 2)
/-- A message-signalled interrupt (R448): a masked vector stays pending (R443). -/
def State.sendMsix (s : State) (v : Nat) : State :=
  if s.msixHeld v then
    let off := 0x38000 + v / 64 * 8
    s.cwSet off (s.cwGet off ||| (1#64 <<< (v % 64)))
  else s.toHost (.msix v)

/-- The record of a notice (R493): cause, group slot, unit, zeros, value. -/
def noticeRecord (slot cause unit value : Nat) : List Byte :=
  leBytes cause 1 ++ leBytes slot 1 ++ leBytes unit 2 ++ leBytes 0 4 ++ leBytes value 8
/-- A notice to management (R493): service core 0 writes its record into the DMA window, then sends its vector. Where in the window is
left open (log entry 85). -/
def State.tell (s : State) (cause unit value : Nat) : State :=
  let (n, s) := s.nextFree
  (s.toHost (.hostWrite 0 (Config.noticeAt n) (noticeRecord s.groupSlot cause unit value))).sendMsix (bitsOf (s.cwGet 0xA0) 0 11)

/-- An error counter counts a corrected event (R469), with a notice at each multiple of its threshold. -/
def State.corrected (s : State) (off unit : Nat) : State :=
  let w := s.cwGet off
  let n := bitsOf w 16 32 + 1
  let th := bitsOf w 8 8
  if n = 2 ^ 32 then s else
  let s := s.cwSet off (putBits w 16 32 n)
  if th ≠ 0 ∧ n % 2 ^ th = 0 then s.tell 2 unit n else s
/-- An error counter counts an uncorrectable event (R469). -/
def State.uncorrected (s : State) (off : Nat) : State :=
  let w := s.cwGet off
  s.cwSet off (putBits w 48 16 (min 0xFFFF (bitsOf w 48 16 + 1)))
/-- The REGS counter of a core (R445). -/
def regsCount (c : Nat) : Nat := if isTile c then 0x8000 + 32 * c + 16 else 0x18000 + 16 * (c - 2048) + 8

/-- Offset of a context table entry (R445). -/
def ctxOff (c : Nat) : Nat := 0x50000 + 64 * c
/-- The context exists (R418). -/
def State.ctxValid (s : State) (c : Nat) : Bool := (s.cwGet (ctxOff c)).getLsbD 0
/-- Its tasks run in runtime mode (R55, R418). -/
def State.ctxRuntime (s : State) (c : Nat) : Bool := (s.cwGet (ctxOff c)).getLsbD 1
/-- The root of its page tables. -/
def State.ctxRoot (s : State) (c : Nat) : Nat := (s.cwGet (ctxOff c + 8)).toNat
/-- The base of its context area. -/
def State.ctxArea (s : State) (c : Nat) : Nat := (s.cwGet (ctxOff c + 16)).toNat
/-- The PC of its handler tasks. -/
def State.ctxHandler (s : State) (c : Nat) : Word := s.cwGet (ctxOff c + 24)
/-- Its runtime queue of fault records. -/
def State.ctxFaultQ (s : State) (c : Nat) : Nat := (s.cwGet (ctxOff c + 32)).toNat

/-- The context that holds a granule of a tile, B-store granules counted from 64 (R420, R445). -/
def State.grantee (s : State) (tile gran : Nat) : Option Nat :=
  let b := s.cwByte (0x60000 + 256 * tile + gran)
  if 128 ≤ b then some (b % 64) else none

/-- Capability bits (R91): bits 3 to 5 follow full service, bit 12 the chain table. -/
def State.capLo (s : State) : Word :=
  let base : Word := 0b10111111000111#64
  let full : Word := if s.bring.full then 0b111000 else 0
  let chain : Word := if s.chain.isSome || s.chainNext.isSome then (1 : Word) <<< 12 else 0
  (base &&& ~~~((1 : Word) <<< 12)) ||| full ||| chain

/-! ## Registers of the issuing thread -/

/-- A general register. -/
def Thread.gr (t : Thread) (r : Nat) : Word := FMap.get 0 t.g r
/-- A predicate; p0 reads true (R43). -/
def Thread.pr (t : Thread) (p : Nat) : Bool := p == 0 || t.pw.getLsbD p
/-- A lane mask; k0 reads all ones (R46). -/
def Thread.kr (t : Thread) (k : Nat) : Word := if k = 0 then BitVec.allOnes 64 else FMap.get 0 t.k k

/-- A later write of a register takes it from every open window (R65). -/
def dropDest (d : Dest) (ws : List Window) : List Window :=
  ws.map fun w => { w with dests := w.dests.filter (· != d) }

/-- Write a general register. -/
def Thread.setG (t : Thread) (r : Nat) (v : Word) : Thread :=
  { t with g := t.g.set r v, windows := dropDest (.g r) t.windows }
/-- Write a predicate; a write to p0 is ignored (R43). -/
def Thread.setP (t : Thread) (p : Nat) (v : Bool) : Thread :=
  if p = 0 then t
  else { t with
    pw := if v then t.pw ||| (1#16 <<< p) else t.pw &&& ~~~(1#16 <<< p)
    windows := dropDest (.p p) t.windows }
/-- Write a lane mask; a write to k0 is ignored (R46). -/
def Thread.setK (t : Thread) (k : Nat) (v : Word) : Thread :=
  if k = 0 then t else { t with k := t.k.set k v }

/-- Write a general register of the issuing thread. -/
def State.setG (s : State) (r : Nat) (v : Word) : State := s.setThr (s.thr.setG r v)
/-- Write a predicate of the issuing thread. -/
def State.setP (s : State) (p : Nat) (v : Bool) : State := s.setThr (s.thr.setP p v)
/-- Write a lane mask of the issuing thread. -/
def State.setK (s : State) (k : Nat) (v : Word) : State := s.setThr (s.thr.setK k v)
/-- Change the control registers of the issuing thread. -/
def State.modCtl (s : State) (f : Ctl → Ctl) : State := s.setThr { s.thr with ctl := f s.thr.ctl }

/-- The row of the vector file that holds a register of a slot (R45). -/
def rowOf (mode slot v : Nat) : Nat := slot * (128 / mode) + v
/-- The vector rows of a slot read zero (R48). -/
def Core.clearRows (k : Core) (slot : Nat) : Core :=
  let n := 128 / k.mode
  { k with rows := k.rows.filter fun p => decide (p.1 < slot * n) || decide (slot * n + n ≤ p.1) }
/-- A vector register as an operand. -/
def State.vreg (s : State) (v : Nat) : Line := FMap.get 0 s.srcRows (rowOf s.here.mode s.cur.slot v)
/-- A vector register as it stands. -/
def State.vregNow (s : State) (v : Nat) : Line := FMap.get 0 s.here.rows (rowOf s.here.mode s.cur.slot v)
/-- Write a vector register. -/
def State.setV (s : State) (v : Nat) (x : Line) : State :=
  let s := s.modHere fun k => { k with rows := k.rows.set (rowOf k.mode s.cur.slot v) x }
  s.setThr { s.thr with windows := dropDest (.v v) s.thr.windows }

/-- Note flags that the instruction sets (R51). -/
def State.addFlags (s : State) (f : BitVec 5) : State := { s with cur := { s.cur with flags := s.cur.flags ||| f } }
/-- The PC of the instruction: a second head stands two bytes above the bundle's PC (R71). -/
def State.ipc (s : State) : Word :=
  match s.cur.place with
  | .second => s.src.pc + 2
  | .single => s.src.pc
  | .first => s.src.pc
/-- Continue at a target instead of the next PC (R72). -/
def State.jump (s : State) (target : Word) : State :=
  { s with cur := { s.cur with npc := target, xfer := some s.ipc } }

/-- The reset value of ROUND for a task (R52). -/
def roundSeed (taskh : Word) : Word :=
  let seed := taskh.toNat % 2 ^ 32
  word (2 ^ 32 * (if seed = 0 then 1 else seed))

/-! ## Stage and time -/

/-- The stage of a STAGE word (R338). -/
def stageOf (c : Ctl) : Nat := (c.stage.extractLsb' 0 6).toNat
/-- The task is ordered (R338). -/
def ordered (c : Ctl) : Bool := c.stage.getLsbD 15
/-- It has committed. -/
def committed (c : Ctl) : Bool := c.stage.getLsbD 14

/-- Add a delta to a table, freeing an entry that returns to zero (R344). -/
def addDelta (d : Delta) : List Delta → List Delta
  | [] => if d.d = 0 then [] else [d]
  | e :: es =>
    if e.launch = d.launch ∧ e.stage = d.stage ∧ e.time = d.time then
      (if e.d + d.d = 0 then es else { e with d := e.d + d.d } :: es)
    else e :: addDelta d es

/-- A count change made at a core: in its quad's table, or in the screed's die table (R344). -/
def State.count (s : State) (core launch stage : Nat) (time : Word) (n : Int) : State :=
  let d : Delta := ⟨launch, stage, time, n⟩
  let s := { s with countAt := s.cycle }
  if isTile core then s.modQuad (quadOf core) fun q => { q with times := addDelta d q.times }
  else { s with dieTimes := s.dieTimes.set 8 (addDelta d (FMap.get [] s.dieTimes 8)) }

/-- The table of a core has room for a change at a pointstamp (R344): a free entry, or one for it whose 32-bit delta can take more. -/
def State.countRoom (s : State) (core launch stage : Nat) (time : Word) : Bool :=
  let t := if isTile core then (s.quad (quadOf core)).times else FMap.get [] s.dieTimes 8
  let cap := if isTile core then 64 else 2048
  match t.find? fun e => e.launch == launch && e.stage == stage && e.time == time with
  | some e => decide (e.d.natAbs + 4 < 2 ^ 31)
  | none => decide (t.length < cap)

/-! ## Skim stacks and context registers -/

/-- The skim stack of a context, core and slot (R234). -/
def skimKey (ctx core slot : Nat) : Nat := (ctx * 4096 + core) * 8 + slot
/-- A skim stack. -/
def State.skim (s : State) (ctx core slot : Nat) : Skim := FMap.get {} s.skims (skimKey ctx core slot)
/-- The issuing thread's skim stack as checks and reads see it (R62). -/
def State.srcSkim (s : State) : Skim :=
  match s.cur.view with
  | some v => v.skim
  | none => s.skim s.thr.ctx s.cur.core s.cur.slot
/-- Replace a skim stack. -/
def State.setSkim (s : State) (ctx core slot : Nat) (k : Skim) : State :=
  { s with skims := s.skims.set (skimKey ctx core slot) k }

/-- TRAPVEC of a context (R433). -/
def State.trapVec (s : State) (ctx : Nat) : Word := FMap.get 0 s.trapvec ctx
/-- WDOG of a context (R412). -/
def State.wdogOf (s : State) (ctx : Nat) : Word := FMap.get 32 s.wdog ctx

end Sys2Proof.Machine
end

