-- ==== Sys2Proof/Machine/Writes.lean ====
section
/-!
DEFINITION. Hardware queues and their ends (R318 to R326), the abort of an ordered task (R291), and what every write of memory does to
reservations, error marks and ordered tasks (R278, R288, R470).
-/

namespace Sys2Proof.Machine

/-! ## Hardware queues -/

/-- Depth in entries (R318). -/
def qDepth (core id : Nat) : Nat :=
  if id = 0x1A then 32
  else if id = 0x30 ∨ id = 0x31 then 8
  else if 0x28 ≤ id ∧ id < 0x2C ∧ !isTile core then 64
  else 16

/-- An intra-core queue. -/
def qIntra (id : Nat) : Bool := decide (id < 8)
/-- A network queue. -/
def qNet (id : Nat) : Bool := decide (0x20 ≤ id) && decide (id < 0x26)
/-- A gradient queue. -/
def qGrad (id : Nat) : Bool := decide (0x28 ≤ id) && decide (id < 0x2C)

/-- The queue exists on the core, as a slot may bind it (R318). -/
def qExists (core slot mode id : Nat) : Bool :=
  if isTile core then queueIdOk (BitVec.ofNat 8 id) && (!qNet id || slot + 1 == mode)
  else qIntra id || id == 0x1A || qGrad id

/-- Threads of the core may push the queue. -/
def qCanPush (core id : Nat) : Bool :=
  qIntra id || id == 0x10 || id == 0x11 || id == 0x18 || id == 0x1A || qNet id || (qGrad id && isTile core)

/-- Threads of the core may pop the queue. -/
def qCanPop (core id : Nat) : Bool :=
  qIntra id || id == 0x12 || id == 0x13 || id == 0x18 || id == 0x19 || qNet id || (qGrad id && !isTile core) ||
  id == 0x30 || id == 0x31

/-- The core's entries of a queue. -/
def State.queue (s : State) (core key : Nat) : Queue := FMap.get {} (s.core core).queues key
/-- Change them. -/
def State.modQueue (s : State) (core key : Nat) (f : Queue → Queue) : State :=
  s.modCore core fun k => { k with queues := k.queues.set key (f (FMap.get {} k.queues key)) }

/-- The entries that wait to be sent stand under a key of their own for a network queue. -/
def qSend (id : Nat) : Nat := if qNet id then 0x100 + id else id

/-- The neighbour a port leads to, +x, −x, +y, −y, +z, −z (R318). -/
def portTile (c p : Nat) : Nat :=
  match p with
  | 0 => tileAt (tileX c + 1) (tileY c) (tileZ c)
  | 1 => tileAt (tileX c + 15) (tileY c) (tileZ c)
  | 2 => tileAt (tileX c) (tileY c + 1) (tileZ c)
  | 3 => tileAt (tileX c) (tileY c + 15) (tileZ c)
  | 4 => tileAt (tileX c) (tileY c) (tileZ c + 1)
  | _ => tileAt (tileX c) (tileY c) (tileZ c + 7)

/-- The channel core that a tile's gradient streams go to (R326). -/
def gradCore (c : Nat) : Nat := 2048 + 2 * (tileY c * 16 + tileX c) + tileZ c % 2
/-- The four tiles that send to a channel core. -/
def gradTiles (c : Nat) : List Nat :=
  let n := (c - 2048) / 2
  (List.range 4).map fun i => tileAt (n % 16) (n / 16) (2 * i + c % 2)

/-- The two ends of a queue: itself, the FIFO's ends, the link's ends, or the stream's ends (R320, R324). -/
def qEnds (c id : Nat) : List (Nat × Nat) :=
  if id = 0x10 then [(c, 0x10), (portTile c 4, 0x12)]
  else if id = 0x11 then [(c, 0x11), (portTile c 5, 0x13)]
  else if id = 0x12 then [(portTile c 5, 0x10), (c, 0x12)]
  else if id = 0x13 then [(portTile c 4, 0x11), (c, 0x13)]
  else if qNet id then
    let p := id - 0x20
    [(c, id), (portTile c p, 0x20 + (if p % 2 = 0 then p + 1 else p - 1))]
  else if qGrad id then
    if isTile c then [(c, id), (gradCore c, id)] else (c, id) :: (gradTiles c).map fun t => (t, id)
  else [(c, id)]

/-- A QMAP value binds an id. -/
def binds (qmap : Word) (id : Nat) : Bool := (List.range 8).any fun n => (qmap.extractLsb' (8 * n) 8).toNat == id

/-- Some thread of the core binds the queue: in a slot, in the pool or swapped out. -/
def State.bound (s : State) (c id : Nat) : Bool :=
  ((s.core c).slots.any fun p => p.2.st != .empty && binds p.2.ctl.qmap id) ||
  ((s.core c).pool.any fun e => match e with
    | .back _ _ t _ => binds t.ctl.qmap id
    | .new _ => false) ||
  s.away.any fun a => a.core == c && binds a.thr.ctl.qmap id

/-- An end holds nothing: no entry here, none waiting to be sent, no slot reserved. -/
def State.endEmpty (s : State) (c id : Nat) : Bool :=
  (s.queue c id).items.isEmpty && (s.queue c (qSend id)).items.isEmpty && (s.queue c (qSend id)).resv.isEmpty

/-- Free an end from its context and reopen it. -/
def State.openEnd (s : State) (e : Nat × Nat) : State :=
  s.modQueue e.1 e.2 fun q => { q with owner := none, closed := false }

/-- A stream of one tile is empty (R326). -/
def State.streamEmpty (s : State) (tile id : Nat) : Bool :=
  (s.queue tile id).items.isEmpty && (s.queue tile id).resv.isEmpty &&
  !(s.queue (gradCore tile) id).srcs.contains tile

/-- A queue that has become empty with no binding at any end is open and belongs to no context (R320, R324). A gradient
stream is judged by itself, and the channel core's end with all four. -/
def State.settle (s : State) (c id : Nat) : State :=
  if qGrad id then
    let ch := if isTile c then gradCore c else c
    let s := (gradTiles ch).foldl (fun s t =>
      if s.streamEmpty t id && !s.bound t id && !s.bound ch id then s.openEnd (t, id) else s) s
    if (s.queue ch id).items.isEmpty && !s.bound ch id && (gradTiles ch).all fun t => s.streamEmpty t id && !s.bound t id
    then s.openEnd (ch, id) else s
  else
    let es := qEnds c id
    if es.all fun e => s.endEmpty e.1 e.2 && !s.bound e.1 e.2 then es.foldl State.openEnd s else s

/-- The quad is gated, or still waking (R334, R335). -/
def Gate.shut : Gate → Bool
  | .gated => true
  | .waking _ => true
  | .none => false
  | .pending => false
  | .closing _ => false

/-- A layer has joined (R481). -/
def State.joined (s : State) (z : Nat) : Bool := s.bring.layers.getD z 0 == 2
/-- The core lies in a gated quad, or in a layer that has not joined (R334, R482). -/
def State.shutAt (s : State) (core : Nat) : Bool :=
  isTile core && ((s.quad (quadOf core)).gate.shut || !s.joined (tileZ core))

/-- A push would enter a gated quad (R334). -/
def State.targetGated (s : State) (c id : Nat) : Bool :=
  if id = 0x10 then s.shutAt (portTile c 4)
  else if id = 0x11 then s.shutAt (portTile c 5)
  else if qNet id then s.shutAt (portTile c (id - 0x20))
  else false

/-- Free push slots of an end with some entries (R322). -/
def qRoom (c id : Nat) (q : Queue) : Nat :=
  let held := if id = 0x10 ∨ id = 0x11 ∨ qGrad id then q.seenFull else q.items.length
  (if qGrad id then 16 else qDepth c id) - held - q.resv.length
/-- The pushes that can be made now without stalling (R322). -/
def State.qFree (s : State) (c id : Nat) : Nat := qRoom c id (s.queue c (qSend id))
/-- The queue is closed at this end. -/
def State.qClosed (s : State) (c id : Nat) : Bool := (s.queue c id).closed

/-- Entries of the queue are still on their way to this popping end. -/
def State.qComing (s : State) (c id : Nat) : Bool :=
  if id = 0x12 then !(s.queue (portTile c 5) 0x10).items.isEmpty
  else if id = 0x13 then !(s.queue (portTile c 4) 0x11).items.isEmpty
  else if qNet id then (qEnds c id).any fun e => e != (c, id) && !(s.queue e.1 (qSend e.2)).items.isEmpty
  else if qGrad id then (gradTiles c).any fun t => !(s.queue t id).items.isEmpty
  else false

/-- Who pushed a word of a copy request, as one number (R374): context, slot, light, launch, handle. -/
def pusher (slot : Nat) (t : Thread) : Nat :=
  t.ctx + 64 * (slot + 8 * ((if t.light then 1 else 0) + 2 * (t.launch + 4096 * t.ctl.taskh.toNat)))

/-- An entry takes its place behind the others that stand in a queue. -/
def Queue.put (q : Queue) (id : Nat) (v : Line) (src : Nat) : Queue := { q with
  items := q.items ++ [v]
  srcs := if id = 0x1A then q.srcs ++ [src] else q.srcs
  seenFull := if id = 0x10 ∨ id = 0x11 ∨ qGrad id then q.seenFull + 1 else q.seenFull }

/-- Entries whose turn has come, up to the first reserved slot that is not filled, enter the queue (R42, R319). -/
def Queue.advance (id : Nat) : List Reserved → Queue → Queue
  | [], q => { q with resv := [] }
  | r :: rs, q =>
    match r.val with
    | some v => Queue.advance id rs (q.put id v r.src)
    | none => { q with resv := r :: rs }

/-- Push an entry (R319): it takes its place behind the others, a reserved slot among them; an entry narrower than the line
keeps its low bits. -/
def State.pushQ (s : State) (c id : Nat) (v : Line) (slot : Nat := s.cur.slot) : State :=
  let v := if id = 0x1A then (v.setWidth 64).setWidth 512 else v
  let src := pusher slot (s.thrAt c slot)
  s.modQueue c (qSend id) fun q =>
    if q.resv.isEmpty then q.put id v src else { q with resv := q.resv ++ [⟨0, 0, some v, src⟩] }

/-- A push by the issuing head, which the other head of its bundle does not see (R62). -/
def State.issuePush (s : State) (id : Nat) (v : Line) : State :=
  let here := qSend id == id && (s.queue s.cur.core id).resv.isEmpty
  let s := s.pushQ s.cur.core id v
  { s with cur := { s.cur with pushed := id :: s.cur.pushed, landed := if here then id :: s.cur.landed else s.cur.landed } }

/-- Fill the slot that a window reserved, or give it up (R42). -/
def State.fillResv (s : State) (c slot : Nat) (id : Nat) (task : Word) (wid : Nat) (v : Option Line) : State :=
  let v := v.map fun v => if id = 0x1A then (v.setWidth 64).setWidth 512 else v
  let src := pusher slot (s.thrAt c slot)
  let hit (r : Reserved) : Bool := r.val.isNone && r.task == task && r.wid == wid
  s.modQueue c (qSend id) fun q => Queue.advance id (match v with
    | some v => q.resv.map fun r => if hit r then { r with val := some v, src := src } else r
    | none => q.resv.filter fun r => !hit r) q

/-- A ring port (R318, R369). -/
def qPort (id : Nat) : Bool := id == 0x30 || id == 0x31

/-- The delivery pair of the issuing thread's task (R369). -/
def State.myPair (s : State) (c : Nat) : Option Delivery :=
  (FMap.get [] s.deliveries c).find? fun d => d.task == some s.thr.ctl.taskh
/-- Replace a delivery pair; one whose families have both been taken is freed. -/
def State.setPair (s : State) (c : Nat) (d : Delivery) : State :=
  let ds := FMap.get [] s.deliveries c
  { s with deliveries := s.deliveries.set c (if d.poleTaken && d.perchTaken then ds.filter fun x => x.id != d.id
      else ds.map fun x => if x.id == d.id then d else x) }
/-- Entry i of a carried tile. -/
def Carried.entry (t : Carried) (i : Nat) : Line :=
  BitVec.ofNat 512 (((t.data.drop (64 * i)).take 64).foldr (fun b n => b.toNat + 256 * n) 0)
/-- The entries that a port of a pair still holds, in order. -/
def pairItems (p : Option Delivery) (id : Nat) : List Line :=
  match p with
  | none => []
  | some d => if id = 0x30 then d.poleLeft.map d.pole.entry else d.perchLeft.map d.perch.entry
/-- The entries that a port still holds. -/
def State.portItems (s : State) (c id : Nat) : List Line := pairItems (s.myPair c) id
/-- Pop a port: with its last entry the family counts as taken. -/
def State.popPort (s : State) (c id : Nat) : Line × State :=
  match s.myPair c with
  | none => (0, s)
  | some d =>
    let d' := if id = 0x30 then { d with poleLeft := d.poleLeft.tail, poleTaken := decide (d.poleLeft.length ≤ 1) }
      else { d with perchLeft := d.perchLeft.tail, perchTaken := decide (d.perchLeft.length ≤ 1) }
    ((s.portItems c id).headD 0, s.setPair c d')

/-- The entries that can be popped at an end, in order. -/
def State.qItems (s : State) (c id : Nat) : List Line := if qPort id then s.portItems c id else (s.queue c id).items
/-- Nothing more will come to an end that is empty: its queue is closed. -/
def State.qEnded (s : State) (c id : Nat) : Bool := qPort id || (s.qClosed c id && !s.qComing c id)

/-- Take the head entry; zero from an empty queue, which the checks rule out. -/
def State.popQ (s : State) (c id : Nat) : Line × State :=
  if qPort id then s.popPort c id else
  let q := s.queue c id
  match q.items with
  | [] => (0, s)
  | v :: rest =>
    let ms := q.marks.drop 1
    let s := s.modQueue c id fun q =>
      if qGrad id then
        match q.srcs with
        | [] => { q with items := rest, marks := ms }
        | t :: ts =>
          let n := FMap.get 0 q.pops t + 1
          if n = 4 ∨ !ts.contains t then
            { q with items := rest, marks := ms, srcs := ts, pops := q.pops.set t 0, owed := q.owed.set t (FMap.get 0 q.owed t + n) }
          else { q with items := rest, marks := ms, srcs := ts, pops := q.pops.set t n }
      else if id = 0x12 ∨ id = 0x13 then { q with items := rest, marks := ms, popped := q.popped + 1 }
      else { q with items := rest, marks := ms }
    (v, s.settle c id)

/-! ## The start of a task -/

/-- A thread at the start of its task (R48): what identifies the task stays, all else is as the table gives it. -/
def Thread.start (t : Thread) (entry : Word) (args : List Word) : Thread := {
  st := .running, light := t.light, ctx := t.ctx, launch := t.launch, role := t.role
  pc := entry, from_ := some 0
  g := (List.range 6).foldl (fun g i => g.set i (args.getD i 0)) []
  ctl := { stage := t.ctl.stage, ltime := t.ctl.ltime, taskh := t.ctl.taskh, faultrec := t.ctl.faultrec
           round := roundSeed t.ctl.taskh }
  ord := t.ord, serves := t.serves, nextWid := t.nextWid, rt := t.rt }

/-- The skim stack of an ordered task returns to what it was at its start (R257). -/
def Skim.unwind (k : Skim) (o : OrdStart) : Skim :=
  { k with depth := o.skimDepth, marks := o.skimMarks, last := o.skimLast, lastValid := o.skimLastValid
           onCore := k.onCore.filter (fun e => e.1 < o.skimDepth)
           saved := k.saved.filter (fun e => e.1 < o.skimDepth), prior := k.prior.filter fun e => e.1 < o.skimDepth }

/-- The watchdog of a thread starts anew (R413). -/
def State.rewind (s : State) (t : Thread) : Thread := { t with dog := s.cycle, dogPer := (s.wdogOf t.ctx).toNat }

/-- An aborted thread runs again from its entry (R291). -/
def Thread.rerun (t : Thread) : Thread :=
  match t.ord with
  | some o => t.start o.entry o.args
  | none => t

/-- Push slots that a task, or one window of it, has reserved and not filled are given up (R42, R291): what stands behind them enters. -/
def State.dropResv (s : State) (core task : Nat) (wid : Option Nat := none) : State :=
  (s.core core).queues.foldl (fun s p =>
    let hit (r : Reserved) : Bool := r.val.isNone && r.task.toNat == task && wid.all (· == r.wid)
    if p.2.resv.any hit then
      (s.modQueue core p.1 fun q => Queue.advance (p.1 % 256) (q.resv.filter fun r => !hit r) q).settle core (p.1 % 256)
    else s) s

/-- Queues that a thread has ceased to bind, by the QMAP that it had, are judged anew (R320, R324). -/
def State.unbind (s : State) (core : Nat) (qmap : Word) : State :=
  (List.range 0x32).foldl (fun s id => if binds qmap id then s.settle core id else s) s

/-- A QMAP that binds nothing (R53). -/
def noBinding : Word := BitVec.allOnes 64

/-- Abort an uncommitted ordered task: its buffer entries and unfilled push slots go, its skim stack returns, its queues are unbound,
and it runs again, in its slot or when it next takes one. -/
def State.abortTask (s : State) (core : Nat) (task : Nat) : State :=
  let s := s.modCore core fun k => { k with spec := k.spec.filter fun e => e.task != task }
  let unwind (s : State) (slot : Nat) (t : Thread) : State :=
    match t.ord with
    | some o => s.setSkim t.ctx core slot ((s.skim t.ctx core slot).unwind o)
    | none => s
  match (s.core core).slots.find? fun p => p.2.st != .empty && p.2.ctl.taskh.toNat == task with
  | some (slot, t) =>
    let s := ((unwind s slot t).modCore core fun k => k.clearRows slot).setThrAt core slot { s.rewind t.rerun with st := .running }
    (s.unbind core t.ctl.qmap).dropResv core task
  | none =>
    let again (t : Thread) : Thread := { t with restart := true, ctl := { t.ctl with qmap := noBinding } }
    match s.away.find? fun a => a.core == core && a.thr.ctl.taskh.toNat == task with
    | some a =>
      let s := unwind s a.slot a.thr
      (({ s with away := s.away.map fun b => if b == a then { b with thr := again b.thr } else b }).unbind core a.thr.ctl.qmap).dropResv
        core task
    | none =>
      (s.core core).pool.foldl (fun s e => match e with
        | .back sl _ t _ =>
          if t.ctl.taskh.toNat == task then
            let s := (unwind s sl t).modCore core fun k => { k with pool := k.pool.map fun e => match e with
              | .back sl r t f => if t.ctl.taskh.toNat == task then .back sl r (again t) f else e
              | .new _ => e }
            (s.unbind core t.ctl.qmap).dropResv core task
          else s
        | .new _ => s) s

/-! ## Writes of memory -/

/-- The reservation set that a location belongs to: a slice's bank or an HBM channel (R288). -/
def resvKey (key : Nat) : Nat :=
  if key < sliceBase then 2 ^ 20 + key / 2 ^ 31 else (key - sliceBase) / 2 ^ 22 * 16 + key / 64 % 16

/-- A write to a granule removes every pair for it (R288). -/
def State.dropPairs (s : State) (gran : Nat) : State :=
  let k := resvKey (8 * gran)
  match FMap.get [] s.resv k with
  | [] => s
  | ps => { s with resv := s.resv.set k (ps.filter fun p => p.1 != gran) }

/-- A write to a line aborts the uncommitted ordered tasks that have read it, but for the writer itself (R291). -/
def State.abortReaders (s : State) (line : Nat) (byTask : Option Nat) : State :=
  s.cores.foldl (fun s p =>
    (p.2.spec.filter fun e => e.line == line && e.read && some e.task != byTask).foldl
      (fun s e => s.abortTask p.1 e.task) s) s

/-- Bytes of the error granule at a location: 32 in HBM, 8 elsewhere (R470). -/
def poisonSize (key : Nat) : Nat := if key < sliceBase then 32 else 8
/-- The error granule that holds a byte. -/
def poisonOf (key : Nat) : Nat := key / poisonSize key * poisonSize key

/-- Perform a write (R278): bytes of one line under a mask, with what it does to reservations, error marks and readers. -/
def State.perform (s : State) (key n : Nat) (mask : BitVec 64) (data : Nat) (byTask : Option Nat := none) : State :=
  let s := s.writeMasked key mask data n
  let s := (List.range 8).foldl (fun s i =>
    let g := key / 8 + i
    if (List.range n).any fun j => mask.getLsbD j && (key + j) / 8 == g then s.dropPairs g else s) s
  let s := { s with poison := s.poison.filter fun b =>
    !((List.range (poisonSize b)).all fun j => decide (key ≤ b + j) && decide (b + j < key + n) && mask.getLsbD (b + j - key)) }
  s.abortReaders (key / 64) byTask

/-- The channel that a device channel holds: a spare holds the one that it replaced (R479). -/
def State.channelOf (s : State) (dev : Nat) : Nat :=
  match s.chanMap.find? fun p => p.2.1 == dev with
  | some p => p.1
  | none => dev

/-- A line of HBM that its channel performs is counted (R440). -/
def State.countLine (s : State) (key : Nat) : State :=
  if key < sliceBase then
    let r := s.channelOf (key / 2 ^ 31) * 1024 + key / 2 ^ 21 % 1024
    { s with regionCnt := s.regionCnt.set r (min 65535 (FMap.get 0 s.regionCnt r + 1)) }
  else s

end Sys2Proof.Machine
end

