-- ==== Sys2Proof/Machine/Ops.lean ====
section
/-!
DEFINITION. Walks and context areas, taking an exception and returning from one, and the end of an instruction.
-/

namespace Sys2Proof.Machine

/-! ## Faults and traps -/

/-- The code of a cause (R428). -/
def Cause.code : Cause → Nat
  | .illegalOp => 0x01 | .malformedLine => 0x02 | .badTarget => 0x03 | .priv => 0x04 | .lightVector => 0x05
  | .matrixOwner => 0x06 | .matrixRange => 0x07 | .misaligned => 0x08 | .badAperture => 0x09 | .gated => 0x0A
  | .rangeLock => 0x0B | .granule => 0x0C | .queueUnmapped => 0x10 | .queueClosed => 0x11 | .queueOwner => 0x12
  | .skimOrder => 0x18 | .skimUnderflow => 0x19 | .skimOverflow => 0x1A | .barBusy => 0x20 | .barOrder => 0x21
  | .barOverflow => 0x22 | .timeOverflow => 0x28 | .timeEdge => 0x29 | .timeOrder => 0x2A | .badTask => 0x2B
  | .holdFull => 0x2C | .plumbSelf => 0x2D | .ringOff => 0x30 | .ringTag => 0x31 | .ringBusy => 0x32
  | .ringEmpty => 0x33 | .missedEncounter => 0x34 | .xferBad => 0x38 | .xferId => 0x39 | .xferDone => 0x3A
  | .collGroup => 0x3C | .collOrder => 0x3D | .collStale => 0x3E | .repartBusy => 0x40 | .trap => 0x48
  | .trapNested => 0x49 | .flagTrap => 0x4A | .pageAbsent => 0x50 | .pageProt => 0x51 | .pageBad => 0x52
  | .pageInvalid => 0x53 | .watchdog => 0x58 | .memError => 0x60

/-- The cause is replayable (R427, R428). -/
def Cause.replayable : Cause → Bool
  | .pageAbsent => true
  | _ => false

/-- A leaf: page bits, physical base, W and X (R437). -/
structure Leaf where
  bits : Nat
  pa : Nat
  w : Bool
  x : Bool
  deriving DecidableEq, Repr

/-- The index of a level (R436). -/
def tableIndex (lvl va : Nat) : Nat :=
  match lvl with
  | 1 => va / 2 ^ 39 % 256
  | 2 => va / 2 ^ 30 % 512
  | 3 => va / 2 ^ 21 % 512
  | _ => va / 2 ^ 16 % 32
/-- The page bits of a leaf at a level. -/
def leafBits (lvl : Nat) : Nat :=
  match lvl with
  | 1 => 39
  | 2 => 30
  | 3 => 21
  | _ => 16

/-- The walk of R438 from a level and its table, with the non-leaf entries it reads as (level led to, table). -/
def State.walkFrom (s : State) (va : Nat) : Nat → Nat → Nat → Except (Cause × Nat) (Leaf × List (Nat × Nat))
  | 0, _, _ => .error (.pageBad, 0)
  | fuel + 1, lvl, t =>
    let e := s.readPa8 (t + 8 * tableIndex lvl va)
    let leaf := e / 2 % 2 = 1
    let bits := leafBits lvl
    if e % 2 = 0 then .error (.pageAbsent, 0)
    else if e / 2 ^ 48 ≠ 0 ∨ e / 16 % 16 ≠ 0 then .error (.pageBad, 0)
    else if leaf then
      if lvl = 1 ∨ e / 2 ^ 8 % 2 ^ 8 ≠ 0 ∨ e / 2 ^ 16 * 2 ^ 16 % 2 ^ bits ≠ 0 then .error (.pageBad, 0)
      else .ok (⟨bits, e / 2 ^ 16 * 2 ^ 16, e / 4 % 2 = 1, e / 8 % 2 = 1⟩, [])
    else if lvl = 4 ∨ e / 4 % 4 ≠ 0 ∨ 2 ^ 40 ≤ e / 2 ^ 8 * 2 ^ 8 then .error (.pageBad, 0)
    else
      let nt := e / 2 ^ 8 * 2 ^ 8
      match s.walkFrom va fuel (lvl + 1) nt with
      | .ok (l, ts) => .ok (l, (lvl + 1, nt) :: ts)
      | .error c => .error c

/-- The table entries that a walk reads, by physical address (R438). -/
def State.walkReads (s : State) (va : Nat) : Nat → Nat → Nat → List Nat
  | 0, _, _ => []
  | fuel + 1, lvl, t =>
    let pa := t + 8 * tableIndex lvl va
    let e := s.readPa8 pa
    pa :: if e % 4 = 1 ∧ lvl < 4 then s.walkReads va fuel (lvl + 1) (e / 2 ^ 8 % 2 ^ 40 * 2 ^ 8) else []

/-- The channels count the lines that a walk reads (R440). -/
def State.countWalk (s : State) (va lvl t : Nat) : State :=
  (s.walkReads va 4 lvl t).foldl (fun s pa => if pa < 2 ^ 40 then s.countLine (s.hbmLoc pa).key else s) s

/-- A cached translation that covers an address. -/
def tlbFind (es : List TlbEntry) (ctx va : Nat) : Option TlbEntry :=
  es.find? fun e => e.ctx == ctx && e.va == va / 2 ^ e.bits * 2 ^ e.bits

/-- A translation that a cache of the package holds for an address (R439). -/
def State.anyCached (s : State) (ctx va : Nat) : Option TlbEntry :=
  (s.quads.findSome? fun q => tlbFind q.2.tlb ctx va).or (s.cores.findSome? fun k => tlbFind k.2.tlb ctx va)

/-- The leaf by which the hardware reaches a virtual address for no core's thread: the walk of R438, or a translation still cached that
differs from it, either one (R439). -/
def State.anyLeaf (s : State) (ctx va : Nat) : Except (Cause × Nat) Leaf :=
  match s.anyCached ctx va with
  | some e => if Config.engineStale s.cycle ctx va then .ok ⟨e.bits, e.pa, e.w, e.x⟩ else
    (s.walkFrom va 4 1 (s.ctxRoot ctx)).map Prod.fst
  | none => (s.walkFrom va 4 1 (s.ctxRoot ctx)).map Prod.fst

/-- The location of a byte of a context's own area, as the hardware reaches it by the walk of R438; `none` when the area is not
mapped to HBM there. -/
def State.areaKey (s : State) (ctx va : Nat) : Option Nat :=
  match s.anyLeaf ctx va with
  | .ok l =>
    let pa := l.pa + va % 2 ^ l.bits
    if pa < 2 ^ 40 then some (s.hbmLoc pa).key else none
  | .error _ => none

/-- The hardware's walk to an address of a context area is counted where no cache holds its translation (R439, R440). -/
def State.areaUse (s : State) (ctx va : Nat) : State :=
  if (s.anyCached ctx va).isSome then s else s.countWalk va 1 (s.ctxRoot ctx)

/-- A write by the hardware of bytes of a context area (R278): counted, and with what every write of memory does, for a task or for
none. -/
def State.areaWrite (s : State) (key n v : Nat) (by_ : Option Nat := none) : State :=
  (s.countLine key).perform key n (BitVec.allOnes 64) v by_

/-- Atomics or stores wait at a granule (R287). -/
def State.granHeld (s : State) (key : Nat) : Bool := !(FMap.get [] s.gran (key / 8)).isEmpty

/-- Some granule of an element of a context area has a queue, as software's accesses to a free element may leave it. -/
def State.elementHeld (s : State) (ctx e n : Nat) : Bool :=
  s.gran.any fun p => !p.2.isEmpty && (List.range n).any fun i => (s.areaKey ctx (e + 8 * i)).map (· / 8) == some p.1

/-- The length in bytes of an element of the free list at an offset of the header (R419). -/
def elementSize (headOff : Nat) : Nat := if headOff = 0 then 8192 else if headOff = 8 then 64 else 65536

/-- Take an element from a free list of a context area (R419): its address. The head and the link are read and written as an atomic at
`.pkg`: while a queue stands at the head's granule, or at one of the element's, the taking waits as for an empty list (R287). It may be for
a task, which its write does not abort. -/
def State.takeFree (s : State) (ctx headOff : Nat) (by_ : Option Nat := none) : Option (Nat × State) :=
  match s.areaKey ctx (s.ctxArea ctx + headOff) with
  | none => none
  | some hk =>
    let e := s.readN hk 8
    if e = 0 || s.granHeld hk then none else
    match s.areaKey ctx e with
    | none => none
    | some ek => if s.elementHeld ctx e (elementSize headOff / 8) then none else
      some (e, (((s.areaUse ctx (s.ctxArea ctx + headOff)).areaUse ctx e).countLine ek).areaWrite hk 8 (s.readN ek 8) by_)

/-- Return an element to a free list (R419), or let it wait while a queue stands at the head's granule or at the link's (R287). -/
def State.giveFree (s : State) (ctx headOff e : Nat) : State :=
  match s.areaKey ctx (s.ctxArea ctx + headOff), s.areaKey ctx e with
  | some hk, some ek =>
    if s.granHeld hk || s.granHeld ek then { s with gives := s.gives ++ [(ctx, headOff, e)] }
    else (((s.areaUse ctx (s.ctxArea ctx + headOff)).areaUse ctx e).areaWrite ek 8 (s.readN hk 8)).areaWrite hk 8 e
  | _, _ => s

/-- The elements that wait to return to their lists do so where they can (R419). -/
def State.giveWaiting (s : State) : State :=
  s.gives.foldl (fun s g => s.giveFree g.1 g.2.1 g.2.2) { s with gives := [] }

/-- The 64 bytes of a fault record, as eight words (R429). -/
def faultWords (t : Thread) (core slot : Nat) (depth : Nat) (f : FaultInfo) (double : Bool) : List Word :=
  let flags := (if f.cause.replayable then 1 else 0) + (if f.second then 2 else 0) + (if double then 4 else 0)
  [word (f.cause.code + 2 ^ 8 * f.aux + 2 ^ 16 * flags + 2 ^ 24 * (slot + (if t.light then 8 else 0)) + 2 ^ 32 * core +
      2 ^ 48 * t.ctx + 2 ^ 56 * stageOf t.ctl),
   t.pc, f.addr, word f.mask, word (f.depth.getD depth), t.ctl.ltime, t.ctl.taskh, f.resume.getD t.pc]

/-- Write words at a virtual address of a context area. -/
def State.putWords (s : State) (ctx va : Nat) (ws : List Word) (by_ : Option Nat := none) : State :=
  match ws with
  | [] => s
  | w :: ws =>
    match s.areaKey ctx va with
    | some k => ((s.areaUse ctx va).areaWrite k 8 w.toNat by_).putWords ctx (va + 8) ws by_
    | none => s.putWords ctx (va + 8) ws by_

/-- Send a record to a context's runtime queue. -/
def State.toFaultQ (s : State) (ctx : Nat) (frec : Word) : State :=
  let q := s.ctxFaultQ ctx
  { s with faultQ := s.faultQ.set q (FMap.get [] s.faultQ q ++ [frec]) }

/-- A count changed for a thread in a slot: it notes that it has changed counts there (R345). -/
def State.noteCounted (s : State) (core slot : Nat) (t : Thread) : State :=
  let u := s.thrAt core slot
  if u.st != .empty && u.ctl.taskh == t.ctl.taskh then s.setThrAt core slot { u with counted := true } else s

/-- Make a handler task for a record (R430): counted before any later decrement, resident, at the faulting core. -/
def State.makeHandler (s : State) (core slot : Nat) (t : Thread) (frec g0 : Word) (serves : Option (Nat × Nat × Word)) : State :=
  let s := (s.count core t.launch (stageOf t.ctl) t.ctl.ltime 1).noteCounted core slot t
  let task : Task := {
    ctx := t.ctx, launch := t.launch, entry := s.ctxHandler t.ctx, args := [g0, frec]
    stage := stageOf t.ctl, time := t.ctl.ltime, place := { kind := 1, num := core }, origin := some core
    faultrec := frec, serves := serves }
  { s with spawned := s.spawned ++ [task] }

/-- The task is a handler task (R430): its own faults of handler kind are double (R435). -/
def Thread.handles (t : Thread) : Bool := t.ctl.faultrec != 0

/-- The handler task that a fault of a thread makes can be counted now (R344, R430), or none is made. -/
def State.handlerRoom (s : State) (core : Nat) (t : Thread) : Bool :=
  s.ctxHandler t.ctx == 0 || s.countRoom core t.launch (stageOf t.ctl) t.ctl.ltime

/-- Deliver a fault of handler kind to a thread, its record taken (R427, R430, R435). -/
def State.deliverH (s : State) (core slot : Nat) (f : FaultInfo) (pc : Word) (frec depth : Nat) : State :=
  let t := { s.thrAt core slot with pc := pc }
  let dbl := t.handles
  let s := s.putWords t.ctx frec (faultWords t core slot depth f dbl) (some t.ctl.taskh.toNat)
  let s := s.setThrAt core slot { t with st := .parked (.suspended (word frec)) s.cycle, fault := none, done := 0 }
  if s.ctxHandler t.ctx = 0 ∨ dbl then s.toFaultQ t.ctx (word frec)
  else s.makeHandler core slot t (word frec) t.ctl.taskh (some (core, slot, word frec))

/-- Deliver a replayable fault: the access parks and its record goes to the runtime (R434). -/
def State.deliverR (s : State) (core slot : Nat) (f : FaultInfo) (pc : Word) (frec depth : Nat) : State :=
  let t := { s.thrAt core slot with pc := pc }
  let s := s.putWords t.ctx frec (faultWords t core slot depth f false) (some t.ctl.taskh.toNat)
  let s := s.setThrAt core slot { t with st := .parked (.replay (word frec)) s.cycle, fault := none, done := f.mask }
  s.toFaultQ t.ctx (word frec)

/-- Deliver a fault to a thread, or let it wait while no record is free, or no room for its handler's count (R344, R419): stalled,
or parked when replayable. -/
def State.deliver (s : State) (core slot : Nat) (f : FaultInfo) (pc : Word) : State :=
  let t := s.thrAt core slot
  let depth := (s.skim t.ctx core slot).depth
  match if f.cause.replayable || t.handles || s.handlerRoom core t then s.takeFree t.ctx 8 (some t.ctl.taskh.toNat) else none with
  | some (frec, s) =>
    if f.cause.replayable then s.deliverR core slot f pc frec depth else s.deliverH core slot f pc frec depth
  | none =>
    let st := if f.cause.replayable then TState.parked (.replay 0) s.cycle else .stalled
    s.setThrAt core slot { t with st := st, fault := some f, pc := pc, done := f.mask }

/-- The thread is at no instruction whose access has parked. -/
def Thread.unissued (t : Thread) : Thread := { t with mid := none, taken := [] }

/-- An instruction whose access parked faults after all, without effect (R14, R434): the entries that it took stand at the heads of their
queues again, and its push slot is given up. -/
def State.unissue (s : State) (core : Nat) (t : Thread) : State :=
  if t.mid.isNone then s else
  (t.taken.reverse.foldl (fun s (e : Nat × Line) => s.modQueue core e.1 fun q => { q with
    items := e.2 :: q.items, marks := if q.marks.isEmpty then [] else 0 :: q.marks, popped := q.popped - 1 }) s).dropResv
      core t.ctl.taskh.toNat (some t.nextWid)

/-- Take the exception of an instruction that faults: no effect of the instruction but those that its entry names, and the
fault delivered at its PC (R14, R427). -/
def State.takeFault (s : State) (f : FaultInfo) : State :=
  let s := if f.cause.replayable then s else (s.unissue s.cur.core s.thr).setThr s.thr.unissued
  s.deliver s.cur.core s.cur.slot f s.thr.pc

/-- A fault of notice kind: a record and a handler task, and no thread suspended (R427). Without a free record the notice
is lost to the program; the caller waits instead where the spec says so. -/
def State.notice (s : State) (core slot : Nat) (t : Thread) (f : FaultInfo) (g0 : Word) : Option State :=
  let h := some t.ctl.taskh.toNat
  match if s.handlerRoom core t then s.takeFree t.ctx 8 h else none with
  | none => none
  | some (frec, s) =>
    let s := s.putWords t.ctx frec (faultWords t core slot (s.skim t.ctx core slot).depth f false) h
    some (if s.ctxHandler t.ctx = 0 then s.toFaultQ t.ctx (word frec)
      else s.makeHandler core slot t (word frec) g0 none)

/-- An in-thread handler is active (R433). -/
def Ctl.active (c : Ctl) : Bool := c.trapcause.getLsbD 16

/-- Enter an in-thread handler (R432): TRAPPC takes the next PC, TRAPCAUSE the cause, its code and Active. -/
def Ctl.enter (c : Ctl) (cause : Cause) (aux : Nat) (npc : Word) : Ctl :=
  { c with trappc := npc &&& ~~~1#64, trapcause := word (cause.code + 2 ^ 8 * aux + 2 ^ 16) }

/-- Leave the in-thread handler (R163, R432). -/
def Ctl.leave (c : Ctl) : Ctl := { c with trapcause := c.trapcause &&& ~~~(1#64 <<< 16) }

/-! ## The end of an instruction -/

/-- Why an instruction does not complete in the ordinary way. -/
inductive Stop where
  /-- It stalls and issues again (R61). -/
  | stall
  /-- It faults without effect (R14). -/
  | fault (f : FaultInfo)
  /-- It faults, and the effects in the state stay (R317). -/
  | part (s : State) (f : FaultInfo)
  /-- It is complete and its thread is no longer at this place: it ended, left or moved. -/
  | gone (s : State)
  /-- It has done what it does once, and issues again (R393). -/
  | again (s : State)
  deriving DecidableEq, Repr

/-- What the body of a meaning answers. -/
abbrev Res := Except Stop State

/-- A fault without effect. -/
def bad (c : Cause) (addr : Word := 0) : Stop := .fault { cause := c, addr := addr }

/-- The flags of an instruction, ORed into STATUS, and whether one of them traps (R51). -/
def applyFlags (st : Word) (f : BitVec 5) : Word × Bool :=
  (st ||| f.setWidth 64, (f &&& st.extractLsb' 8 5) != 0#5)

/-- The end of an instruction that completes: flags enter STATUS, the PC moves on, and the thread has had its turn. -/
def State.endInstr (s : State) : State :=
  let t := s.thr
  let (st, trap) := applyFlags t.ctl.status s.cur.flags
  s.setThr { t with
    ctl := { t.ctl with status := st }
    heldFlag := t.heldFlag || trap
    heldFlagPc := if trap then some t.pc else t.heldFlagPc
    heldFlagSecond := if trap then s.cur.place == .second && !(applyFlags t.ctl.status s.cur.firstFlags).2 else t.heldFlagSecond
    heldFlagDepth := if trap then s.cur.depth else t.heldFlagDepth
    pc := s.cur.npc, from_ := s.cur.xfer, lastIssue := s.cycle + 1, done := 0, latch := none, mid := none, taken := []
    st := match t.st with
      | .stalled => .running
      | x => x }

/-- A stall: the thread waits at its PC and nothing else happens (R61). -/
def State.markStalled (s : State) : State := s.setThr { s.thr with st := .stalled }

/-- Record what a head of a bundle came to; `step` joins the two (R62). -/
def State.recordHead (s : State) (o : HeadOut) : State := { s with cur := { s.cur with out := o } }

/-- Complete an instruction: alone, or as a head of a bundle. -/
def finish (s : State) (r : Res) : Host.Outcome State Fault Refusal :=
  match s.cur.place with
  | .single =>
    match r with
    | .ok s' => .next s'.endInstr
    | .error .stall => .next s.markStalled
    | .error (.fault f) => .next (s.takeFault f)
    | .error (.part s' f) => .next (s'.takeFault f)
    | .error (.gone s') | .error (.again s') => .next s'
  | .first | .second =>
    match r with
    | .ok s' => .next (s'.recordHead .ok)
    | .error .stall => .next (s.recordHead .stall)
    | .error (.fault f) => .next (s.recordHead (.fault f))
    | .error (.part s' f) => .next (s'.recordHead (.fault { f with mask := 0 }))
    | .error (.gone s') => .next (s'.recordHead .gone)
    | .error (.again s') => .next (s'.recordHead .again)

end Sys2Proof.Machine
end

