-- ==== Sys2Proof/Machine/Operands.lean ====
section
/-!
DEFINITION. Operands: what each instruction uses, the checks of R110 before its own, queue registers and hardware queues
(R42, R318 to R326), and long results (R64).
-/

namespace Sys2Proof.Machine

/-- What an instruction uses: general registers popped or read, in the order a, b, d; the one written; the queue that an
operation streams; vector registers; energy class; feature bits; privilege; a control register that it writes; what a
light thread may not name; an accumulator; a queue number; the registers that it names as destinations beside the first vector
register and the register pushed: 0 to 31 general and queue registers, 64 PW, 128 up vector registers, 256 up lane masks; and whether it reads or loads the core's tables (R174). -/
structure Use where
  pops : List GSpec := []
  push : Option GSpec := none
  stream : Option GSpec := none
  vregs : List VSpec := []
  energy : Energy := 0#2
  features : List Nat := []
  priv : Bool := false
  ctlIdx : Option (BitVec 12) := none
  heavy : Bool := false
  acc : Option (BitVec 2) := none
  qnum : Option (BitVec 3) := none
  vdst : Bool := true
  extra : List Nat := []
  tables : Bool := false
  deriving DecidableEq, Repr

/-- What an instruction uses, from the tables of spec/04_opcode_map.md. -/
def useOf : Instr → Use
  | .nop => {}
  | .yield => {}
  | .end_ => {}
  | .ret a => { pops := [a] }
  | .tret => {}
  | .trap _ => {}
  | .br _ => {}
  | .call d _ => { push := some d }
  | .jmp a => { pops := [a] }
  | .calli d a => { pops := [a], push := some d }
  | .loop a _ => { pops := [a], extra := [a.toNat] }
  | .sysc _ => {}
  | .add d a b => { pops := [a, b], push := some d }
  | .sub d a b => { pops := [a, b], push := some d }
  | .mul d a b => { pops := [a, b], push := some d }
  | .mulh d a b => { pops := [a, b], push := some d }
  | .mulhn d a b => { pops := [a, b], push := some d }
  | .div d a b _ => { pops := [a, b], push := some d }
  | .divn d a b _ => { pops := [a, b], push := some d }
  | .rem d a b _ => { pops := [a, b], push := some d }
  | .remn d a b _ => { pops := [a, b], push := some d }
  | .and_ d a b => { pops := [a, b], push := some d }
  | .or_ d a b => { pops := [a, b], push := some d }
  | .xor_ d a b => { pops := [a, b], push := some d }
  | .andn d a b => { pops := [a, b], push := some d }
  | .orn d a b => { pops := [a, b], push := some d }
  | .shl d a b => { pops := [a, b], push := some d }
  | .shr d a b => { pops := [a, b], push := some d }
  | .sra d a b => { pops := [a, b], push := some d }
  | .rol d a b => { pops := [a, b], push := some d }
  | .min d a b => { pops := [a, b], push := some d }
  | .max d a b => { pops := [a, b], push := some d }
  | .minn d a b => { pops := [a, b], push := some d }
  | .maxn d a b => { pops := [a, b], push := some d }
  | .adds d a b _ => { pops := [a, b], push := some d }
  | .subs d a b _ => { pops := [a, b], push := some d }
  | .abs d a => { pops := [a], push := some d }
  | .neg d a => { pops := [a], push := some d }
  | .clz d a => { pops := [a], push := some d }
  | .ctz d a => { pops := [a], push := some d }
  | .popc d a => { pops := [a], push := some d }
  | .bswap d a => { pops := [a], push := some d }
  | .sext d a _ => { pops := [a], push := some d }
  | .zext d a _ => { pops := [a], push := some d }
  | .bfx d a _ _ => { pops := [a], push := some d }
  | .bfi d a _ _ => { pops := [a], push := some d }
  | .mov d a => { pops := [a], push := some d }
  | .sel d a b _ _ => { pops := [a, b], push := some d }
  | .cmp _ a b _ => { pops := [a, b], extra := [64] }
  | .addi d a _ => { pops := [a], push := some d }
  | .li d _ => { push := some d }
  | .lih d _ => { push := some d }
  | .shli d a _ => { pops := [a], push := some d }
  | .shri d a _ => { pops := [a], push := some d }
  | .srai d a _ => { pops := [a], push := some d }
  | .cmpi _ a _ _ => { pops := [a], extra := [64] }
  | .lea d a b _ _ => { pops := [a, b], push := some d }
  | .ptrCvtIn d a _ => { pops := [a], push := some d }
  | .ptrCvtOut d a _ => { pops := [a], push := some d }
  | .ptrIn _ a _ => { pops := [a], extra := [64] }
  | .pand _ _ _ _ => { extra := [64] }
  | .por _ _ _ _ => { extra := [64] }
  | .pxor _ _ _ _ => { extra := [64] }
  | .pnot _ _ => { extra := [64] }
  | .pmov _ _ => { extra := [64] }
  | .pset _ _ => { extra := [64] }
  | .psetAll a => { pops := [a], extra := [64] }
  | .pget d => { push := some d }
  | .ctlGet d _ => { push := some d }
  | .ctlSet a idx => { pops := [a], ctlIdx := some idx }
  | .ctlSwap d a idx => { pops := [a], push := some d, ctlIdx := some idx }
  | .fence _ => {}
  | .fenceAcq _ => {}
  | .fenceRel _ => {}
  | .repartHalf => { priv := true }
  | .repartDbl => { priv := true }
  | .gateUp => {}
  | .gateDown => {}
  | .gateFreeUp => {}
  | .gateFreeDown => {}
  | .capGet _ _ => { extra := [64] }
  | .tlbInvPage a => { pops := [a], priv := true }
  | .tlbInvCtx a => { pops := [a], priv := true }
  | .tlbInvAll => { priv := true }
  | .ctabLoad a _ _ => { pops := [a], tables := true }
  | .ld d a _ _ _ _ => { pops := [a], push := some d }
  | .st d a _ _ _ => { pops := [a, d] }
  | .ldv vd a _ _ _ _ => { pops := [a], vregs := [vd], features := [1], heavy := true }
  | .stv vd a _ _ _ _ => { pops := [a], vregs := [vd], features := [1], heavy := true, vdst := false }
  | .gath vd a vb _ _ _ _ _ => { pops := [a], vregs := [vd, vb], features := [1], heavy := true }
  | .scat vd a vb _ _ _ _ _ => { pops := [a], vregs := [vd, vb], features := [1], heavy := true, vdst := false }
  | .lr d a _ _ _ => { pops := [a], push := some d }
  | .sc d a _ _ _ _ => { pops := [a, d], extra := [64] }
  | .amo d a b _ _ _ _ => { pops := [a, b], push := some d }
  | .vamo vd a vb vc _ _ _ _ _ => { pops := [a], vregs := [vd, vb, vc], features := [1], heavy := true }
  | .wrs a => { pops := [a] }
  | .walk a => { pops := [a], features := [9] }
  | .walkHome => { features := [9] }
  | .qmap _ _ => { heavy := true }
  | .qfree d n => { push := some d, heavy := true, qnum := some n }
  | .qlen d n => { push := some d, heavy := true, qnum := some n }
  | .qpeek d n => { push := some d, heavy := true, qnum := some n }
  | .qtry d n _ => { push := some d, heavy := true, qnum := some n, extra := [64] }
  | .qput n a _ => { pops := [a], heavy := true, qnum := some n, extra := [64, 24 + n.toNat] }
  | .qclose n => { heavy := true, qnum := some n }
  | .barInit a _ => { pops := [a] }
  | .barJoin _ => {}
  | .barArr _ => {}
  | .barDrop _ => {}
  | .barLeave _ => {}
  | .barExp a _ => { pops := [a] }
  | .barWait _ => {}
  | .barTry _ _ => { extra := [64] }
  | .barBits d _ => { push := some d }
  | .ltGet d _ => { push := some d }
  | .ltEnter => {}
  | .ltLeave => {}
  | .ltStep => {}
  | .spawn d a _ => { pops := [a], push := some d }
  | .spawnLight d a _ => { pops := [a], push := some d, features := [9] }
  | .ordSpawn d a _ => { pops := [a], push := some d, features := [8] }
  | .ordSpawnLight d a _ => { pops := [a], push := some d, features := [8, 9] }
  | .launch _ a _ => { pops := [a], extra := [64] }
  | .tcapHold a _ => { pops := [a] }
  | .tcapFree a _ => { pops := [a] }
  | .plumbWait a _ => { pops := [a] }
  | .plumbGet d _ => { push := some d }
  | .ringMatch a _ _ => { pops := [a], features := [7] }
  | .ringPut a b _ _ _ => { pops := [a, b], features := [7] }
  | .ringTake d a _ _ _ => { pops := [a], push := some d, features := [7] }
  | .ringSt d _ => { push := some d, features := [7] }
  | .ringDrain _ => { features := [7] }
  | .ringCfg a _ _ => { pops := [a], features := [7], priv := true }
  | .xfer a => { pops := [a] }
  | .xferTry a _ => { pops := [a], extra := [64] }
  | .xferWp d a => { pops := [a], push := some d }
  | .xferSt d a => { pops := [a], push := some d }
  | .collPut a _ _ => { pops := [a], features := [10] }
  | .collGet d _ _ => { push := some d, features := [10] }
  | .collAgree d a _ _ => { pops := [a], push := some d, features := [10] }
  | .mma acc src k _ _ _ e => { pops := [k], stream := if 24 ≤ src.toNat then some src else none, energy := e, features := [2], heavy := true, acc := some acc }
  | .mzero acc _ e => { energy := e, features := [2], heavy := true, acc := some acc }
  | .mrd acc src k vec _ _ _ _ _ e => { pops := [k], stream := if 24 ≤ src.toNat then some src else none, energy := e, features := [2], heavy := true, acc := some acc, extra := [if src = 0 then 128 + vec.toNat else src.toNat] }
  | .mwr acc src k _ _ _ _ _ _ e => { pops := [k], stream := if 24 ≤ src.toNat then some src else none, energy := e, features := [2], heavy := true, acc := some acc }
  | .msave acc a _ => { pops := [a], features := [2], heavy := true, acc := some acc }
  | .mrest acc a _ => { pops := [a], features := [2], heavy := true, acc := some acc }
  | .bld a len _ _ _ _ e => { pops := [a, len], energy := e, features := [2], heavy := true }
  | .bsel a acc => { pops := [a], features := [2], heavy := true, acc := some acc }
  | .mcfgSrc a => { pops := [a], features := [2], heavy := true }
  | .mcfgStride a => { pops := [a], features := [2], heavy := true }
  | .mcfgGo a => { pops := [a], features := [2], heavy := true }
  | .mcfgStop => { features := [2], heavy := true }
  | .mxp _ _ e => { energy := e, features := [2, 13], heavy := true, tables := true }
  | .mxpTab a _ => { pops := [a], features := [2, 13], heavy := true, tables := true }
  | .mwait acc => { features := [2], heavy := true, acc := some acc }
  | .vadd vd va vb _ _ e => { vregs := [vd, va, vb], energy := e, features := [1], heavy := true }
  | .vsub vd va vb _ _ e => { vregs := [vd, va, vb], energy := e, features := [1], heavy := true }
  | .vmul vd va vb _ _ e => { vregs := [vd, va, vb], energy := e, features := [1], heavy := true }
  | .vfma vd va vb vc _ _ e => { vregs := [vd, va, vb, vc], energy := e, features := [1], heavy := true }
  | .vfms vd va vb vc _ _ e => { vregs := [vd, va, vb, vc], energy := e, features := [1], heavy := true }
  | .vmin vd va vb _ _ e => { vregs := [vd, va, vb], energy := e, features := [1], heavy := true }
  | .vmax vd va vb _ _ e => { vregs := [vd, va, vb], energy := e, features := [1], heavy := true }
  | .vadds vd va vb _ _ e => { vregs := [vd, va, vb], energy := e, features := [1], heavy := true }
  | .vsubs vd va vb _ _ e => { vregs := [vd, va, vb], energy := e, features := [1], heavy := true }
  | .vmulh vd va vb _ _ e => { vregs := [vd, va, vb], energy := e, features := [1], heavy := true }
  | .vabs vd va _ _ e => { vregs := [vd, va], energy := e, features := [1], heavy := true }
  | .vneg vd va _ _ e => { vregs := [vd, va], energy := e, features := [1], heavy := true }
  | .vdot vd va vb vc _ _ _ e => { vregs := [vd, va, vb, vc], energy := e, features := [1], heavy := true }
  | .vand vd va vb _ e => { vregs := [vd, va, vb], energy := e, features := [1], heavy := true }
  | .vor vd va vb _ e => { vregs := [vd, va, vb], energy := e, features := [1], heavy := true }
  | .vxor vd va vb _ e => { vregs := [vd, va, vb], energy := e, features := [1], heavy := true }
  | .vnot vd va _ e => { vregs := [vd, va], energy := e, features := [1], heavy := true }
  | .vshl vd va vb _ _ e => { vregs := [vd, va, vb], energy := e, features := [1], heavy := true }
  | .vshr vd va vb _ _ e => { vregs := [vd, va, vb], energy := e, features := [1], heavy := true }
  | .vsra vd va vb _ _ e => { vregs := [vd, va, vb], energy := e, features := [1], heavy := true }
  | .vcmp kd va vb _ _ _ e => { vregs := [va, vb], energy := e, features := [1], heavy := true, vdst := false, extra := [256 + kd.toNat] }
  | .vsel vd va vb _ e => { vregs := [vd, va, vb], energy := e, features := [1], heavy := true }
  | .vcvt vd va _ _ _ e => { vregs := [vd, va], energy := e, features := [1], heavy := true }
  | .vpack vd va vb _ _ _ e => { vregs := [vd, va, vb], energy := e, features := [1], heavy := true }
  | .vunpk vd va _ _ _ _ e => { vregs := [vd, va], energy := e, features := [1], heavy := true }
  | .vscl vd va vb _ _ e => { vregs := [vd, va, vb], energy := e, features := [1], heavy := true }
  | .vrcp vd va _ _ _ e => { vregs := [vd, va], energy := e, features := [1], heavy := true, tables := true }
  | .vrsq vd va _ _ _ e => { vregs := [vd, va], energy := e, features := [1], heavy := true, tables := true }
  | .vsqrt vd va _ _ _ e => { vregs := [vd, va], energy := e, features := [1], heavy := true, tables := true }
  | .vexp2 vd va _ _ _ e => { vregs := [vd, va], energy := e, features := [1], heavy := true, tables := true }
  | .vlog2 vd va _ _ _ e => { vregs := [vd, va], energy := e, features := [1], heavy := true, tables := true }
  | .vsin vd va _ _ _ e => { vregs := [vd, va], energy := e, features := [1], heavy := true, tables := true }
  | .vcos vd va _ _ _ e => { vregs := [vd, va], energy := e, features := [1], heavy := true, tables := true }
  | .vtanh vd va _ _ _ e => { vregs := [vd, va], energy := e, features := [1], heavy := true, tables := true }
  | .vred vd va _ _ _ e => { vregs := [vd, va], energy := e, features := [1], heavy := true }
  | .vscan vd va _ _ _ e => { vregs := [vd, va], energy := e, features := [1], heavy := true }
  | .vperm vd va vb vc _ _ e => { vregs := [vd, va, vb, vc], energy := e, features := [1], heavy := true }
  | .vshuf vd va _ _ _ e => { vregs := [vd, va], energy := e, features := [1], heavy := true }
  | .vbc vd a _ _ e => { pops := [a], vregs := [vd], energy := e, features := [1], heavy := true }
  | .vext d va _ _ => { push := some d, vregs := [va], features := [1], heavy := true, vdst := false }
  | .vins vd a _ _ => { pops := [a], vregs := [vd], features := [1], heavy := true }
  | .vqrecv vd n _ e => { pops := [(3#2 ++ n)], vregs := [vd], energy := e, features := [1], heavy := true }
  | .vqsend n va => { push := some (3#2 ++ n), vregs := [va], features := [1], heavy := true, vdst := false }
  | .vmov vd va _ e => { vregs := [vd, va], energy := e, features := [1], heavy := true }
  | .vzero vd _ e => { vregs := [vd], energy := e, features := [1], heavy := true }
  | .vclass vd va _ _ e => { vregs := [vd, va], energy := e, features := [1], heavy := true }
  | .kand d _ _ => { features := [1], heavy := true, extra := [256 + d.toNat] }
  | .kor d _ _ => { features := [1], heavy := true, extra := [256 + d.toNat] }
  | .kxor d _ _ => { features := [1], heavy := true, extra := [256 + d.toNat] }
  | .knot d _ => { features := [1], heavy := true, extra := [256 + d.toNat] }
  | .kmov d _ => { features := [1], heavy := true, extra := [256 + d.toNat] }
  | .kpop d _ => { push := some d, features := [1], heavy := true }
  | .vshli vd va _ _ _ e => { vregs := [vd, va], energy := e, features := [1], heavy := true }
  | .vshri vd va _ _ _ e => { vregs := [vd, va], energy := e, features := [1], heavy := true }
  | .vsrai vd va _ _ _ e => { vregs := [vd, va], energy := e, features := [1], heavy := true }
  | .rvmul vd va b _ _ e => { pops := [b], vregs := [vd, va], energy := e, features := [6], heavy := true }
  | .unmul vd va b _ _ e => { pops := [b], vregs := [vd, va], energy := e, features := [6], heavy := true }
  | .rvcvt vd va _ _ _ e => { vregs := [vd, va], energy := e, features := [6], heavy := true }
  | .uncvt vd va _ _ _ e => { vregs := [vd, va], energy := e, features := [6], heavy := true }
  | .rvsra vd va _ _ _ e => { vregs := [vd, va], energy := e, features := [6], heavy := true }
  | .unsra vd va _ _ _ e => { vregs := [vd, va], energy := e, features := [6], heavy := true }
  | .rvscl vd va vb _ _ e => { vregs := [vd, va, vb], energy := e, features := [6], heavy := true }
  | .unscl vd va vb _ _ e => { vregs := [vd, va, vb], energy := e, features := [6], heavy := true }
  | .rvact vd va _ _ _ e => { vregs := [vd, va], energy := e, features := [6], heavy := true }
  | .unact vd va _ _ _ e => { vregs := [vd, va], energy := e, features := [6], heavy := true }
  | .skimMark _ => { features := [6], heavy := true }
  | .skimCut _ => { features := [6], heavy := true }
  | .skimDep d => { push := some d, features := [6], heavy := true }
  | .skimArea a b => { pops := [a, b], features := [6], heavy := true }
  | .skimChk _ _ => { features := [6], heavy := true, extra := [64] }
  | .powerOnReset => {}
  | .screedBoot => {}
  | .layerJoin => {}
  | .bstoreCalibrationDone => {}
  | .fullServiceBegin => {}
  | .tableOwnerExchange => {}
  | .walkContextArrival => {}
  | .arrivalPlacement => {}
  | .remoteAccessRequest => {}
  | .proxiedAccessRequest => {}
  | .accessResponse => {}
  | .amoQueueHead => {}
  | .amoUnitCompute => {}
  | .amoWriteHalf => {}
  | .scQueueHead => {}
  | .orderedTaskCommit => {}
  | .fifoEntryArrival => {}
  | .fifoPopReport => {}
  | .networkQueueArrival => {}
  | .gradientEntryArrival => {}
  | .gradientWindowUpdate => {}
  | .wideBarrierArrival => {}
  | .wideBarrierCompletion => {}
  | .quadGated => {}
  | .quadWakeComplete => {}
  | .homeRecordRequest => {}
  | .homeRecordAnswer => {}
  | .quadTableFlush => {}
  | .dieTableFlush => {}
  | .pointstampBatchArrival => {}
  | .frontierViewUpdate => {}
  | .ringStep => {}
  | .copyQueueRequest => {}
  | .copyChannelStart => {}
  | .copyDelivery => {}
  | .copyResume => {}
  | .treeRecordApply => {}
  | .copyCompletion => {}
  | .xferDone => {}
  | .podDeliveryAck => {}
  | .collRoundInput => {}
  | .collResultReturn => {}
  | .feederPush => {}
  | .mxpExchangeStart => {}
  | .mxpAbandon => {}
  | .matrixOpComplete => {}
  | .flagTrap => {}
  | .skimBackgroundSpill => {}
  | .skimBackgroundRefill => {}
  | .longResultWritten => {}
  | .wqWindowWrite => {}
  | .deviceOverflowRefill => {}
  | .launchArbitration => {}
  | .launchNumberTaken => {}
  | .taskToDieDispatcher => {}
  | .taskToCorePool => {}
  | .taskPlacedInSlot => {}
  | .parkedThreadSwapOut => {}
  | .parkedWaitSatisfied => {}
  | .watchdog => {}
  | .ebudgetRefill => {}
  | .launchEnd => {}
  | .completionRecordWrite => {}
  | .launchRetire => {}
  | .launchAbort => {}
  | .preemptContext => {}
  | .evictContext => {}
  | .restoreContext => {}
  | .handlerFaultDelivery => {}
  | .faultReplay => {}
  | .faultRefused => {}
  | .hostConfigAccess => {}
  | .bar4MemoryAccess => {}
  | .hostRequestForward => {}
  | .portcfgModeWrite => {}
  | .portFullRetrain => {}
  | .topoverNextWrite => {}
  | .topologySwap => {}
  | .podtimeWrite => {}
  | .bar4CountClear => {}
  | .doneHeadWrite => {}
  | .stalecntClear => {}
  | .thermstatTripClear => {}
  | .grantTableWrite => {}
  | .controlWindowWrite => {}
  | .podMessageForward => {}
  | .flitReceive => {}
  | .fecGroupReceive => {}
  | .fecRetry => {}
  | .chainTableInstall => {}
  | .chainSlotStart => {}
  | .chainDataWindow => {}
  | .linkBeatReplay => {}
  | .bondIdleTest => {}
  | .bondGroupFailure => {}
  | .wavelengthRetrainStart => {}
  | .wavelengthHandback => {}
  | .sliceScrub => {}
  | .bstoreScrub => {}
  | .hbmScrub => {}
  | .channelCopyStart => {}
  | .channelCopyComplete => {}
  | .checkpointStart => {}
  | .restoreStart => {}
  | .checkpointComplete => {}
  | .thermalThrottle => {}
  | .thermalTrip => {}
  | .regionCountHalving => {}
  | .remapreqGo => {}
  | .remapSwapRun => {}
  | .attestNonceWrite => {}
  | .attestReportReady => {}
  | .firmwareUpdateWrite => {}
  | .linkReturnsToService => {}

/-! ## Queues as the issuing head sees them -/

/-- A queue of the issuing core as an instruction's checks see it (R62). -/
def State.srcQueue (s : State) (key : Nat) : Queue := FMap.get {} s.srcCore.queues key
/-- The pushes that the issuing head can make: the slots free before its bundle, less those that the other head takes (R62). -/
def State.srcFree (s : State) (id : Nat) : Nat := qRoom s.cur.core id (s.srcQueue (qSend id)) - s.cur.pushed.count id
/-- The pushes that an instruction sees it could make, as they stood before its bundle (R62, R322). -/
def State.srcRoom (s : State) (id : Nat) : Nat := qRoom s.cur.core id (s.srcQueue (qSend id))

/-- The queue id that QMAP binds to qN (R53). -/
def State.qid (s : State) (n : Nat) : Nat := (s.src.ctl.qmap.extractLsb' (8 * n) 8).toNat

/-- Entries that the issuing head can pop: none that the other head of its bundle pushes (R62). -/
def State.srcItems (s : State) (id : Nat) : Nat := (s.qItems s.cur.core id).length - s.cur.landed.count id
/-- The entries at an end as an instruction that pops nothing sees them (R62). -/
def State.srcHead (s : State) (id : Nat) : List Line :=
  if qPort id then pairItems (match s.cur.view with
    | some v => v.pair
    | none => s.myPair s.cur.core) id
  else (s.srcQueue id).items
/-- Nothing more will come to an end, as the issuing head sees it (R62). -/
def State.srcEnded (s : State) (id : Nat) : Bool := qPort id || ((s.srcQueue id).closed && !s.qComing s.cur.core id)

/-- The entry i of a queue brought to its head. -/
def Queue.forward (q : Queue) (i : Nat) : Queue := { q with
  items := q.items.getD i 0 :: q.items.eraseIdx i
  marks := q.marks.getD i 0 :: q.marks.eraseIdx i
  srcs := match q.srcs[i]? with
    | some t => t :: q.srcs.eraseIdx i
    | none => q.srcs }

/-- Whether the queues an instruction pops hold enough: each id must be one that the core's threads pop; an empty closed
queue faults and an empty open one stalls (R42, R318, R324); a poisoned entry among those it pops is consumed and faults (R470). -/
def State.popCheck (s : State) (ids : List Nat) : Except Stop Unit :=
  ids.forM fun id =>
    let c := s.cur.core
    if !(qExists c s.cur.slot s.here.mode id && qCanPop c id) then .error (bad .illegalOp)
    else if ids.count id ≤ s.srcItems id then
      match (List.range (ids.count id)).find? fun i => (s.queue c id).marks.getD i 0 != 0 with
      | none => .ok ()
      | some i => .error (.part ((s.modQueue c id fun q => q.forward i).popQ c id).2 { cause := .memError })
    else if s.srcEnded id then .error (bad .queueClosed)
    else .error .stall

/-- Whether the queue an instruction pushes takes an entry (R42, R318, R324, R334). -/
def State.pushCheck (s : State) (id : Nat) : Except Stop Unit :=
  let c := s.cur.core
  if !(qExists c s.cur.slot s.here.mode id && qCanPush c id) then .error (bad .illegalOp)
  else if (s.srcQueue id).closed || s.targetGated c id then .error (bad .queueClosed)
  else if s.srcFree id = 0 then .error .stall
  else .ok ()

/-! ## Reading and writing register operands -/

/-- The queue number of a specifier that names a queue register. -/
def qNum (r : GSpec) : Nat := r.toNat - 24

/-- Pop a queue as the issuing instruction: a replayed one has its entries already (R42, R434). -/
def State.popIssue (s : State) (id : Nat) : Line × State :=
  match s.thr.taken.find? fun e => e.1 == id with
  | some e => (e.2, s.setThr { s.thr with taken := s.thr.taken.erase e })
  | none => s.popQ s.cur.core id

/-- Read a general register or pop a queue register (R41, R42). -/
def State.rd (s : State) (r : GSpec) : Word × State :=
  if isG r then (s.src.gr r.toNat, s) else
  let (v, s) := s.popIssue (s.qid (qNum r))
  (v.setWidth 64, s)

/-- Write a general register or push a queue register. -/
def State.wr (s : State) (r : GSpec) (v : Word) : State :=
  if isG r then s.setG r.toNat v else s.issuePush (s.qid (qNum r)) (v.setWidth 512)

/-- Read a general register that no queue register may stand for. -/
def State.rg (s : State) (r : GSpec) : Word := s.src.gr r.toNat
/-- A predicate as an operand. -/
def State.rp (s : State) (p : PReg) : Bool := s.src.pr p.toNat
/-- Write a predicate. -/
def State.wp (s : State) (p : PReg) (v : Bool) : State := s.setP p.toNat v
/-- A lane mask as an operand. -/
def State.rk (s : State) (k : KReg) : Word := s.src.kr k.toNat
/-- Write a lane mask. -/
def State.wk (s : State) (k : KReg) (v : Word) : State := s.setK k.toNat v
/-- A vector register as an operand. -/
def State.rv (s : State) (v : VSpec) : Line := s.vreg v.toNat
/-- Write a vector register. -/
def State.wv (s : State) (v : VSpec) (x : Line) : State := s.setV v.toNat x

/-- Park the issuing thread on a wait (R61); it goes on at the next PC. -/
def State.park (s : State) (w : Wait) : State := s.setThr { s.thr with st := .parked w s.cycle }

/-! ## Long results -/

/-- Open a window (R64): earlier windows give up its destinations, since the later result is the one that stays (R65). -/
def State.openWindow (s : State) (left : Nat) (dests : List Dest) (need : Nat) (writes : List RegWrite)
    (acq : Bool := false) (tab : Option TabUse := none) : Nat × State :=
  let t := s.thr
  let ws := dests.foldl (fun ws d => dropDest d ws) t.windows
  let w : Window := {
    wid := t.nextWid, left := left, dests := dests, need := need, writes := writes, acq := acq, tab := tab
    pc := s.src.pc, second := s.cur.place == .second, depth := s.cur.depth }
  (t.nextWid, s.setThr { t with windows := ws ++ [w], nextWid := t.nextWid + 1 })

/-- The push slot that the issuing thread's next window fills is reserved (R42), unless its first issue reserved it (R434). -/
def State.reserveSlot (s : State) (id : Nat) : State :=
  let r : Reserved := ⟨s.thr.ctl.taskh, s.thr.nextWid, none, 0⟩
  s.modQueue s.cur.core (qSend id) fun q => if q.resv.contains r then q else { q with resv := q.resv ++ [r] }

/-- The destination of a long result in a general or queue register; a push slot is reserved at issue (R42). -/
def State.longDest (s : State) (r : GSpec) : List Dest × State :=
  if isG r then ([.g r.toNat], s)
  else
    let id := s.qid (qNum r)
    ([], { s.reserveSlot id with cur := { s.cur with pushed := id :: s.cur.pushed } })

/-- The write that a long result makes. -/
def State.longWrite (s : State) (r : GSpec) (v : Word) : RegWrite :=
  if isG r then .g r.toNat v else .q (s.qid (qNum r)) (v.setWidth 512)

/-- A long result known at issue: its window opens, and the value is written when it arrives. -/
def State.longG (s : State) (r : GSpec) (l : Nat) (v : Word) : State :=
  let (ds, s) := s.longDest r
  (s.openWindow l ds 0 [s.longWrite r v]).2

/-- A cached translation that an invalidation removes (R171). -/
def TlbEntry.hit (e : TlbEntry) (ctx va : Option Nat) : Bool :=
  (match ctx with
  | some c => e.ctx == c
  | none => true) &&
  match va with
  | some a => e.va == a / 2 ^ e.bits * 2 ^ e.bits
  | none => true

/-- A cached table entry that an invalidation removes. -/
def WalkEntry.hit (e : WalkEntry) (ctx va : Option Nat) : Bool :=
  (match ctx with
  | some c => e.ctx == c
  | none => true) &&
  match va with
  | some a => match e.lvl with
    | 2 => e.va == a / 2 ^ 39
    | 3 => e.va == a / 2 ^ 30
    | _ => e.va == a / 2 ^ 21
  | none => true

/-- Remove translations from every cache of the package (R171, R439). -/
def State.tlbDrop (s : State) (ctx va : Option Nat) : State :=
  { s with
    cores := s.cores.map fun p => (p.1, { p.2 with tlb := p.2.tlb.filter fun e => !e.hit ctx va })
    quads := s.quads.map fun p => (p.1, { p.2 with tlb := p.2.tlb.filter fun e => !e.hit ctx va })
    l2walk := s.l2walk.map fun p => (p.1, p.2.filter fun e => !e.hit ctx va) }

/-- One write of a long result, to a destination that no later instruction has taken (R65). -/
def State.landWrite (s : State) (core slot wid : Nat) (ds : List Dest) (w : RegWrite) : State :=
  let t := s.thrAt core slot
  match w with
  | .g r v => if ds.contains (.g r) then s.setThrAt core slot { t with g := t.g.set r v } else s
  | .p r v => if ds.contains (.p r) then s.setThrAt core slot (t.setP r v) else s
  | .v r mask v =>
    if ds.contains (.v r) then
      s.modCore core fun k =>
        let row := rowOf k.mode slot r
        let old := FMap.get 0 k.rows row
        let m : Line := (List.range 64).foldl (fun a n =>
          if mask.getLsbD n then a ||| ((0xFF : Line) <<< (8 * n)) else a) 0
        { k with rows := k.rows.set row ((old &&& ~~~m) ||| (v &&& m)) }
    else s
  | .q id v => s.fillResv core slot id t.ctl.taskh wid (some v)
  | .inv ctx va => s.tlbDrop ctx va
  | .ctab key ws => s.modCore core fun k => { k with ctabs := k.ctabs.set key ws }

/-- Set flags in a thread's STATUS outside its own issue; a trap it asks for is held to the next boundary (R51). `by_` is what is known of
the instruction that sets them: its PC, whether it is a second head, the skim depth before it (R429). -/
def State.orStatus (s : State) (core slot : Nat) (f : BitVec 5) (by_ : Option (Word × Bool × Nat) := none) : State :=
  let t := s.thrAt core slot
  let (st, trap) := applyFlags t.ctl.status f
  let b := by_.getD (t.pc, false, (s.skim t.ctx core slot).depth)
  let new := trap && t.heldFlagPc.isNone
  s.setThrAt core slot { t with
    ctl := { t.ctl with status := st }, heldFlag := t.heldFlag || trap
    heldFlagPc := if trap then t.heldFlagPc.or (some b.1) else t.heldFlagPc
    heldFlagSecond := if new then b.2.1 else t.heldFlagSecond && t.heldFlagPc.isSome
    heldFlagDepth := if new then b.2.2 else t.heldFlagDepth }

/-- An instruction in flight on the core, of any slot, uses a coefficient table in a way (R173). -/
def Core.tabInUse (k : Core) (u : TabUse) : Bool := k.slots.any fun p => p.2.windows.any fun w => w.tab == some u

/-- The result of a window can be written: its responses are in, and of a table load, every function that reads the old table has
completed (R173). -/
def Core.mayClose (k : Core) (w : Window) : Bool :=
  w.need == 0 && match w.tab with
    | some (.loads n) => !k.tabInUse (.reads n)
    | some (.reads _) | none => true

/-- Write a long result that has arrived, and close its window. -/
def State.closeWindow (s : State) (core slot wid : Nat) : State :=
  let t := s.thrAt core slot
  match t.windows.find? (fun w => w.wid == wid) with
  | none => s
  | some w =>
    if !(s.core core).mayClose w then s else
    let s := w.writes.foldl (fun s x => s.landWrite core slot wid w.dests x) s
    let s := s.orStatus core slot w.flags (some (w.pc, w.second, w.depth))
    let t := s.thrAt core slot
    s.setThrAt core slot { t with windows := t.windows.filter fun w => w.wid != wid }

/-! ## The checks of R110 -/

/-- The debit of an energy class (R76). -/
def debit (e : Energy) : Nat :=
  match e.toNat with
  | 0 => 0
  | 1 => 1
  | 2 => 4
  | _ => 16

/-- EBUDGET of a slot (R231). -/
def Core.ebud (k : Core) (slot : Nat) : Word := FMap.get 0x0400_0040_0400 k.ebudget slot

/-- The slot has the units for a debit (R232). -/
def State.affords (s : State) (e : Energy) : Bool :=
  decide (debit e ≤ ((s.here.ebud s.cur.slot).extractLsb' 0 16).toNat)

/-- Debit EBUDGET. -/
def State.pay (s : State) (e : Energy) : State :=
  if debit e = 0 then s else
  s.modHere fun k => { k with ebudget := k.ebudget.set s.cur.slot (k.ebud s.cur.slot - word (debit e)) }

/-- A control register that a light thread may write: in its walking context, or marked as read (R39, R49). -/
def ctlLight (idx : Nat) : Bool := idx == 0x000 || idx == 0x032 || idx == 0x802

/-- A capability bit (R91). -/
def State.cap (s : State) (n : Nat) : Bool := s.capLo.getLsbD n

/-- Checks 1 and 2 of R110, made under any guard: the static limits, the context's vector registers, the feature bits. -/
def State.legal (s : State) (i : Instr) : Bool :=
  i.wf && ((useOf i).vregs.all fun v => decide (v.toNat < 128 / s.here.mode)) && (useOf i).features.all fun n => s.cap n

/-- The issuing thread runs in runtime mode (R55). -/
def State.runtime (s : State) : Bool := s.thr.rt

/-- Checks 3 to 6 of R110. -/
def State.allowed (s : State) (i : Instr) : Except Stop Unit :=
  let u := useOf i
  let qs := (u.pops ++ u.push.toList ++ u.stream.toList).filter fun r => !isG r
  let rt := match u.ctlIdx with
    | some idx => ctlAccess idx == some .rt
    | none => false
  if (u.priv || rt) && !s.runtime then .error (bad .priv)
  else if s.thr.light && (u.heavy || !qs.isEmpty || match u.ctlIdx with
      | some idx => !ctlLight idx.toNat
      | none => false) then .error (bad .lightVector)
  else if match u.acc with
      | some a => !(s.here.acfg.getLsbD (4 * a.toNat + 3) &&
          (s.here.acfg.extractLsb' (4 * a.toNat) 3).toNat == s.cur.slot)
      | none => false then .error (bad .matrixOwner)
  else if (qs.any fun r => s.qid (qNum r) == 0xFF) || match u.qnum with
      | some n => s.qid n.toNat == 0xFF
      | none => false then .error (bad .queueUnmapped)
  else .ok ()

/-- The queues that an instruction pops, in order. -/
def Use.popIds (u : Use) (s : State) : List Nat := (u.pops.filter fun r => !isG r).map fun r => s.qid (qNum r)

/-- A queue whose entries a parked access takes as it completes, and not as it parks: a ring port, which only its task pops, and the
channel end of a gradient stream, where each entry's sender is known. DESIGN CHOICE (log entry 125). -/
def popsLate (id : Nat) : Bool := qPort id || qGrad id

/-- An instruction goes on from its parked access, what its issue did to queues being done (R42, R434). A bundle whose head's access parked
has had no effect (R62), so its heads pop and push as it goes on (log entry 125). -/
def State.replaying (s : State) : Bool := s.thr.mid.isSome && s.cur.place == .single

/-- What the issue of an instruction has done when its access parks (R42, R434): its entries are popped and its push slot is reserved. -/
def State.issued (s : State) (i : Instr) : State :=
  if s.replaying then s else
  let s := (((useOf i).popIds s).filter fun id => !popsLate id).foldl (fun s id =>
    let (v, s) := s.popQ s.cur.core id
    s.setThr { s.thr with taken := s.thr.taken ++ [(id, v)] }) s
  match (useOf i).push.filter fun r => !isG r with
  | some r => s.reserveSlot (s.qid (qNum r))
  | none => s

/-- What stands before an instruction's own effect: the checks of R110, its queues, its energy. -/
def State.vetted (s : State) (i : Instr) : Except Stop State := do
  if s.legal i then pure () else .error (bad .illegalOp)
  s.allowed i
  let u := useOf i
  if s.thr.latch.isSome then pure ()
  else s.popCheck ((u.popIds s).filter fun id => !s.replaying || popsLate id)
  match u.push.filter (fun r => !isG r) with
  | some r => if s.replaying then pure () else s.pushCheck (s.qid (qNum r))
  | none => pure ()
  if s.affords u.energy then .ok (s.pay u.energy) else .error .stall

/-- A replayable fault of an instruction alone at its turn parks its access, and leaves what its issue has done to queues (R42, R434). -/
def State.parks (s : State) (i : Instr) (r : Res) : Res :=
  match r with
  | .error (.fault f) => if f.cause.replayable && s.cur.place == .single then .error (.gone ((s.issued i).takeFault f)) else r
  | .error (.part s' f) => if f.cause.replayable && s.cur.place == .single then
      .error (.gone ((s'.setThr { s'.thr with taken := (s.issued i).thr.taken }).takeFault f)) else r
  | .ok _ | .error .stall | .error (.gone _) | .error (.again _) => r

/-- The meaning of an instruction: what stands before it, then its own effect. -/
def run (i : Instr) (s : State) (body : State → Res) : Host.Outcome State Fault Refusal := finish s (s.parks i (s.vetted i >>= body))

end Sys2Proof.Machine
end

