-- ==== Sys2Proof/Machine/Routing.lean ====
section
/-!
DEFINITION. Ways through the package: the order of dimensions, the way round each ring, detours by the patch table, and the links on a
way (spec/01, R23, R24, R264, R497; R452, R472, R474, R475, R494, R495). A message that needs a link out of service is held. The rest of
its way is judged as it is delivered; where it stands is in the state from a swap of the tables or a failure of a link on (log entry 19).
-/

namespace Sys2Proof.Machine

/-- The dimensions in the order of a code (R88). -/
def dimOrder (code : Nat) : List Nat :=
  match code with
  | 0 => [0, 1, 2]
  | 1 => [0, 2, 1]
  | 2 => [1, 0, 2]
  | 3 => [1, 2, 0]
  | 4 => [2, 0, 1]
  | _ => [2, 1, 0]

/-- The way round a ring of 16 (R24): none at the place itself, else whether it is the + way. -/
def lateralWay (a b : Nat) : Option Bool :=
  let d := (b + 16 - a) % 16
  if d = 0 then none else some (decide (d ≤ 8))

/-- The way round a column (R24): a vertical hop costs 1 cycle and one by the return column 4, which is not used until layer 7 has
joined (R482). -/
def columnWay (return_ : Bool) (a b : Nat) : Option Bool :=
  let d := (b + 8 - a) % 8
  let up := d + if b < a then 3 else 0
  let down := 8 - d + if a < b then 3 else 0
  if d = 0 then none else some (if return_ then decide (up ≤ down) else decide (a < b))

/-- The output port that a message takes at a tile toward another (R24, R452): none when it has arrived. -/
def firstPort (return_ : Bool) (order t dst : Nat) : Option Nat :=
  (dimOrder order).findSome? fun dim =>
    let way := match dim with
      | 0 => lateralWay (tileX t) (tileX dst)
      | 1 => lateralWay (tileY t) (tileY dst)
      | _ => columnWay return_ (tileZ t) (tileZ dst)
    way.map fun plus => 2 * dim + if plus then 0 else 1

/-- An entry of the active patch table (R474). -/
def State.patch (s : State) (i : Nat) : Word := FMap.get 0 s.topo (0xE2000 + 8 * i)

/-- An entry of the patch table forbids a port at a tile (R474, R475). -/
def patchHits (w : Word) (t port : Nat) : Bool :=
  w.getLsbD 63 && bitsOf w 60 3 == port &&
  decide (bitsOf w 44 4 ≤ tileX t) && decide (tileX t ≤ bitsOf w 40 4) &&
  decide (bitsOf w 36 4 ≤ tileY t) && decide (tileY t ≤ bitsOf w 32 4) &&
  decide (bitsOf w 29 3 ≤ tileZ t) && decide (tileZ t ≤ bitsOf w 26 3)

/-- The sidestep port of the lowest entry that forbids a port at a tile (R475). -/
def State.sidestep (s : State) (t port : Nat) : Option Nat :=
  ((List.range 16).find? fun i => patchHits (s.patch i) t port).map fun i => bitsOf (s.patch i) 57 3

/-- One hop as it is made (R475): itself, or the three forced hops of a detour. -/
def State.hops (s : State) (t port : Nat) : List (Nat × Nat) :=
  match s.sidestep t port with
  | none => [(t, port)]
  | some side => [(t, side), (portTile t side, port), (portTile (portTile t side) port, side ^^^ 1)]

/-- The tile to which some hops lead. -/
def hopsEnd (t : Nat) (hs : List (Nat × Nat)) : Nat := match hs.getLast? with
  | some (u, p) => portTile u p
  | none => t

/-- The hops of a message from one tile to another (R24, R475), within some number of steps; none when they do not lead there. -/
def State.way (s : State) (order dst : Nat) : Nat → Nat → Option (List (Nat × Nat))
  | 0, _ => none
  | n + 1, t =>
    match firstPort (s.joined 7) order t dst with
    | none => some []
    | some p => (s.way order dst n (hopsEnd t (s.hops t p))).map fun rest => s.hops t p ++ rest

/-- The link of a hop: a vertical link is named by its lower tile, and that of z = 7 is its return column (R473); the lateral links
toward +x and +y of tile t are 8,192 + 2t and the next. -/
def linkOf (t port : Nat) : Nat :=
  match port with
  | 0 => 8192 + 2 * t
  | 1 => 8192 + 2 * portTile t 1
  | 2 => 8193 + 2 * t
  | 3 => 8193 + 2 * portTile t 3
  | 4 => t
  | _ => portTile t 5

/-- A link is in service. -/
def State.linkUp (s : State) (link : Nat) : Bool := !(FMap.get {} s.bonds link : Bond).out
/-- Hops that meet no link out of service (R472). -/
def State.hopsUp (s : State) (hs : List (Nat × Nat)) : Bool := hs.all fun h => s.linkUp (linkOf h.1 h.2)
/-- One hop by a port can be made now. -/
def State.portUp (s : State) (t port : Nat) : Bool := s.hopsUp (s.hops t port)
/-- A way between two tiles can be gone now. -/
def State.tilesUp (s : State) (order a b : Nat) : Bool := match s.way order b 32 a with
  | some hs => s.hopsUp hs
  | none => false

/-- The down link under a tile's column (R26, R497). -/
def downLink (t : Nat) : Nat := 4096 + t % 256
/-- A channel core's own down link is in service (R472); other blocks of the screed have none. -/
def State.reachable (s : State) (c : Nat) : Bool := decide (2560 ≤ c) || s.linkUp (4096 + (c - 2048) / 2)

/-- The two tiles between which a message travels in the torus (R264, R497): its ends, and for a block of the screed the layer-0 tile by
whose down link it passes: that of the other end's column, or, of a channel core's access of a slice and its response, the channel
core's own (`slice`). -/
def torusEnds (slice : Bool) (a b : Nat) : Option (Nat × Nat) :=
  let door (c other : Nat) : Nat := if slice && decide (c < 2560) then (c - 2048) / 2 else other % 256
  if isTile a then (if isTile b then some (a, b) else some (a, door b a))
  else if isTile b then some (door a b, b)
  else none

/-- The down links that a message between two agents passes are in service, and a channel core at an end is reachable (R472, R497); one
that has passed into the torus has its first down link behind it. -/
def State.doorUp (s : State) (a b x y : Nat) (inside : Bool := false) : Bool :=
  (isTile a || inside || (s.linkUp (downLink x) && s.reachable a)) && (isTile b || (s.linkUp (downLink y) && s.reachable b))

/-- Every link is in service and no detour is installed: then every way can be gone. -/
def State.calm (s : State) : Bool :=
  (s.bonds.all fun b => !b.2.out) && (List.range 16).all fun i => !(s.patch i).getLsbD 63

/-- A message can go from one agent to another now: tiles by the torus, between the screed and a tile by a down link, and within the
screed by its own network (R472, R497). -/
def State.pathUp (s : State) (order a b : Nat) (slice : Bool := false) : Bool :=
  s.calm || match torusEnds slice a b with
  | none => true
  | some (x, y) => s.doorUp a b x y && s.tilesUp order x y

/-- The hops that a message still has to make (R495): from where it stood when the tables last swapped or a link last failed, its
forced hops first, by the tables now active. -/
def State.restOfWay (s : State) (n order x y : Nat) : Option (List (Nat × Nat)) :=
  match FMap.find n s.places with
  | none => s.way order y 32 x
  | some (t, forced) => (s.way order y 32 (hopsEnd t forced)).map fun hs => forced ++ hs

/-- A message that has set out can arrive now (R472, R495). -/
def State.msgUp (s : State) (n order a b : Nat) (slice : Bool := false) : Bool :=
  s.calm || match torusEnds slice a b with
  | none => true
  | some (x, y) => s.doorUp a b x y (FMap.find n s.places).isSome && match s.restOfWay n order x y with
      | some hs => s.hopsUp hs
      | none => false

/-- An access of another tile's slice, which a channel core sends by its own layer-0 tile (R264). -/
def Access.slice (a : Access) : Bool := decide (sliceBase ≤ a.key) && decide (a.key < bstoreBase) && a.pod.isNone

/-- The tile at which the dispatcher of a layer stands: the spec leaves it open (log entry 126). -/
def dieCore (z : Nat) : Nat := z % 8 * 256 + Config.dieTile z % 256

/-- Where a table of counts stands (R344): a quad's at its first tile (log entry 126), a die's at its dispatcher, the screed's and the
package's in the screed. -/
def tableCore (n : Nat) : Nat :=
  if 16 ≤ n then quadTile (n - 16) 0 else if n < 8 then dieCore n else 2560

/-- Where a message goes: its order code and its ends, and whether it is an access of a slice (R24, R264, R452, R494, R497). An access of
another cube enters at the screed, and one for another cube leaves there. -/
def Msg.route : Msg → Option (Nat × Nat × Nat × Bool)
  | .access a => some (a.order, min a.core 2560, a.owner, a.slice)
  | .response a _ _ _ | .failed a _ => some (a.back, a.owner, min a.core 2560, a.slice)
  | .walk w => some (w.order, w.src, w.target, false)
  | .home core _ _ h _ _ _ _ order => some (order, core, h, false)
  | .homeAns core _ _ h _ order => some (order, h, core, false)
  | .batch src dst _ => some (0, tableCore src, tableCore dst, false)
  | .task _ | .coll _ _ _ _ _ | .collRes _ _ _ _ | .nack _ _ _ _ => none

/-- The class, the sender and the destination of a message whose arrival R454 orders. Requests of accesses arrive in their order and are
performed in that of their bank or line (R263, R280), and batches follow one another by R344. -/
def Msg.lane (m : Msg) : Option (Nat × Nat × Nat) :=
  let cls : Option Nat := match m with
    | .response _ _ _ _ | .failed _ _ => some 1
    | .walk _ => some 2
    | .home _ _ _ _ _ _ _ _ _ | .homeAns _ _ _ _ _ _ => some 3
    | .access _ | .batch _ _ _ | .task _ | .coll _ _ _ _ _ | .collRes _ _ _ _ | .nack _ _ _ _ => none
  match cls, m.route with
  | some n, some r => some (n, r.2.1, r.2.2.1)
  | _, _ => none

/-- No earlier message of its sender in its class is still on its way to its destination (R454). -/
def State.inTurn (s : State) (n : Nat) (m : Msg) : Bool :=
  m.lane.isNone || (s.net.takeWhile fun x => x.1 != n).all fun x => x.2.lane != m.lane

/-- A message can arrive now. -/
def State.mayArrive (s : State) (n : Nat) (m : Msg) : Bool :=
  s.inTurn n m && match m.route with
  | none => true
  | some (order, a, b, slice) => s.msgUp n order a b slice

/-- The groups of hops of a way, each one hop or the three of a detour (R475). -/
def State.wayGroups (s : State) (order dst : Nat) : Nat → Nat → List (List (Nat × Nat))
  | 0, _ => []
  | n + 1, t =>
    match firstPort (s.joined 7) order t dst with
    | none => []
    | some p => s.hops t p :: s.wayGroups order dst n (hopsEnd t (s.hops t p))

/-- Where a message stands after some hops of the groups that it still has to make: a tile, and what is left of a detour begun. -/
def standing : Nat → Nat → List (List (Nat × Nat)) → Nat × List (Nat × Nat)
  | _, t, [] => (t, [])
  | k, t, g :: gs =>
    if g.length ≤ k then standing (k - g.length) (hopsEnd t g) gs
    else (hopsEnd t (g.take k), if k = 0 then [] else g.drop k)

/-- Each message in the torus takes a place on its way (R495): as far as it may have come by free choice, and never past a link out of
service. What the choice leaves behind, the message still has to make by the tables that are active then. -/
def State.placeMsgs (s : State) : State :=
  s.net.foldl (fun s m =>
    match m.2.route with
    | none => s
    | some (order, a, b, slice) =>
      match torusEnds slice a b with
      | none => s
      | some (x, y) =>
        let old := FMap.find m.1 s.places
        let gs := match old with
          | none => s.wayGroups order y 32 x
          | some (t, forced) => (if forced = [] then [] else [forced]) ++ s.wayGroups order y 32 (hopsEnd t forced)
        let hs := gs.flatten
        let free := (hs.takeWhile fun h => s.linkUp (linkOf h.1 h.2)).length
        let (c, s) := s.nextFree
        let k := Config.choice c % (free + 1)
        let outside := old.isNone && !isTile a && (Config.choice c / 64 % 2 == 0 || !s.linkUp (downLink x))
        if outside then s else { s with places := s.places.set m.1 (standing k (match old with
          | none => x
          | some (t, _) => t) gs) }) s

/-- An owner can be reached from a core and answer it now (R264, R472, R497). -/
def State.reaches (s : State) (core owner : Nat) : Bool :=
  owner == core || (s.pathUp 0 core owner (isTile owner) && s.pathUp 0 owner core (isTile owner))

/-- The owner of a location (R262, R266, R267). -/
def State.ownerAt (s : State) (key : Nat) : Nat :=
  if key < sliceBase then 2048 + s.channelOf (key / 2 ^ 31)
  else if key < bstoreBase then (key - sliceBase) / 2 ^ 22
  else (key - bstoreBase) / 2 ^ 23

/-- The order code of a thread's messages of a class (R452, R494): its launch's, and code 0 for the runtime's default and for channel
cores. -/
def State.orderOf (s : State) (core launch cls : Nat) : Nat :=
  let v := (FMap.get {} s.launches launch : Launch).classOrder.getD cls 0xFF
  if isTile core && decide (v < 6) then v else 0

end Sys2Proof.Machine
end

