-- ==== Sys2Proof/Machine/Time.lean ====
section
/-!
DEFINITION. Logical time: edges and summaries, reach, counts, frontiers (R336 to R346), what a release waits for (R282, R284), and the
commit of ordered tasks (R290, R356).
-/

namespace Sys2Proof.Machine

/-! ## Times and edges -/

/-- A launch. -/
def State.launch (s : State) (n : Nat) : Launch := FMap.get {} s.launches n

/-- The word that is never a time (R336). -/
def noTime : Word := BitVec.allOnes 64

/-- Counter cn of a time (R336). -/
def counter (t : Word) (n : Nat) : Nat := t.toNat / 2 ^ (48 - 16 * n) % 2 ^ 16
/-- Counter cn plus 1; none on overflow. -/
def bump (t : Word) (n : Nat) : Option Word :=
  if counter t n = 0xFFFF then none else
  let r := t + word (2 ^ (48 - 16 * n))
  if r = noTime then none else some r
/-- Counter cn cleared. -/
def clear (t : Word) (n : Nat) : Word := t - word (counter t n * 2 ^ (48 - 16 * n))
/-- No counter beyond a depth is nonzero. -/
def fitsDepth (t : Word) (d : Nat) : Bool := (List.range 4).all fun n => n < d || counter t n == 0

/-- A summary applied to a time of depth d (R341). -/
def summary (d kind lvl : Nat) (t : Word) : Option Word :=
  match kind with
  | 0 => bump t lvl
  | 1 => if t = noTime then none else some t
  | _ => some (clear t (d - 1))

/-- The depth of a stage of a launch (R340). -/
def Launch.depth (l : Launch) (s : Nat) : Nat := l.stages.getD s 1

/-- The edges that leave a pair of stage and time, applied. -/
def Launch.next (l : Launch) (p : Nat × Word) : List (Nat × Word) :=
  l.edges.filterMap fun e =>
    if e.1 = p.1 then (summary (l.depth p.1) e.2.2.1 e.2.2.2 p.2).map fun t => (e.2.1, t) else none

/-- All pairs that paths of up to n edges reach. -/
def Launch.spread (l : Launch) : Nat → List (Nat × Word) → List (Nat × Word) → List (Nat × Word)
  | 0, seen, _ => seen
  | n + 1, seen, front =>
    match (front.flatMap l.next).dedup.filter fun p => !seen.contains p with
    | [] => seen
    | new => l.spread n (seen ++ new) new

/-- The least word of a list. -/
def leastWord : List Word → Option Word
  | [] => none
  | t :: ts =>
    match leastWord ts with
    | none => some t
    | some u => some (if t.ult u then t else u)

/-- Reach (R341). A cycle of edges only advances a time, so a least path need go round one only to clear a counter that would
overflow: at most once for each of the four counters. -/
def Launch.reach (l : Launch) (s1 : Nat) (t1 : Word) (s2 : Nat) : Option Word :=
  leastWord (((l.spread (4 * l.stages.length) [(s1, t1)] [(s1, t1)]).filter fun p => p.1 == s2).map Prod.snd)

/-! ## Counts and frontiers -/

/-- Add every delta of a list to a table (R344). -/
def addDeltas (ds table : List Delta) : List Delta := ds.foldl (fun t d => addDelta d t) table

/-- The deltas of the tables and batches of the package. -/
def State.allDeltas (s : State) : List Delta :=
  s.quads.flatMap (fun p => p.2.times) ++ s.dieTimes.flatMap Prod.snd ++ s.pkgTimes ++
  s.net.flatMap fun m => match m.2 with
    | .batch _ _ ds => ds
    | _ => []

/-- The outstanding pointstamps of a launch, wherever their deltas stand. -/
def State.stamps (s : State) (launch : Nat) : List Delta :=
  addDeltas (s.allDeltas.filter fun d => d.launch == launch) []

/-- The frontier that counts give (R343). -/
def Launch.frontier (l : Launch) (ds : List Delta) (stage : Nat) : Word :=
  (leastWord (ds.filterMap fun d => l.reach d.stage d.time stage)).getD noTime

/-- Every count of a launch that a quad has taken stands in the package table (R344, R345). -/
def State.countsIn (s : State) (core launch : Nat) : Bool :=
  let has (ds : List Delta) : Bool := ds.any fun d => d.launch == launch
  let z := if isTile core then tileZ core else 8
  !(isTile core && has (s.quad (quadOf core)).times) && !has (FMap.get [] s.dieTimes z) &&
  s.net.all fun m => match m.2 with
    | .batch src _ ds => !(src == 16 + quadOf core || src == z) || !has ds
    | _ => true

/-- F(s) as the package table gives it (R344). -/
def State.frontier (s : State) (launch stage : Nat) : Word :=
  (s.launch launch).frontier (s.pkgTimes.filter fun d => d.launch == launch) stage

/-- F(s) at the start of a launch, when its entry task is its one pointstamp. -/
def Launch.atStart (l : Launch) (stage : Nat) : Word := (l.reach l.first.1 l.first.2 stage).getD noTime

/-- A core's view of F(s) (R346): until a view has come, F(s) as it was at the launch's start. -/
def State.view (s : State) (core launch stage : Nat) : Word :=
  FMap.get ((s.launch launch).atStart stage) (s.core core).views (64 * launch + stage)

/-- A count change by the issuing thread: it stalls while its table has no room (R344). -/
def State.countStall (s : State) (stage : Nat) (time : Word) (n : Int) : Res :=
  let c := s.cur.core
  let l := s.thr.launch
  if s.countRoom c l stage time then .ok ((s.setThr { s.thr with counted := true }).count c l stage time n) else .error .stall

/-! ## Threads wherever they are -/

/-- The threads of the package: in slots, in pools, in transit and swapped out. -/
def State.threads (s : State) : List Thread :=
  s.cores.flatMap (fun p =>
    ((p.2.slots.map Prod.snd).filter fun t => t.st != .empty) ++
    (p.2.pool.filterMap fun e => match e with
      | .back _ _ t _ => some t
      | .new _ => none) ++
    p.2.arrival.map fun w => w.thr) ++
  (s.net.filterMap fun m => match m.2 with
    | .walk w => some w.thr
    | _ => none) ++
  s.away.map fun a => a.thr

/-- The threads that belong to a slot of a core: the one in it, those in the pool and those swapped out or saved (R235). -/
def State.slotThreads (s : State) (core slot : Nat) : List Thread :=
  (((s.core core).slots.filter fun p => p.1 == slot && p.2.st != .empty).map Prod.snd) ++
  ((s.core core).pool.filterMap fun e => match e with
    | .back sl _ t _ => if sl == slot then some t else none
    | .new _ => none) ++
  (s.away.filter fun a => a.core == core && a.slot == slot).map fun a => a.thr

/-- Change those of a slot's threads that meet a test. -/
def State.modSlotThreads (s : State) (core slot : Nat) (p : Thread → Bool) (f : Thread → Thread) : State :=
  let g (t : Thread) : Thread := if p t then f t else t
  let s := s.modCore core fun k => { k with
    slots := k.slots.map fun q => if q.1 == slot && q.2.st != .empty then (q.1, g q.2) else q
    pool := k.pool.map fun e => match e with
      | .back sl r t b => if sl == slot then .back sl r (g t) b else e
      | .new _ => e }
  { s with away := s.away.map fun a => if a.core == core && a.slot == slot then { a with thr := g a.thr } else a }

/-- The ordered tasks that wait in pools with their handles (R339, R406). -/
def State.pooledOrdered (s : State) : List Task :=
  s.cores.flatMap fun p => p.2.pool.filterMap fun e => match e with
    | .new t => if t.ordered then some t else none
    | .back _ _ _ _ => none

/-- The task is ordered and has not committed (R290). -/
def Thread.speculative (t : Thread) : Bool := ordered t.ctl && !committed t.ctl

/-- An ordered task is next to commit (R356). -/
def State.nextToCommit (s : State) (t : Thread) : Bool :=
  let l := s.launch t.launch
  let st := stageOf t.ctl
  let tm := t.ctl.ltime
  let ds := s.stamps t.launch
  (ds.all fun d => (d.stage == st && d.time == tm) || match l.reach d.stage d.time st with
    | some r => tm.ult r
    | none => true) &&
  (ds.all fun d => !(d.stage == st && d.time == tm) ||
    d.d == 1 + ((s.threads.filter fun u => u.launch == t.launch && stageOf u.ctl == st && u.ctl.ltime == tm &&
      u.speculative && t.ctl.taskh.ult u.ctl.taskh).length : Int) +
      ((s.pooledOrdered.filter fun u => u.launch == t.launch && u.stage == st && u.time == tm &&
      t.ctl.taskh.ult u.taskh).length : Int))

/-! ## What has been performed -/

/-- Every earlier access of a thread has been performed at a scope (R282). -/
def performedAt (core : Nat) (t : Thread) (sc : FScope) : Bool :=
  match sc with
  | .lane => true
  | .core => t.pend.all fun p => !(isTile core && p.owner == core) && (p.pod || !p.amo)
  | .quad | .die | .pkg => t.pend.all fun p => p.pod
  | .pod => t.pend.isEmpty
/-- What other threads have released toward this core's threads has been performed at a scope (R284): happens-before is transitive,
so a release at a wider scope than theirs waits for the accesses that their releases passed. -/
def State.passedOn (s : State) (core : Nat) (sc : FScope) : Bool :=
  let free (p : Pending) : Bool := !p.rel || (if p.pod then sc != .pod else sc == .lane || sc == .core)
  ((s.core core).slots.all fun q => q.2.pend.all free) &&
  (sc != .pod || s.cores.all fun k => k.2.slots.all fun q => q.2.pend.all fun p => !(p.rel && p.pod))
/-- The accesses that other threads have released toward this core's threads and that no owner has performed at `.pkg` (R284). -/
def State.owedBy (s : State) (core : Nat) : List (Nat × Nat) :=
  (s.core core).slots.flatMap fun q => (q.2.pend.filter fun p => p.rel && !p.pod).map fun p => (q.1, p.msg)
/-- A release of the issuing thread at a scope (R282 to R284): it waits, and notes what it does not wait for. -/
def State.releaseAt (s : State) (sc : FScope) : Res :=
  if sc == .lane then .ok s
  else if performedAt s.cur.core s.src sc && s.passedOn s.cur.core sc then
    .ok (s.setThr { s.thr with pend := s.thr.pend.map fun p => { p with rel := true } })
  else .error .stall
/-- Every earlier load has returned its value (R168). -/
def loadsReturned (t : Thread) : Bool := t.pend.all fun p => !p.load

/-! ## Commits -/

/-- Commit an ordered task (R290): its buffered bytes are written at one point and it runs on irrevocable. -/
def State.commitTask (s : State) (core slot : Nat) : State :=
  let t := s.thrAt core slot
  let h := t.ctl.taskh.toNat
  let mine := (s.core core).spec.filter fun e => e.task == h
  let s := s.modCore core fun k => { k with spec := k.spec.filter fun e => e.task != h }
  let s := mine.foldl (fun s e => if e.mask = 0 then s else (s.countLine (64 * e.line)).perform (64 * e.line) 64 e.mask e.data.toNat (some h)) s
  s.setThrAt core slot { t with ctl := { t.ctl with stage := t.ctl.stage ||| (1#64 <<< 14) } }

/-- No atomic stands between its halves at a granule that the task's commit writes (R287): a commit writes all its bytes at one
point, so it waits for them. -/
def State.commitClear (s : State) (core : Nat) (task : Nat) : Bool :=
  (s.core core).spec.all fun e => e.task != task ||
    (List.range 8).all fun i => e.mask.extractLsb' (8 * i) 8 == 0#8 || (FMap.get [] s.gran (8 * e.line + i)).isEmpty

/-- An ordered task may commit now (R290, R356): it is next to commit, nothing stands in the way of its writes, their owners can be reached
(R472), and, the commit being a release at `.pkg`, what its thread did and what others released to it has been performed there (R284). -/
def State.mayCommit (s : State) (core : Nat) (t : Thread) : Bool :=
  s.nextToCommit t && s.commitClear core t.ctl.taskh.toNat && performedAt core t .pkg && s.passedOn core .pkg &&
  (s.core core).spec.all fun e => e.task != t.ctl.taskh.toNat || e.mask == 0 || s.reaches core (s.ownerAt (64 * e.line))

/-- What an uncommitted ordered task does that cannot be buffered: it waits until it is next to commit, commits, and runs on
(R292, R349). -/
def State.irrevocable (s : State) : Res :=
  if s.thr.speculative then
    if s.mayCommit s.cur.core s.thr then .ok (s.commitTask s.cur.core s.cur.slot) else .error .stall
  else .ok s

end Sys2Proof.Machine
end

