-- ==== Sys2Proof/Machine/Access.lean ====
section
/-!
DEFINITION. Where an address lies, the checks of an access, translation, and how an access reaches its owner and is
performed there (spec/10, spec/11, spec/19).
-/

namespace Sys2Proof.Machine

/-! ## Apertures -/

/-- Where a generic address lies (R258, R259): slice bytes whatever their name. -/
inductive Where_ where
  | global (va : Nat)
  | slice (tile off : Nat)
  | bstore (tile off : Nat)
  | pod (cube va : Nat)
  deriving DecidableEq, Repr

/-- The kinds of access that the apertures tell apart (R261). -/
inductive AKind where
  | ld | ldv | st | stv | amo | lr | sc | wrs | vamo
  deriving DecidableEq, Repr

/-- Reads that a copy's lock on its source keeps out as it keeps writes out (R293). -/
def AKind.locks (k : AKind) : Bool := k == .lr || k == .wrs

/-- The place of a generic address; none in no aperture. -/
def whereIs (ea : Nat) : Option Where_ :=
  if ea < 2 ^ 47 then some (.global ea)
  else if ea < 2 ^ 47 + 2 ^ 33 then
    let r := ea - 2 ^ 47
    some (.slice (r / 2 ^ 22) (r % 2 ^ 22))
  else if ea < 2 ^ 47 + 2 ^ 34 then
    let r := ea - (2 ^ 47 + 2 ^ 33)
    some (.slice (quadTile (r / 2 ^ 24) (r / 2 ^ 22 % 4)) (r % 2 ^ 22))
  else if ea < 2 ^ 47 + 2 ^ 35 then
    let r := ea - (2 ^ 47 + 2 ^ 34)
    some (.bstore (r / 2 ^ 23) (r % 2 ^ 23))
  else if 2 ^ 60 ≤ ea ∧ ea < 2 ^ 61 then some (.pod (ea / 2 ^ 48 % 4096) (ea % 2 ^ 48))
  else none

/-- An aperture allows a kind of access (R261). -/
def Where_.allows (w : Where_) (k : AKind) : Bool :=
  match w with
  | .global _ => true
  | .slice _ _ => true
  | .bstore _ _ => k == .ld || k == .ldv
  | .pod _ _ => k == .ld || k == .st || k == .amo

/-- A skim region may lie where the address does (R241). -/
def regionOk (ea : Nat) : Bool :=
  match whereIs ea with
  | some (.global _) => true
  | some (.slice _ _) => true
  | some (.bstore _ _) => false
  | some (.pod _ _) => false
  | none => false

/-- A skim region that is not empty lies where it may. -/
def areaOk (base lim : Word) : Bool := base == lim || (regionOk base.toNat && regionOk (lim.toNat - 1))

/-- The count of cubes of the pod (R449). -/
def State.podSize (s : State) : Nat :=
  let w := s.cwGet 0x80
  (w.extractLsb' 47 5).toNat * (w.extractLsb' 42 5).toNat * (w.extractLsb' 37 5).toNat

/-- A cube may be named (R450): it lies in the pod and the current routing table has a route. -/
def State.cubeOk (s : State) (cube : Nat) : Bool :=
  decide (cube < s.podSize) &&
  (cube == s.selfCube || (FMap.get 0 s.topo (0xE4000 + cube / 8 * 8)).getLsbD (8 * (cube % 8) + 7))

/-- The cause that another cube sends back, by its code (R441). -/
def farCause (code : Nat) : Cause :=
  if code = 0x50 then .pageAbsent else if code = 0x51 then .pageProt else if code = 0x52 then .pageBad
  else if code = 0x60 then .memError else if code = 0x0B then .rangeLock else .badAperture

/-- A fault of an access. -/
def badAt (c : Cause) (ea : Nat) (aux : Nat := 0) : Stop := .fault { cause := c, addr := word ea, aux := aux }

/-- Checks 1 to 3 of R260; a pod address of this cube is the global address it names (R450). An access whose request has left
for another cube has passed them. -/
def State.check13 (s : State) (k : AKind) (align ea : Nat) : Except Stop Where_ :=
  match whereIs ea with
  | none => .error (badAt .badAperture ea)
  | some w =>
    match w with
    | .pod cube va =>
      if s.thr.podAns.isSome then .ok w
      else if !s.cubeOk cube ∨ 2 ^ 47 ≤ va ∨ !w.allows k then .error (badAt .badAperture ea)
      else if ea % align ≠ 0 then .error (badAt .misaligned ea)
      else if cube = s.selfCube then .ok (.global va) else .ok w
    | .global _ | .slice _ _ | .bstore _ _ =>
      if !w.allows k then .error (badAt .badAperture ea)
      else if ea % align ≠ 0 then .error (badAt .misaligned ea)
      else .ok w

/-! ## Translation -/

/-- The quadrant whose walkers serve a core (R439). -/
def walkerOf (core : Nat) : Nat := if isTile core then tileY core / 4 else (core - 2048) / 128
/-- The second-level TLB of a core: its quad's, or its screed quadrant's (R18, R439). -/
def l2Of (core : Nat) : Nat := if isTile core then quadOf core else 512 + (core - 2048) / 128

/-- The address bits above the table that a level leads to. -/
def tagAt (lvl va : Nat) : Nat :=
  match lvl with
  | 2 => va / 2 ^ 39
  | 3 => va / 2 ^ 30
  | _ => va / 2 ^ 21

/-- The deepest cached non-leaf entry for an address (R439): a level and its table. -/
def State.cachedTable (s : State) (core ctx va : Nat) : Option (Nat × Nat) :=
  let es := FMap.get [] s.l2walk (walkerOf core)
  [4, 3, 2].findSome? fun lvl =>
    (es.find? fun e => e.ctx == ctx && e.lvl == lvl && e.va == tagAt lvl va).map fun e => (lvl, e.tbl)

/-- Put an entry into a cache of some capacity; a full cache loses an entry of free choice. -/
def cacheAdd {α : Type} [DecidableEq α] (cap pick : Nat) (e : α) (es : List α) : List α :=
  if es.contains e then es
  else if es.length < cap then e :: es else e :: es.eraseIdx (pick % es.length)

/-- The set of an entry of a second-level TLB (R439). -/
def TlbEntry.set (e : TlbEntry) : BitVec 8 := Config.tlbSet e.ctx (e.va / 2 ^ e.bits) e.bits

/-- Put an entry into a second-level TLB of 256 sets of 8 ways (R439); a full set loses an entry of free choice. -/
def setAdd (pick : Nat) (e : TlbEntry) (es : List TlbEntry) : List TlbEntry :=
  let mine := es.filter fun x => x.set == e.set
  if es.contains e then es
  else if mine.length < 8 then e :: es else e :: es.erase (mine.getD (pick % 8) e)

/-- Keep a walk's results: the translation in both TLBs and the tables in the walker cache (R439). -/
def State.install (s : State) (core ctx va : Nat) (l : Leaf) (tables : List (Nat × Nat)) : State :=
  let (n, s) := s.nextFree
  let e : TlbEntry := ⟨ctx, va / 2 ^ l.bits * 2 ^ l.bits, l.bits, l.pa, l.w, l.x⟩
  let pick := Config.choice n
  let s := s.modCore core fun k => { k with tlb := cacheAdd 128 pick e k.tlb }
  let s := s.modQuad (l2Of core) fun q => { q with tlb := setAdd pick e q.tlb }
  let q := walkerOf core
  { s with l2walk := s.l2walk.set q (tables.foldl (fun es t =>
      cacheAdd 256 pick ⟨ctx, t.1, tagAt t.1 va, t.2⟩ es) (FMap.get [] s.l2walk q)) }

/-- Translate a virtual address (R438, R439). A cached translation and the tables as they stand are the old and the new; when
they differ the access uses either. What no TLB holds is walked for: a tile reaches the page walkers by the down link of its column (R472,
R497), and the channels count the lines of tables that they read (R440). -/
def State.translate (s : State) (core ctx va : Nat) (write fetch : Bool) : Except Stop (Nat × State) := do
  let new := s.walkFrom va 4 1 (s.ctxRoot ctx)
  let hit := (tlbFind (s.core core).tlb ctx va).or (tlbFind (s.quad (l2Of core)).tlb ctx va)
  let old : Except (Cause × Nat) (Leaf × List (Nat × Nat)) :=
    match hit with
    | some e => .ok (⟨e.bits, e.pa, e.w, e.x⟩, [])
    | none =>
      match s.cachedTable core ctx va with
      | some (lvl, t) => s.walkFrom va 4 lvl t
      | none => new
  let same := match old, new with
    | .ok (l, _), .ok (m, _) => l == m
    | .error c, .error d => c == d
    | .ok _, .error _ => false
    | .error _, .ok _ => false
  let r := if same then new else if Config.choice s.fresh % 2 = 0 then old else new
  let s := if same then s else s.nextFree.2
  if hit.isNone && !(s.pathUp 0 core 2560 && s.pathUp 0 2560 core) then .error .stall else
  let (lvl, t) := (s.cachedTable core ctx va).getD (1, s.ctxRoot ctx)
  let s := if hit.isSome then s else s.countWalk va lvl t
  match r with
  | .error (c, aux) => .error (badAt c va aux)
  | .ok (l, ts) =>
    let pa := l.pa + va % 2 ^ l.bits
    if 2 ^ 40 ≤ pa then .error (badAt .pageAbsent va 1)
    else if (write && !l.w) || (fetch && !l.x) then .error (badAt .pageProt va)
    else .ok (pa, if hit.isSome then s else s.install core ctx va l ts)

/-- The translation that an engine may still find cached where its core's is (R439): in the second-level TLB, or from a table that
the walkers keep. -/
def State.staleLeaf (s : State) (core ctx va : Nat) : Option (Except (Cause × Nat) (Leaf × List (Nat × Nat))) :=
  match tlbFind (s.quad (l2Of core)).tlb ctx va with
  | some e => some (.ok (⟨e.bits, e.pa, e.w, e.x⟩, []))
  | none => (s.cachedTable core ctx va).map fun (lvl, t) => s.walkFrom va 4 lvl t

/-! ## Checks 4 to 6 -/

/-- The place of an access that has been checked: its location and owner, or another cube's address. -/
structure Spot where
  loc : Loc
  pod : Option Word := none
  ea : Word := 0
  deriving DecidableEq, Repr

/-- The key of an evicted granule's image (R425). -/
def imageKey (ctx tile gran : Nat) : Nat := ctx * 2 ^ 20 + tile * 192 + gran

/-- The grant check (R420). A granule of the context's own whose image has not been copied back yet is evicted still (R426). -/
def State.grantCheck (s : State) (ctx tile gran ea : Nat) : Except Stop Unit :=
  if (FMap.find (imageKey ctx tile gran) s.images).isSome then .error (badAt .pageAbsent ea 2)
  else if s.grantee tile gran = some ctx then .ok ()
  else .error (badAt .granule ea)

/-- Checks 4 and 5 of R260 for a thread's access. -/
def State.check45 (s : State) (core ctx ea : Nat) (w : Where_) (write fetch : Bool) : Except Stop (Spot × State) := do
  match w with
  | .global va =>
    let (pa, s) ← s.translate core ctx va write fetch
    .ok (⟨s.hbmLoc pa, none, word ea⟩, s)
  | .slice tile off =>
    s.grantCheck ctx tile (off / 2 ^ 16) ea
    if s.shutAt tile then .error (badAt .gated ea) else .ok (⟨⟨sliceKey tile off, tile⟩, none, word ea⟩, s)
  | .bstore tile off =>
    s.grantCheck ctx tile (64 + off / 2 ^ 16) ea
    if s.shutAt tile then .error (badAt .gated ea) else .ok (⟨⟨bstoreKey tile off, tile⟩, none, word ea⟩, s)
  | .pod _ _ => .ok (⟨⟨0, 2560⟩, some (word ea), word ea⟩, s)

/-- A copy that still holds its locks keeps a thread from a line (R293): its destination from the write pointer up, and its
source against writes. -/
def State.rangeLocked (s : State) (key : Nat) (write : Bool) : Bool :=
  s.xfers.any fun x => x.live &&
    ((x.wlocks.any fun l => l.1 == key / 64 && decide (x.wp ≤ l.2)) || (write && x.rlocks.contains (key / 64)))

/-- The first poisoned byte that an access meets (R470): for a store, of a granule that it covers in part. -/
def State.poisonHit (s : State) (key n : Nat) (mask : BitVec 64) (cover : Bool) : Option Nat :=
  ((List.range n).filter fun i => mask.getLsbD i).find? fun i =>
    let b := poisonOf (key + i)
    s.poison.contains b &&
      !(cover && (List.range (poisonSize b)).all fun j =>
        decide (key ≤ b + j) && decide (b + j < key + n) && mask.getLsbD (b + j - key))

/-- Check 6 of R260, and then error marks: `cover` says that a write may clear a mark by covering its granule. -/
def State.check6 (s : State) (sp : Spot) (ea n : Nat) (mask : BitVec 64) (write cover : Bool) : Except Stop Unit :=
  if sp.pod.isSome then .ok ()
  else if s.rangeLocked sp.loc.key write then .error (badAt .rangeLock ea)
  else match s.poisonHit sp.loc.key n mask cover with
    | some i => .error (badAt .memError (ea + i))
    | none => .ok ()

/-- All bytes of an access. -/
def allBytes : BitVec 64 := BitVec.allOnes 64

/-! ## Messages to owners -/

/-- Send a message in the package. -/
def State.send (s : State) (m : Msg) : State :=
  { s with net := s.net ++ [(s.nextMsg, m)], nextMsg := s.nextMsg + 1 }

/-- The order in which an owner performs what one core asks of it: a slice's or B-store's bank, or a line of HBM (R263,
R280). -/
def orderKey (key : Nat) : Nat :=
  if key < sliceBase then key / 64
  else if key < bstoreBase then 2 ^ 50 + resvKey key
  else 2 ^ 51 + key / 2 ^ 17

/-- Change a window of the issuing thread. -/
def State.modWindow (s : State) (wid : Nat) (f : Window → Window) : State :=
  s.setThr { s.thr with windows := s.thr.windows.map fun w => if w.wid == wid then f w else w }

/-- The access is an atomic, whose flags come with its old value (R311). -/
def AccKind.isAmo : AccKind → Bool
  | .amo _ _ _ _ => true
  | .store _ _ | .load | .loadResv | .sc _ _ _ => false

/-- Send an access to its owner, or toward another cube; its window owes one more response. -/
def State.sendAccess (s : State) (wid : Nat) (sp : Spot) (n : Nat) (k : AccKind) (land : Land) : State :=
  let t := s.thr
  let load := match k with
    | .store _ _ => false
    | .load | .loadResv | .amo _ _ _ _ | .sc _ _ _ => true
  let amo := k.isAmo
  let id := s.nextMsg
  let a : Access := {
    msg := id, core := s.cur.core, slot := s.cur.slot, taskh := t.ctl.taskh, ctx := t.ctx, wid := wid
    ea := sp.ea, key := sp.loc.key, bytes := n, owner := sp.loc.owner, kind := k, land := land
    proxied := decide (sp.loc.key < sliceBase), pod := sp.pod
    order := s.orderOf s.cur.core t.launch 0, back := s.orderOf s.cur.core t.launch 1 }
  let s := s.setThr { t with pend := t.pend ++ [{ msg := id, owner := sp.loc.owner, load := load, pod := sp.pod.isSome, amo := amo }] }
  (s.modWindow wid fun w => { w with need := w.need + 1, late := w.late || amo }).send (.access a)

/-- The low n bits of a number, sign-extended or zero-extended to a word. -/
def extend (bits : Nat) (sx : Bool) (v : Nat) : Word :=
  if sx then BitVec.ofInt 64 (sval bits (v % 2 ^ bits)) else word (v % 2 ^ bits)

/-- The write that a value makes at its destination. -/
def Land.write (l : Land) (v : Line) (ok : Bool) : List RegWrite :=
  match l with
  | .g r bits sx => [.g r (extend bits sx v.toNat)]
  | .q key bits sx => [.q key ((extend bits sx v.toNat).setWidth 512)]
  | .elem row i bits => [.v row ((BitVec.allOnes 64 >>> (64 - bits / 8)) <<< (i * bits / 8))
      ((v &&& (BitVec.allOnes 512 >>> (512 - bits))) <<< (i * bits))]
  | .line row mask => [.v row mask v]
  | .pred p => [.p p ok]
  | .none => []

/-- The core number of an access that another cube sends: 4,096 and the cube's number. -/
def farCore (cube : Nat) : Nat := 4096 + cube
/-- What the messages of such accesses add to the number that their cube gave them. -/
def farMsg : Nat := 2 ^ 64

/-- Change the thread of a task that may have left its slot meanwhile, for the pool or its context's area. -/
def State.modTask (s : State) (core slot : Nat) (taskh : Word) (f : Thread → Thread) : State :=
  let t := s.thrAt core slot
  if 2560 ≤ core then s
  else if t.st != .empty && t.ctl.taskh == taskh then s.setThrAt core slot (f t)
  else
    let s := s.modCore core fun k => { k with pool := k.pool.map fun e => match e with
      | .back sl r t b => if sl == slot && t.ctl.taskh == taskh then .back sl r (f t) b else e
      | .new _ => e }
    { s with away := s.away.map fun a =>
      if a.core == core && a.slot == slot && a.thr.ctl.taskh == taskh then { a with thr := f a.thr } else a }

/-- A response reaches its thread: the window owes one less, and with the last the result is complete. A thread of another cube
has it as a class 1 message (R450). -/
def State.fill (s : State) (a : Access) (v : Line) (flags : BitVec 5) (ok : Bool) (gone : Bool := true) : State :=
  if 4096 ≤ a.core then
    s.toPod (a.core - 4096) 1 ([2] ++ leBytes (a.msg - farMsg) 8 ++ [0] ++ leBytes v.toNat 8 ++ [flags.setWidth 8])
  else s.modTask a.core a.slot a.taskh fun t => { t with
    pend := if gone then t.pend.filter fun p => p.msg != a.msg
      else t.pend.map fun p => if p.msg == a.msg then { p with load := false } else p
    windows := t.windows.map fun w =>
      if w.wid == a.wid then { w with need := w.need - 1, writes := w.writes ++ a.land.write v ok, flags := w.flags ||| flags }
      else w }

/-- The response to an access that met an error mark reaches its thread (R470): nothing is written, and the fault is taken at the next
boundary, as that of the instruction that issued the access (log entry 125). A reserved push slot is given up. -/
def State.fail (s : State) (a : Access) (off : Nat) : State :=
  if 4096 ≤ a.core then
    s.toPod (a.core - 4096) 1 ([2] ++ leBytes (a.msg - farMsg) 8 ++ [BitVec.ofNat 8 Cause.memError.code] ++ leBytes 0 9)
  else
    let s := match a.land with
      | .q id _ _ => s.fillResv a.core a.slot id a.taskh a.wid none
      | .g _ _ _ | .elem _ _ _ | .line _ _ | .pred _ | .none => s
    s.modTask a.core a.slot a.taskh fun t => { t with
      pend := t.pend.filter fun p => p.msg != a.msg
      lateErr := t.lateErr.or (some {
        cause := .memError, addr := a.ea + word off
        second := t.windows.any fun w => w.wid == a.wid && w.second
        depth := (t.windows.find? fun w => w.wid == a.wid).map fun w => w.depth
        resume := (t.windows.find? fun w => w.wid == a.wid).map fun w => w.pc })
      windows := t.windows.map fun w => if w.wid == a.wid then { w with need := w.need - 1 } else w }

/-- The owner answers an access: at once at the issuing core, by a message elsewhere (R264, R268). -/
def State.respond (s : State) (a : Access) (v : Line) (ok : Bool) : State :=
  if a.owner = a.core then s.fill a v 0 ok else s.send (.response a v 0 ok)
/-- The owner finds an error mark where an access would be performed (R470). -/
def State.refuse (s : State) (a : Access) (off : Nat) : State :=
  if a.owner = a.core then s.fail a off else s.send (.failed a off)
/-- The bytes of an access that an owner judges. -/
def Access.bytesMask (a : Access) : BitVec 64 :=
  match a.kind, a.land with
  | .store mask _, _ => mask
  | _, .line _ mask => mask
  | _, _ => allBytes
/-- The first byte of an error granule that an access meets at its owner: a store may cover a granule whole, an atomic covers none
(R470). -/
def State.marked (s : State) (a : Access) : Option Nat :=
  s.poisonHit a.key a.bytes a.bytesMask (match a.kind with
    | .store _ _ => true
    | .load | .loadResv | .amo _ _ _ _ | .sc _ _ _ => false)

/-- The queue of a granule (R287). -/
def State.granQ (s : State) (g : Nat) : List GEntry := FMap.get [] s.gran g
/-- Replace it. -/
def State.setGranQ (s : State) (g : Nat) (q : List GEntry) : State :=
  { s with gran := if q = [] then FMap.del g s.gran else s.gran.set g q }

/-- The entry of a write that no thread waits for (R287): the bytes of one granule under a mask. -/
def storeEntry (g : Nat) (mask : BitVec 64) (data : Line) : GEntry :=
  ⟨0, { msg := 0, core := 2560, slot := 0, taskh := 0, ctx := 0, wid := 0, key := 8 * g, bytes := 8, owner := 2560
        kind := .store mask data, land := .none, proxied := false, pod := none }, .waiting⟩

/-- A write by a unit other than a thread's plain store (R278, R287): performed at once, but for the bytes of granules whose queues
hold an atomic, which join them as write-only entries. A line of HBM is counted (R440). -/
def State.storeTo (s : State) (key n : Nat) (mask : BitVec 64) (data : Nat) (byTask : Option Nat := none) : State :=
  let s := s.countLine key
  let hit (i : Nat) : Bool := decide (i < n) && mask.getLsbD i
  let busy := (((List.range n).filter hit).map fun i => (key + i) / 8).dedup.filter fun g => !(s.granQ g).isEmpty
  if busy = [] then s.perform key n mask data byTask else
  let free : BitVec 64 := (List.range n).foldl (fun m i =>
    if hit i && !busy.contains ((key + i) / 8) then m ||| (1#64 <<< i) else m) 0
  busy.foldl (fun s g =>
    let at_ (i : Nat) : Bool := decide (key ≤ 8 * g + i) && hit (8 * g + i - key)
    let m : BitVec 64 := (List.range 8).foldl (fun m i => if at_ i then m ||| (1#64 <<< i) else m) 0
    let d := (List.range 8).foldl (fun d i => if at_ i then d + data / 256 ^ (8 * g + i - key) % 256 * 256 ^ i else d) 0
    s.setGranQ g (s.granQ g ++ [storeEntry g m (BitVec.ofNat 512 d)])) (s.perform key n free data byTask)

/-- Place a thread's pair (R288): it gives up its old one; a full set loses its oldest. -/
def State.reserve (s : State) (key : Nat) (who : Nat) : State :=
  let resv := s.resv.map fun p => (p.1, p.2.filter fun x => x.2 != who)
  let k := resvKey key
  let ps := FMap.get [] resv k
  let ps := if 16 ≤ ps.length then ps.drop (ps.length - 15) else ps
  { s with resv := FMap.set resv k (ps ++ [(key / 8, who)]) }
/-- A thread gives up its pair (R288). -/
def State.unreserve (s : State) (who : Nat) : State :=
  { s with resv := s.resv.map fun p => (p.1, p.2.filter fun x => x.2 != who) }
/-- The thread holds a pair for a granule. -/
def State.holdsPair (s : State) (gran who : Nat) : Bool := (FMap.get [] s.resv (resvKey (8 * gran))).contains (gran, who)

/-- The granules that a store writes. -/
def granulesOf (key n : Nat) (mask : BitVec 64) : List Nat :=
  (((List.range n).filter fun i => mask.getLsbD i).map fun i => (key + i) / 8).dedup
/-- No queue stands at a granule that a write would change (R287): the units that write several granules at one point wait for it. -/
def State.granFree (s : State) (key n : Nat) (mask : BitVec 64) : Bool :=
  (granulesOf key n mask).all fun g => (s.granQ g).isEmpty

/-- Two accesses of one core are performed in the order in which they came: in one bank or HBM line (R280), or as elements of
one instruction at one owner (R308). -/
def Access.inOrder (b a : Access) : Bool :=
  b.core == a.core && (orderKey b.key == orderKey a.key ||
    (b.owner == a.owner && b.slot == a.slot && b.taskh == a.taskh && b.wid == a.wid))

/-- An access may be performed now: none of its core that came before it waits in the same order, nor one of its thread in
a granule's queue; and a store of several granules finds their queues empty. -/
def State.accessReady (s : State) (id : Nat) (a : Access) : Bool :=
  (s.net.takeWhile fun m => m.1 != id).all (fun m => match m.2 with
    | .access b => !(b.pod.isNone && b.inOrder a)
    | _ => true) &&
  (s.gran.all fun p => p.2.all fun e => !(e.acc.slot == a.slot && e.acc.inOrder a)) &&
  match a.kind with
  | .store mask _ => (granulesOf a.key a.bytes mask).length ≤ 1 || s.granFree a.key a.bytes mask
  | _ => true

/-- The location of a byte of a skim region (R239); none where it has none. -/
def State.placeKey (s : State) (ctx ea : Nat) : Option Nat :=
  match whereIs ea with
  | some (.global va) => s.areaKey ctx va
  | some (.slice tile off) => some (sliceKey tile off)
  | some (.bstore tile off) => some (bstoreKey tile off)
  | some (.pod _ _) | none => none
/-- What memory does not hold but a load of some bytes may return (R242): for each skim entry whose place they touch, the locations of
its three parts with its image or its prior content. -/
def State.overlays (s : State) (key n : Nat) : List (List (Option Nat) × BitVec 768) :=
  s.skims.flatMap fun p => (List.range p.2.depth).flatMap fun e =>
    let ps := (List.range 3).map fun j => s.placeKey (p.1 / 2 ^ 15) (p.2.base.toNat + 96 * e + 32 * j)
    let hit (b : Option Nat) : Bool := match b with
      | some b => decide (b < key + n) && decide (key < b + 32)
      | none => false
    if ps.any hit then ((p.2.onCore ++ p.2.saved ++ p.2.prior).filter fun x => x.1 == e).map fun x => (ps, x.2) else []
/-- A byte under the overlays chosen. -/
def State.byteUnder (s : State) (os : List (List (Option Nat) × BitVec 768)) (k : Nat) : Byte :=
  (os.findSome? fun o => (List.range 3).findSome? fun j => match o.1.getD j none with
    | some b => if b ≤ k ∧ k < b + 32 then some (BitVec.ofNat 8 (o.2.toNat / 256 ^ (32 * j + (k - b)))) else none
    | none => none).getD (s.byte k)
/-- What a load of some bytes returns: memory, but in the place of a skim entry its prior content or its image, as it happens (R242). -/
def State.loadN (s : State) (key n : Nat) : Nat × State :=
  match s.overlays key n with
  | [] => (s.readN key n, s)
  | os =>
    let (c, s) := s.nextFree
    let chosen := ((List.range os.length).zip os).filterMap fun o => if (Config.freeNat c).testBit o.1 then some o.2 else none
    (leNat ((List.range n).map fun i => s.byteUnder chosen (key + i)), s)

/-- The owner performs an access at its arrival (R278, R287, R288), or finds an error mark in its place (R470). -/
def State.performAccess (s : State) (a : Access) : State :=
  let s := s.countLine a.key
  let join (s : State) : State := s.setGranQ (a.key / 8) (s.granQ (a.key / 8) ++ [⟨a.msg, a, .waiting⟩])
  match a.kind with
  | .load | .loadResv =>
    match s.marked a with
    | some i => s.refuse a i
    | none =>
      let (v, s) := s.loadN a.key a.bytes
      (if a.kind = .loadResv then s.reserve a.key a.taskh.toNat else s).respond a (BitVec.ofNat 512 v) true
  | .store mask data =>
    let now : State := match s.marked a with
      | some i => s.refuse a i
      | none => (s.perform a.key a.bytes mask data.toNat).respond a 0 true
    match granulesOf a.key a.bytes mask with
    | [g] => if (s.granQ g).isEmpty then now else join s
    | _ => now
  | .amo _ _ _ _ => join s
  | .sc _ _ _ => join s

/-! ## Accesses of ordered tasks -/

/-- The issuing task's entry for a line (R290). -/
def State.specFind (s : State) (line : Nat) : Option SpecLine :=
  s.here.spec.find? fun e => e.task == s.thr.ctl.taskh.toNat && e.line == line

/-- Change or add the issuing task's entry for a line; none when the buffer is full (R292). -/
def State.specSet (s : State) (line : Nat) (f : SpecLine → SpecLine) : Option State :=
  let h := s.thr.ctl.taskh.toNat
  if (s.specFind line).isSome then
    some (s.modHere fun k => { k with spec := k.spec.map fun e => if e.task == h && e.line == line then f e else e })
  else if s.here.spec.length < 256 then
    some (s.modHere fun k => { k with spec := k.spec ++ [f ⟨h, line, 0, 0, false⟩] })
  else none

/-- A line as an uncommitted ordered task sees it: its own bytes over memory (R290). -/
def State.specLine (s : State) (line : Nat) : Nat × State :=
  let (v, s) := s.loadN (64 * line) 64
  match s.specFind line with
  | none => (v, s)
  | some e => (leNat ((List.range 64).map fun i => BitVec.ofNat 8 ((if e.mask.getLsbD i then e.data.toNat else v) / 256 ^ i)), s)

/-- Bytes under a mask replaced. -/
def mergeBytes (old new : Line) (mask : BitVec 64) : Line :=
  let m : Line := (List.range 64).foldl (fun a n => if mask.getLsbD n then a ||| ((0xFF : Line) <<< (8 * n)) else a) 0
  (old &&& ~~~m) ||| (new &&& m)

/-- One access of the issuing thread, its checks passed: buffered while its task is speculative, else sent to its owner. -/
def State.doAccess (s : State) (wid : Nat) (sp : Spot) (n : Nat) (k : AccKind) (land : Land) : Res := do
  let direct (s : State) : Res := .ok (s.sendAccess wid sp n k land)
  if !s.thr.speculative then direct s
  else
    let line := sp.loc.key / 64
    let off := sp.loc.key % 64
    match k with
    | .load =>
      if !s.reaches s.cur.core sp.loc.owner then .error .stall else
      let (v, s) := s.specLine line
      let v := v / 256 ^ off % 256 ^ n
      match s.specSet line fun e => { e with read := true } with
      | some s => .ok (s.modWindow wid fun w => { w with writes := w.writes ++ land.write (BitVec.ofNat 512 v) true })
      | none => direct (← s.irrevocable)
    | .store mask data =>
      match s.specSet line fun e => { e with
          mask := e.mask ||| (mask <<< off), data := mergeBytes e.data (data <<< (8 * off)) (mask <<< off) } with
      | some s => .ok s
      | none => direct (← s.irrevocable)
    | .loadResv | .amo _ _ _ _ | .sc _ _ _ => direct (← s.irrevocable)

/-! ## Walking -/

/-- The 256 bytes of a walking context (R38): g0 to g23, PC, LTIME, PW, STATUS, STAGE, WMODE, TASKH, and zeros. -/
def Thread.walkBytes (t : Thread) : List Byte :=
  ((List.range 24).flatMap fun r => leBytes (t.gr r).toNat 8) ++ leBytes t.pc.toNat 8 ++ leBytes t.ctl.ltime.toNat 8 ++
  leBytes t.pw.toNat 2 ++ leBytes t.ctl.status.toNat 2 ++ leBytes t.ctl.stage.toNat 2 ++ leBytes t.ctl.wmode.toNat 1 ++ [0] ++
  leBytes t.ctl.taskh.toNat 8 ++ List.replicate 32 0

/-- The thread that a walking context unpacks to (R38, R270). -/
def Thread.unwalk (t : Thread) (bs : List Byte) : Thread :=
  let at_ (off n : Nat) : Nat := leNat ((bs.drop off).take n)
  { t with
    g := (List.range 24).foldl (fun g r => g.set r (word (at_ (8 * r) 8))) []
    pc := word (at_ 192 8), pw := BitVec.ofNat 16 (at_ 208 2)
    ctl := { t.ctl with
      ltime := word (at_ 200 8), status := word (at_ 210 2), stage := word (at_ 212 2), wmode := word (at_ 214 1)
      taskh := word (at_ 216 8) } }

/-- What travels of a light thread (R38); the context, the launch and the mode stand in the message's envelope (log entry 101). -/
def Thread.walking (t : Thread) (pc : Word) : Thread := {
  st := .running, light := true, ctx := t.ctx, launch := t.launch, pc := pc, g := t.g, pw := t.pw
  ctl := { ltime := t.ctl.ltime, taskh := t.ctl.taskh, status := t.ctl.status &&& 0xFFFF, stage := t.ctl.stage &&& 0xFFFF
           wmode := t.ctl.wmode &&& 0xFF, round := roundSeed t.ctl.taskh }
  rt := t.rt }

/-- The thread walks (R270): it waits until its windows have closed and its accesses have been performed, then leaves. DEDUCED (log
entry 102): one that has changed counts here waits until they stand in the package table, so that no decrement it makes elsewhere
comes before an increment it made here (R345). -/
def State.walkTo (s : State) (owner : Nat) (pc : Word) : Res := do
  let s ← s.irrevocable
  let t := s.thr
  if !t.windows.isEmpty || !t.pend.isEmpty || (t.counted && !s.countsIn s.cur.core t.launch) then .error .stall else
  let s := s.unreserve t.ctl.taskh.toNat
  let s := s.setThr {}
  .error (.again (s.send (.walk ⟨t.walking pc, owner, (t.walking pc).walkBytes, s.cur.core, s.orderOf s.cur.core t.launch 2⟩)))

/-- A touch of the place makes a light thread walk (R269). -/
def Thread.walks (t : Thread) (w : Where_) : Bool :=
  t.light && match w with
    | .slice _ _ => t.ctl.wmode.getLsbD 1
    | .global _ => t.ctl.wmode.getLsbD 0
    | .bstore _ _ => false
    | .pod _ _ => false

/-! ## Issuing an access -/

/-- The fence scope of an ordering scope. -/
def OrdScope.fence (o : OrdScope) : FScope :=
  match o with
  | .core => .core
  | .quad => .quad
  | .die => .die
  | .pkg => .pkg
  | .pod => .pod

/-- An acquire whose value has not returned holds back every later access (R283). -/
def State.held (s : State) : Bool := s.thr.windows.any fun w => w.acq && w.need != 0

/-- The release of an ordering field (R283). -/
def State.releaseOrd (s : State) (o : MemOrd) : Res :=
  match o with
  | .none => .ok s
  | .at sc => s.releaseAt (OrdScope.fence sc)

/-- The ordering is an acquire. -/
def MemOrd.acq (o : MemOrd) : Bool :=
  match o with
  | .none => false
  | .at _ => true

/-- The address has a name of the pod aperture, under which no touch walks (R269). -/
def podName (ea : Nat) : Bool :=
  match whereIs ea with
  | some (.pod _ _) => true
  | some (.global _) | some (.slice _ _) | some (.bstore _ _) | none => false

/-- The checks of R260 for one access of the issuing thread; a light thread that must walk does so before check 6. -/
def State.reach (s : State) (k : AKind) (align n ea : Nat) (mask : BitVec 64) (write cover : Bool) :
    Except Stop (Spot × State) := do
  if s.held then .error .stall else
  let w ← s.check13 k align ea
  let (sp, s) ← s.check45 s.cur.core s.thr.ctx ea w write false
  if s.thr.walks w && !podName ea && sp.loc.owner != s.cur.core then
    let _ ← s.walkTo sp.loc.owner s.thr.pc
    .error .stall
  else
    s.check6 sp ea n mask (write || k.locks) cover
    .ok (sp, s)

/-- A pod access of the issuing thread, in the state in which it came to issue (R66, R441, R450): its request leaves, and the
thread stalls until it is decided. Then its window opens, which owes the value or holds it, or its fault is raised. -/
def State.podStep (s : State) (sp : Spot) (n : Nat) (k : AccKind) (land : Land) (ds : State → List Dest × State) (l : Nat)
    (acq : Bool) (go : State → State) : Res := do
  let t := s.thr
  match t.podAns with
  | none =>
    let s ← s.irrevocable
    let s := s.sendAccess t.nextWid sp n k land
    .error (.again (s.setThr { s.thr with st := .stalled, podAns := some none }))
  | some none => .error .stall
  | some (some (code, v, fl)) =>
    let s := s.setThr { t with podAns := none }
    if code = 0 ∨ code = 0x100 then
      let (ds, s) := ds (go s)
      let (wid, s) := s.openWindow l ds (if code = 0 then 0 else 1) (if code = 0 then land.write (v.setWidth 512) true else []) acq
      .ok (s.modWindow wid fun w => { w with flags := fl, late := code != 0 && k.isAmo })
    else .error (.part s { cause := farCause code, addr := sp.pod.getD 0, aux := v.toNat % 256 })

/-- An access of the core that comes before one to a line in the order of its bank or line has not been performed (R280): later requests
from the core to the owner arrive after it, those of its other threads too (R282). -/
def State.lineBusy (s : State) (core line : Nat) : Bool :=
  let mine (a : Access) : Bool := orderKey a.key == orderKey (64 * line) && a.core == core && a.pod.isNone
  (s.net.any fun m => match m.2 with
    | .access a => mine a
    | _ => false) ||
  s.gran.any fun p => p.2.any fun e => mine e.acc

/-- Read bytes as an instruction's own operand (R172, R351): 64-byte lines, each checked as a load; after the thread's
earlier accesses at its core, and the core's to these banks and lines, have been performed, and while the owner can be reached. DEDUCED
(log entry 100): the read is no touch, so a light thread's does not walk. -/
def State.bulk (s : State) (ea : Nat) : Nat → Except Stop (List Byte × State)
  | 0 => .ok ([], s)
  | lines + 1 => do
    if s.held || !performedAt s.cur.core s.thr .core then .error .stall else
    let w ← s.check13 .ldv 64 ea
    let (sp, s) ← s.check45 s.cur.core s.thr.ctx ea w false false
    s.check6 sp ea 64 allBytes false false
    let line := sp.loc.key / 64
    if s.lineBusy s.cur.core line || !s.reaches s.cur.core sp.loc.owner then .error .stall else
    let (v, s) := if s.thr.speculative then s.specLine line else s.loadN (64 * line) 64
    let s ← if s.thr.speculative then
        match s.specSet line fun e => { e with read := true } with
        | some s => .ok s
        | none => s.irrevocable
      else .ok (s.countLine sp.loc.key)
    let (rest, s) ← s.bulk (ea + 64) lines
    .ok (leBytes v 64 ++ rest, s)

end Sys2Proof.Machine
end

