-- ==== Sys2Proof/Machine/Control.lean ====
section
/-!
DEFINITION. Control transfers, traps, services, control registers, fences, gates, repartition and the invalidation of
translations (spec/06_scalar_instructions.md, R156 to R171).
-/

namespace Sys2Proof.Machine

/-! ## Transfers -/

/-- The target of a line-slot displacement: line displacement above five bits of slot (R79). -/
def lineTarget (pc : Word) (lines : Word) (slot : Nat) : Word :=
  ((pc >>> 6) + lines) <<< 6 ||| word (2 * slot)
/-- The target of an 11-bit displacement. -/
def target11 (pc : Word) (disp : BitVec 11) : Word :=
  lineTarget pc ((disp.extractLsb' 5 6).signExtend 64) (disp.extractLsb' 0 5).toNat
/-- The target of a 48-bit displacement. -/
def target48 (pc : Word) (disp : BitVec 48) : Word :=
  lineTarget pc ((disp.extractLsb' 5 43).signExtend 64) (disp.extractLsb' 0 5).toNat

/-- `nop` (R160). -/
def execNop (s : State) := run .nop s fun s => .ok s
/-- `br` (R157). -/
def execBr (disp : BitVec 11) (s : State) := run (.br disp) s fun s => .ok (s.jump (target11 s.src.pc disp))
/-- `call` (R158). -/
def execCall (d : GSpec) (disp : BitVec 48) (s : State) :=
  run (.call d disp) s fun s => .ok ((s.wr d s.cur.npc).jump (target48 s.src.pc disp))
/-- `jmp` (R158). -/
def execJmp (a : GSpec) (s : State) := run (.jmp a) s fun s => .ok (s.jump (s.rg a))
/-- `calli` (R158): the target is read before the link is written. -/
def execCalli (d a : GSpec) (s : State) := run (.calli d a) s fun s => .ok ((s.wr d s.cur.npc).jump (s.rg a))
/-- `ret` (R158). -/
def execRet (a : GSpec) (s : State) := run (.ret a) s fun s => .ok (s.jump (s.rg a))
/-- `loop` (R159). -/
def execLoop (a : GSpec) (disp : BitVec 11) (s : State) :=
  run (.loop a disp) s fun s =>
    let t := s.rg a - 1
    let s' := s.wr a t
    .ok (if t = 0 then s' else s'.jump (target11 s.src.pc disp))

/-! ## Traps and services -/

/-- `trap` (R162): nested, it faults; with no in-thread handler it faults as TRAP, to resume at the next PC; else it
enters the handler (R432). -/
def execTrap (code : BitVec 6) (s : State) :=
  run (.trap code) s fun s =>
    let tv := s.trapVec s.thr.ctx
    if s.thr.ctl.active then .error (bad .trapNested)
    else if tv = 0 then .error (.fault { cause := .trap, aux := code.toNat, resume := some s.cur.npc })
    else .ok ((s.modCtl fun c => c.enter .trap code.toNat s.cur.npc).jump tv)
/-- `tret` (R163): held interrupts are then taken at the boundary. -/
def execTret (s : State) :=
  run .tret s fun s =>
    if s.thr.ctl.active then .ok ((s.modCtl Ctl.leave).jump s.thr.ctl.trappc) else .error (bad .illegalOp)
/-- `sysc` (R164): g0 to g5 stand in the parked thread for the runtime to read. -/
def execSysc (n : BitVec 6) (s : State) := run (.sysc n) s fun s => .ok (s.park (.service n.toNat))

/-! ## Control registers -/

/-- A field replaced in a register. -/
def putField (old new : Word) (mask : Word) : Word := (old &&& ~~~mask) ||| (new &&& mask)

/-- The state of an adjacent quad in GATESTAT (R335). -/
def gateField (g : Gate) (why : Nat) : Nat :=
  if why ≠ 0 then 3 + 4 * why else
  match g with
  | .none => 0
  | .pending => 1
  | .closing _ => 1
  | .gated => 2
  | .waking _ => 2
/-- GATESTAT as a core sees it (R335). -/
def State.gatestat (s : State) (core : Nat) : Word :=
  if isTile core then
    let q := quadOf core
    let k := s.core core
    word (gateField (s.quad (quadAbove q)).gate k.whyAbove + 16 * gateField (s.quad (quadBelow q)).gate k.whyBelow)
  else 0

/-- SLOT (R54). -/
def State.slotWord (s : State) : Word :=
  let t := s.thr
  let k := s.here
  let m := if k.mode = 8 then 0 else if k.mode = 4 then 1 else 2
  word (s.cur.slot + (if s.cur.slot + 1 = k.mode then 8 else 0) + 16 * m + 256 * t.role +
    (if t.light then 2 ^ 11 else 0) + (if s.runtime then 2 ^ 12 else 0))

/-- SKIMDEP (R237). -/
def Skim.dep (k : Skim) : Word := word (k.depth + 2 ^ 32 * k.last + (if k.lastValid then 2 ^ 37 else 0))

/-- What a light thread reads of a register outside its walking context and outside those marked as read (R39). -/
def lightReset (c : Ctl) (idx : Nat) : Word :=
  match idx with
  | 0x001 => 0x2004
  | 0x002 => roundSeed c.taskh
  | 0x010 | 0x011 => 9
  | 0x012 => 0x200A
  | 0x020 => BitVec.allOnes 64
  | 0x080 => 0x0400_0040_0400
  | 0x801 => 32
  | _ => 0

/-- A control register as `ctl.get` reads it (R49). -/
def State.ctlRead (s : State) (idx : Nat) : Word :=
  let t := s.src
  let c := t.ctl
  let k := s.srcCore
  let sk := s.srcSkim
  match idx with
  | 0x000 => c.status
  | 0x030 => c.ltime
  | 0x031 => c.stage
  | 0x032 => c.wmode
  | 0x050 => c.taskh
  | 0x051 => word s.cur.core
  | 0x052 => s.slotWord
  | 0x053 => word t.ctx
  | 0x054 => s.gatestat s.cur.core
  | 0x090 => s.capLo
  | 0x091 => 0
  | 0x802 => k.acfg
  | _ =>
    if t.light then lightReset c idx else
    match idx with
    | 0x001 => c.efmt
    | 0x002 => c.round
    | 0x010 => c.fmta
    | 0x011 => c.fmtb
    | 0x012 => c.fmtc
    | 0x013 => c.scla
    | 0x014 => c.sclb
    | 0x020 => c.qmap
    | 0x040 => c.xferid
    | 0x041 => c.xstat
    | 0x060 => c.faultrec
    | 0x070 => sk.dep
    | 0x071 => sk.base
    | 0x072 => sk.lim
    | 0x080 => k.ebud s.cur.slot
    | 0x0A0 => c.trappc
    | 0x0A1 => c.trapcause
    | 0x800 => s.trapVec t.ctx
    | 0x801 => s.wdogOf t.ctx
    | _ => 0

/-- A format field that keeps its value when the new code is reserved (R206, R207). -/
def putFmt (old new : Word) (ok : Fmt → Bool) : Word :=
  match Fmt.ofBits (new.extractLsb' 0 5) with
  | some f => if ok f then putField old new 0x1F else old
  | none => old

/-- A write of SKIMBASE or SKIMLIM (R238): the value, the pair it would leave, and the change that it makes. -/
def State.setArea (s : State) (v base lim : Word) (f : Skim → Skim) : Res :=
  let t := s.thr
  if s.srcSkim.depth ≠ 0 then .error (bad .skimOrder)
  else if v.extractLsb' 0 6 ≠ 0#6 then .error (bad .misaligned)
  else if lim < base ∨ !areaOk base lim then .error (bad .matrixRange)
  else .ok (s.setSkim t.ctx s.cur.core s.cur.slot (f (s.skim t.ctx s.cur.core s.cur.slot)))

/-- An accumulator that a new ACFG assigns otherwise (R204). -/
def acfgChanges (old new : Word) (n : Nat) : Bool := old.extractLsb' (4 * n) 4 != new.extractLsb' (4 * n) 4

/-- Matrix operations that a core has accepted and not completed, those of threads out of their slots among them
(R204, R227). -/
def State.opsOf (s : State) (c : Nat) : List MOp :=
  (s.core c).mq ++ ((s.core c).pool.flatMap fun e => match e with
    | .back _ _ t _ => t.mops
    | .new _ => []) ++
  (s.away.filter fun a => a.core == c).flatMap fun a => a.thr.mops
/-- Those of the issuing core. -/
def State.acceptedOps (s : State) : List MOp := s.opsOf s.cur.core

/-- A write of a control register as its map allows (R49, R165). -/
def State.ctlWrite (s : State) (idx : Nat) (v : Word) : Res :=
  let ctx := s.thr.ctx
  let sk := s.srcSkim
  match idx with
  | 0x000 => .ok (s.modCtl fun c => { c with status := v &&& 0x1F1F })
  | 0x001 => .ok (s.modCtl fun c =>
      let e := putField c.efmt v 0xFF04
      { c with efmt := if v.extractLsb' 1 1 = 1#1 then e else putField e v 3 })
  | 0x002 =>
    let old := s.src.ctl.round
    let r := if v.extractLsb' 32 32 = 0#32 then old else putField old v 0xFFFFFFFF00000000
    let s := s.modCtl fun c => { c with round := if (v.extractLsb' 0 3).toNat ≤ 4 then putField r v 7 else r }
    .ok { s with cur := { s.cur with wroteRound := true } }
  | 0x010 => .ok (s.modCtl fun c => { c with fmta := putFmt c.fmta v Fmt.isMat })
  | 0x011 => .ok (s.modCtl fun c => { c with fmtb := putFmt c.fmtb v Fmt.isMat })
  | 0x012 => .ok (s.modCtl fun c => { c with fmtc := putField (putFmt c.fmtc v Fmt.isRow) v 0xFF00 })
  | 0x013 => .ok (s.modCtl fun c => { c with scla := v &&& 0x8000FFFF003FFFFF })
  | 0x014 => .ok (s.modCtl fun c => { c with sclb := v &&& 0x8000FFFF003FFFFF })
  | 0x032 => .ok (s.modCtl fun c => { c with wmode := v &&& 3 })
  | 0x071 => s.setArea v v sk.lim fun k => { k with base := v }
  | 0x072 => s.setArea v sk.base v fun k => { k with lim := v }
  | 0x0A0 => .ok (s.modCtl fun c => { c with trappc := v &&& ~~~1#64 })
  | 0x800 => .ok { s with trapvec := s.trapvec.set ctx (v &&& ~~~1#64) }
  | 0x801 =>
    let p := (v.extractLsb' 0 6).toNat
    .ok (if p = 0 ∨ (16 ≤ p ∧ p ≤ 40) then { s with wdog := s.wdog.set ctx (word p) } else s)
  | 0x802 =>
    let new := v &&& 0xFFFF
    if s.acceptedOps.any fun op => acfgChanges s.here.acfg new op.acc then .error .stall
    else .ok (s.modHere fun k => { k with acfg := new })
  | _ => .error (bad .illegalOp)

/-- `ctl.get` (R165). -/
def execCtlGet (d : GSpec) (idx : BitVec 12) (s : State) :=
  run (.ctlGet d idx) s fun s => .ok (s.wr d (s.ctlRead idx.toNat))
/-- `ctl.set` (R165). -/
def execCtlSet (a : GSpec) (idx : BitVec 12) (s : State) :=
  run (.ctlSet a idx) s fun s =>
    let (x, s) := s.rd a
    s.ctlWrite idx.toNat x
/-- `ctl.swap` (R165). -/
def execCtlSwap (d a : GSpec) (idx : BitVec 12) (s : State) :=
  run (.ctlSwap d a idx) s fun s =>
    let (x, s) := s.rd a
    let old := s.ctlRead idx.toNat
    (s.ctlWrite idx.toNat x).map fun s => s.wr d old
/-- `cap.get` (R167). -/
def execCapGet (d : PReg) (bit : BitVec 7) (s : State) :=
  run (.capGet d bit) s fun s => .ok (s.wp d (s.capLo.getLsbD bit.toNat))

/-! ## Fences -/

/-- `fence` (R168). -/
def execFence (scp : FScope) (s : State) :=
  run (.fence scp) s fun s => s.releaseAt scp
/-- `fence.acq` (R168). -/
def execFenceAcq (scp : FScope) (s : State) :=
  run (.fenceAcq scp) s fun s => if scp == .lane || loadsReturned s.src then .ok s else .error .stall
/-- `fence.rel` (R168): later loads may not pass it here either, since a thread issues in order. -/
def execFenceRel (scp : FScope) (s : State) :=
  run (.fenceRel scp) s fun s => s.releaseAt scp

/-! ## Gates -/

/-- The cores of a quad. -/
def quadCores (q : Nat) : List Nat := (List.range 4).map (quadTile q)
/-- The quad holds a thread or a queued task of another context (R333). -/
def State.quadOther (s : State) (q ctx : Nat) : Bool :=
  (quadCores q).any fun c =>
    let k := s.core c
    (k.slots.any fun p => p.2.st != .empty && p.2.ctx != ctx) ||
    (k.pool.any fun e => match e with
      | .new t => t.ctx != ctx
      | .back _ _ t _ => t.ctx != ctx) ||
    k.arrival.any fun w => w.thr.ctx != ctx
/-- The quad holds a pinned role of an uncompleted launch. -/
def State.quadPinned (s : State) (q : Nat) : Bool := (quadCores q).any fun c => !(s.core c).pins.isEmpty
/-- A gate request toward a quad, with the change of the requester's refusal (R333). -/
def State.gateReq (s : State) (q : Nat) (why : Nat → Core → Core) : State :=
  match (s.quad q).gate with
  | .none =>
    if s.quadOther q s.thr.ctx then s.modHere (why 1)
    else if s.quadPinned q then s.modHere (why 2)
    else (s.modHere (why 0)).modQuad q fun k => { k with gate := .pending }
  | .pending | .closing _ | .gated | .waking _ => s.modHere (why 0)
/-- A release of a quad (R333): 4,096 cycles of wake. -/
def State.gateFree (s : State) (q : Nat) (why : Nat → Core → Core) : State :=
  let s := s.modHere (why 0)
  match (s.quad q).gate with
  | .pending | .closing _ => s.modQuad q fun k => { k with gate := .none }
  | .gated => s.modQuad q fun k => { k with gate := .waking (s.cycle + 4096) }
  | .none | .waking _ => s
/-- A gate form: illegal on a channel core (R169). -/
def gateForm (up free : Bool) (s : State) : Res :=
  let c := s.cur.core
  let why := fun n (k : Core) => if up then { k with whyAbove := n } else { k with whyBelow := n }
  let q := if up then quadAbove (quadOf c) else quadBelow (quadOf c)
  if isTile c then .ok (if free then s.gateFree q why else s.gateReq q why) else .error (bad .illegalOp)
/-- `gate.up` (R169). -/
def execGateUp (s : State) := run .gateUp s (gateForm true false)
/-- `gate.down` (R169). -/
def execGateDown (s : State) := run .gateDown s (gateForm false false)
/-- `gate.free.up` (R169). -/
def execGateFreeUp (s : State) := run .gateFreeUp s (gateForm true true)
/-- `gate.free.down` (R169). -/
def execGateFreeDown (s : State) := run .gateFreeDown s (gateForm false true)

/-! ## Repartition and translations -/

/-- `repart` (R170): the cases in their order; the mode changes at the next rotation boundary. DESIGN CHOICE (log entry 93): one
that issues before the change of an earlier one has come stalls until that boundary, once no earlier case applies. -/
def repart (half : Bool) (s : State) : Res :=
  let k := s.here
  if !isTile s.cur.core then .error (bad .illegalOp)
  else if k.mode = (if half then 2 else 8) then .error (bad .illegalOp)
  else if s.cur.slot ≠ 0 ∨ (k.slots.any fun p => p.1 != 0 && p.2.st != .empty) ∨ !k.arrival.isEmpty then
    .error (bad .repartBusy)
  else if k.modeNext.isSome then .error .stall
  else .ok (s.modHere fun k => { k with modeNext := some (if half then k.mode / 2 else k.mode * 2) })
/-- `repart.half` (R170). -/
def execRepartHalf (s : State) := run .repartHalf s (repart true)
/-- `repart.dbl` (R170). -/
def execRepartDbl (s : State) := run .repartDbl s (repart false)

/-- A vector register that reads zero from now on takes no result of an earlier instruction (R57, R65). -/
def Window.dropV (w : Window) : Window := { w with dests := w.dests.filter fun d => match d with
  | .v _ => false
  | .g _ | .p _ => true }

/-- The change of mode at a rotation boundary (R57, R170). -/
def Core.remode (k : Core) : Core :=
  match k.modeNext with
  | none => k
  | some m => { k with
      mode := m, modeNext := none, rows := [], acfg := 0
      slots := k.slots.map fun p => (p.1, { p.2 with k := [], windows := p.2.windows.map Window.dropV }) }

/-- An invalidation (R171): its result is its completion, which removes the entries. -/
def tlbInv (ctx va : Option Nat) (s : State) : Res := .ok (s.openWindow 0 [] 0 [.inv ctx va]).2
/-- `tlb.inv.page` (R171). -/
def execTlbInvPage (a : GSpec) (s : State) :=
  run (.tlbInvPage a) s fun s =>
    let (x, s) := s.rd a
    tlbInv (some s.thr.ctx) (some x.toNat) s
/-- `tlb.inv.ctx` (R171). -/
def execTlbInvCtx (a : GSpec) (s : State) :=
  run (.tlbInvCtx a) s fun s =>
    let (x, s) := s.rd a
    tlbInv (some (x.toNat % 64)) none s
/-- `tlb.inv.all` (R171). -/
def execTlbInvAll (s : State) := run .tlbInvAll s (tlbInv none none)

end Sys2Proof.Machine
end

