-- ==== Sys2Proof/Machine/Flags.lean ====
section
/-!
DEFINITION. The flags that scalar arithmetic sets (R136 to R140): each function gives its result with them.
-/

namespace Sys2Proof.Machine

/-- The value of an integer clamped into a 64-bit format, with SAT when the clamp acts (R139). -/
def clamp64 (sg : Bool) (v : Int) : Word × Flags :=
  let (c, f) := clampI sg 64 v
  (word c, f)

/-- `adds` and `adds.n` (R139). -/
def satAdd (uns : Bool) (x y : Word) : Word × Flags :=
  if uns then clamp64 false (x.toNat + y.toNat) else clamp64 true (x.toInt + y.toInt)

/-- `subs` and `subs.n` (R139). -/
def satSub (uns : Bool) (x y : Word) : Word × Flags :=
  if uns then clamp64 false ((x.toNat : Int) - y.toNat) else clamp64 true (x.toInt - y.toInt)

/-- `abs` (R140). -/
def satAbs (x : Word) : Word × Flags := clamp64 true x.toInt.natAbs

/-- Quotient and remainder, signed, toward zero; DZ on a zero divisor (R138). -/
def divSigned (x y : Word) : Word × Word × Flags :=
  if y = 0 then (BitVec.allOnes 64, x, fDz)
  else (BitVec.ofInt 64 (x.toInt.tdiv y.toInt), BitVec.ofInt 64 (x.toInt.tmod y.toInt), fNone)

/-- Quotient and remainder, unsigned; DZ on a zero divisor (R138). -/
def divUnsigned (x y : Word) : Word × Word × Flags :=
  if y = 0 then (BitVec.allOnes 64, x, fDz) else (x / y, x % y, fNone)

end Sys2Proof.Machine
end

