-- ==== Sys2Proof/Machine/Scalar.lean ====
section
/-!
DEFINITION. Integer, logic, move, compare, pointer and predicate instructions (spec/06_scalar_instructions.md, R135 to
R155).
-/

namespace Sys2Proof.Machine

/-! ## Shared forms -/

/-- `op d, a, b`: both sources are read, a first, before d is written (R135). -/
def binOp (d a b : GSpec) (f : Word → Word → Word) (s : State) : Res :=
  let (x, s) := s.rd a
  let (y, s) := s.rd b
  .ok (s.wr d (f x y))

/-- `op d, a, b` that may set flags. -/
def binFlag (d a b : GSpec) (f : Word → Word → Word × Flags) (s : State) : Res :=
  let (x, s) := s.rd a
  let (y, s) := s.rd b
  let (r, fl) := f x y
  .ok ((s.addFlags fl).wr d r)

/-- `op d, a`. -/
def unOp (d a : GSpec) (f : Word → Word) (s : State) : Res :=
  let (x, s) := s.rd a
  .ok (s.wr d (f x))

/-- A division: its flag is set at issue and its result arrives later (R138). -/
def divOp (d a b : GSpec) (l : Look) (f : Word → Word → Word × Flags) (s : State) : Res :=
  let (x, s) := s.rd a
  let (y, s) := s.rd b
  let (r, fl) := f x y
  .ok ((s.addFlags fl).longG d l.toNat r)

/-! ## Integer arithmetic -/

/-- `add` (R137). -/
def execAdd (d a b : GSpec) (s : State) := run (.add d a b) s (binOp d a b fun x y => x + y)
/-- `sub` (R137). -/
def execSub (d a b : GSpec) (s : State) := run (.sub d a b) s (binOp d a b fun x y => x - y)
/-- `mul` (R137). -/
def execMul (d a b : GSpec) (s : State) := run (.mul d a b) s (binOp d a b fun x y => x * y)
/-- Bits 127:64 of a signed product. -/
def mulHigh (x y : Word) : Word := BitVec.ofInt 64 (x.toInt * y.toInt / 2 ^ 64)
/-- `mulh` (R137). -/
def execMulh (d a b : GSpec) (s : State) := run (.mulh d a b) s (binOp d a b mulHigh)
/-- Bits 127:64 of an unsigned product. -/
def mulHighN (x y : Word) : Word := word (x.toNat * y.toNat / 2 ^ 64)
/-- `mulhn` (R137). -/
def execMulhn (d a b : GSpec) (s : State) := run (.mulhn d a b) s (binOp d a b mulHighN)
/-- `div` (R138). -/
def execDiv (d a b : GSpec) (l : Look) (s : State) :=
  run (.div d a b l) s (divOp d a b l fun x y => ((divSigned x y).1, (divSigned x y).2.2))
/-- `divn` (R138). -/
def execDivn (d a b : GSpec) (l : Look) (s : State) :=
  run (.divn d a b l) s (divOp d a b l fun x y => ((divUnsigned x y).1, (divUnsigned x y).2.2))
/-- `rem` (R138). -/
def execRem (d a b : GSpec) (l : Look) (s : State) :=
  run (.rem d a b l) s (divOp d a b l fun x y => ((divSigned x y).2.1, (divSigned x y).2.2))
/-- `remn` (R138). -/
def execRemn (d a b : GSpec) (l : Look) (s : State) :=
  run (.remn d a b l) s (divOp d a b l fun x y => ((divUnsigned x y).2.1, (divUnsigned x y).2.2))
/-- `adds` and `adds.n` (R139). -/
def execAdds (d a b : GSpec) (uns : Bool) (s : State) := run (.adds d a b uns) s (binFlag d a b (satAdd uns))
/-- `subs` and `subs.n` (R139). -/
def execSubs (d a b : GSpec) (uns : Bool) (s : State) := run (.subs d a b uns) s (binFlag d a b (satSub uns))
/-- `abs` (R140). -/
def execAbs (d a : GSpec) (s : State) :=
  run (.abs d a) s fun s =>
    let (x, s) := s.rd a
    let (r, fl) := satAbs x
    .ok ((s.addFlags fl).wr d r)
/-- `neg` (R140). -/
def execNeg (d a : GSpec) (s : State) := run (.neg d a) s (unOp d a fun x => -x)
/-- `min` (R141). -/
def execMin (d a b : GSpec) (s : State) := run (.min d a b) s (binOp d a b fun x y => if y.slt x then y else x)
/-- `max` (R141). -/
def execMax (d a b : GSpec) (s : State) := run (.max d a b) s (binOp d a b fun x y => if x.slt y then y else x)
/-- `minn` (R141). -/
def execMinn (d a b : GSpec) (s : State) := run (.minn d a b) s (binOp d a b fun x y => if y.ult x then y else x)
/-- `maxn` (R141). -/
def execMaxn (d a b : GSpec) (s : State) := run (.maxn d a b) s (binOp d a b fun x y => if x.ult y then y else x)

/-! ## Logic, shifts and bit fields -/

/-- `and` (R142). -/
def execAnd (d a b : GSpec) (s : State) := run (.and_ d a b) s (binOp d a b fun x y => x &&& y)
/-- `or` (R142). -/
def execOr (d a b : GSpec) (s : State) := run (.or_ d a b) s (binOp d a b fun x y => x ||| y)
/-- `xor` (R142). -/
def execXor (d a b : GSpec) (s : State) := run (.xor_ d a b) s (binOp d a b fun x y => x ^^^ y)
/-- `andn` (R142). -/
def execAndn (d a b : GSpec) (s : State) := run (.andn d a b) s (binOp d a b fun x y => x &&& ~~~y)
/-- `orn` (R142). -/
def execOrn (d a b : GSpec) (s : State) := run (.orn d a b) s (binOp d a b fun x y => x ||| ~~~y)

/-- The amount of a register shift: bits 7:0 (R143). -/
def shAmt (y : Word) : Nat := y.toNat % 256
/-- `shl` (R143). -/
def execShl (d a b : GSpec) (s : State) := run (.shl d a b) s (binOp d a b fun x y => x <<< shAmt y)
/-- `shr` (R143). -/
def execShr (d a b : GSpec) (s : State) := run (.shr d a b) s (binOp d a b fun x y => x >>> shAmt y)
/-- `sra` (R143). -/
def execSra (d a b : GSpec) (s : State) := run (.sra d a b) s (binOp d a b fun x y => x.sshiftRight (shAmt y))
/-- `rol` (R143). -/
def execRol (d a b : GSpec) (s : State) := run (.rol d a b) s (binOp d a b fun x y => x.rotateLeft (shAmt y % 64))
/-- `shli` (R144). -/
def execShli (d a : GSpec) (n : BitVec 6) (s : State) := run (.shli d a n) s (unOp d a fun x => x <<< n.toNat)
/-- `shri` (R144). -/
def execShri (d a : GSpec) (n : BitVec 6) (s : State) := run (.shri d a n) s (unOp d a fun x => x >>> n.toNat)
/-- `srai` (R144). -/
def execSrai (d a : GSpec) (n : BitVec 6) (s : State) := run (.srai d a n) s (unOp d a fun x => x.sshiftRight n.toNat)

/-- The number of trailing zero bits among the low n bits. -/
def trailing (v : Nat) : Nat → Nat
  | 0 => 0
  | n + 1 => if v % 2 = 1 then 0 else 1 + trailing (v / 2) n
/-- The number of one bits among the low n bits. -/
def ones (v : Nat) : Nat → Nat
  | 0 => 0
  | n + 1 => v % 2 + ones (v / 2) n
/-- `clz` (R145). -/
def execClz (d a : GSpec) (s : State) := run (.clz d a) s (unOp d a fun x => word (64 - bitLen x.toNat))
/-- `ctz` (R145). -/
def execCtz (d a : GSpec) (s : State) := run (.ctz d a) s (unOp d a fun x => word (trailing x.toNat 64))
/-- `popc` (R145). -/
def execPopc (d a : GSpec) (s : State) := run (.popc d a) s (unOp d a fun x => word (ones x.toNat 64))
/-- The bytes of a word in reverse order. -/
def swapBytes (x : Word) : Word :=
  x.extractLsb' 0 8 ++ x.extractLsb' 8 8 ++ x.extractLsb' 16 8 ++ x.extractLsb' 24 8 ++
  x.extractLsb' 32 8 ++ x.extractLsb' 40 8 ++ x.extractLsb' 48 8 ++ x.extractLsb' 56 8
/-- `bswap` (R145). -/
def execBswap (d a : GSpec) (s : State) := run (.bswap d a) s (unOp d a swapBytes)

/-- The low w + 1 bits, sign-extended. -/
def signExt (x : Word) (w : Nat) : Word := (x <<< (63 - w)).sshiftRight (63 - w)
/-- The low w + 1 bits, zero-extended. -/
def zeroExt (x : Word) (w : Nat) : Word := (x <<< (63 - w)) >>> (63 - w)
/-- `sext` (R146). -/
def execSext (d a : GSpec) (w : BitVec 6) (s : State) := run (.sext d a w) s (unOp d a fun x => signExt x w.toNat)
/-- `zext` (R146). -/
def execZext (d a : GSpec) (w : BitVec 6) (s : State) := run (.zext d a w) s (unOp d a fun x => zeroExt x w.toNat)
/-- `bfx` (R147). -/
def execBfx (d a : GSpec) (pos w : BitVec 6) (s : State) :=
  run (.bfx d a pos w) s (unOp d a fun x => zeroExt (x >>> pos.toNat) w.toNat)
/-- A field of w + 1 bits at a position replaced. -/
def insertField (t x : Word) (pos w : Nat) : Word :=
  let m := zeroExt (BitVec.allOnes 64) w <<< pos
  (t &&& ~~~m) ||| ((x <<< pos) &&& m)
/-- `bfi` (R147). -/
def execBfi (d a : GSpec) (pos w : BitVec 6) (s : State) :=
  run (.bfi d a pos w) s fun s =>
    let (x, s) := s.rd a
    .ok (s.wr d (insertField (s.rg d) x pos.toNat w.toNat))

/-! ## Moves, constants, selection and compares -/

/-- `mov` (R148). -/
def execMov (d a : GSpec) (s : State) := run (.mov d a) s (unOp d a fun x => x)
/-- `sel` (R148). -/
def execSel (d a b : GSpec) (p : PReg) (nt : Bool) (s : State) :=
  run (.sel d a b p nt) s (binOp d a b fun x y => if s.rp p != nt then x else y)
/-- `addi` (R149). -/
def execAddi (d a : GSpec) (imm : BitVec 11) (s : State) := run (.addi d a imm) s (unOp d a fun x => x + imm.signExtend 64)
/-- `li` (R149). -/
def execLi (d : GSpec) (imm : BitVec 48) (s : State) := run (.li d imm) s fun s => .ok (s.wr d (imm.signExtend 64))
/-- `lih` (R149). -/
def execLih (d : GSpec) (imm : BitVec 16) (s : State) :=
  run (.lih d imm) s fun s => .ok (s.wr d (imm ++ (s.rg d).extractLsb' 0 48))

/-- The conditions on integers (R96); `.uo` needs a NaN and never holds of them. -/
def Cond.holds (c : Cond) (x y : Word) : Bool :=
  match c with
  | .eq => x == y
  | .ne => x != y
  | .lt => x.slt y
  | .le => x.sle y
  | .gt => y.slt x
  | .ge => y.sle x
  | .ltn => x.ult y
  | .len => x.ule y
  | .gtn => y.ult x
  | .gen => y.ule x
  | .uo => false
/-- `cmp` (R150). -/
def execCmp (d : PReg) (a b : GSpec) (c : Cond) (s : State) :=
  run (.cmp d a b c) s fun s =>
    let (x, s) := s.rd a
    let (y, s) := s.rd b
    .ok (s.wp d (Cond.holds c x y))
/-- `cmpi` (R150). -/
def execCmpi (d : PReg) (a : GSpec) (c : Cond) (imm : BitVec 48) (s : State) :=
  run (.cmpi d a c imm) s fun s =>
    let (x, s) := s.rd a
    .ok (s.wp d (Cond.holds c x (imm.signExtend 64)))
/-- `lea` (R151). -/
def execLea (d a b : GSpec) (sh : BitVec 2) (disp : BitVec 9) (s : State) :=
  run (.lea d a b sh disp) s (binOp d a b fun x y => x + (y <<< sh.toNat) + disp.signExtend 64)

/-! ## Pointers -/

/-- Base and size of an aperture for a core (R258). -/
def apertureOf (core : Nat) (ap : Aperture) : Nat × Nat :=
  match ap with
  | .global => (0, 2 ^ 47)
  | .shared => (2 ^ 47, 2 ^ 33)
  | .local_ => if isTile core then (2 ^ 47 + core * 2 ^ 22, 2 ^ 22) else (0, 0)
  | .quad => if isTile core then (2 ^ 47 + 2 ^ 33 + quadOf core * 2 ^ 24, 2 ^ 24) else (0, 0)
  | .bstore => (2 ^ 47 + 2 ^ 34, 2 ^ 34)
  | .pod => (2 ^ 60, 2 ^ 60)
/-- `ptr.cvt.in` (R152). -/
def execPtrCvtIn (d a : GSpec) (ap : Aperture) (s : State) :=
  run (.ptrCvtIn d a ap) s (unOp d a fun x =>
    let w := apertureOf s.cur.core ap
    if w.1 ≤ x.toNat ∧ x.toNat < w.1 + w.2 then word (x.toNat - w.1) else BitVec.allOnes 64)
/-- `ptr.cvt.out` (R152). -/
def execPtrCvtOut (d a : GSpec) (ap : Aperture) (s : State) :=
  run (.ptrCvtOut d a ap) s (unOp d a fun x =>
    let w := apertureOf s.cur.core ap
    if x.toNat < w.2 then word (w.1 + x.toNat) else BitVec.allOnes 64)
/-- `ptr.in` (R153). -/
def execPtrIn (d : PReg) (a : GSpec) (ap : Aperture) (s : State) :=
  run (.ptrIn d a ap) s fun s' =>
    let (x, s') := s'.rd a
    let w := apertureOf s.cur.core ap
    .ok (s'.wp d (decide (w.1 ≤ x.toNat ∧ x.toNat < w.1 + w.2)))

/-! ## Predicates -/

/-- `pand` (R154). -/
def execPand (d a b : PReg) (nt : Bool) (s : State) := run (.pand d a b nt) s fun s => .ok (s.wp d (s.rp a && (s.rp b != nt)))
/-- `por` (R154). -/
def execPor (d a b : PReg) (nt : Bool) (s : State) := run (.por d a b nt) s fun s => .ok (s.wp d (s.rp a || (s.rp b != nt)))
/-- `pxor` (R154). -/
def execPxor (d a b : PReg) (nt : Bool) (s : State) := run (.pxor d a b nt) s fun s => .ok (s.wp d (s.rp a != (s.rp b != nt)))
/-- `pnot` (R154). -/
def execPnot (d a : PReg) (s : State) := run (.pnot d a) s fun s => .ok (s.wp d (!s.rp a))
/-- `pmov` (R154). -/
def execPmov (d a : PReg) (s : State) := run (.pmov d a) s fun s => .ok (s.wp d (s.rp a))
/-- `pset` (R155). -/
def execPset (d : PReg) (v : Bool) (s : State) := run (.pset d v) s fun s => .ok (s.wp d v)
/-- `pset.all` (R155). -/
def execPsetAll (a : GSpec) (s : State) :=
  run (.psetAll a) s fun s =>
    let (x, s) := s.rd a
    let t := s.thr
    let ws := (List.range 16).foldl (fun ws n => dropDest (.p n) ws) t.windows
    .ok (s.setThr { t with pw := (x.setWidth 16) ||| 1#16, windows := ws })
/-- `pget` (R155). -/
def execPget (d : GSpec) (s : State) := run (.pget d) s fun s => .ok (s.wr d ((s.src.pw ||| 1#16).setWidth 64))

end Sys2Proof.Machine
end

