-- ==== Sys2Proof/Machine/Memory.lean ====
section
/-!
DEFINITION. Memory and atomic instructions (spec/12_memory_instructions.md), what owners and atomic units do (R264, R268,
R287, R288), walks (R270, R272) and the writing of long results (R64).
-/

namespace Sys2Proof.Machine

/-- The n-th argument of a step of the part. -/
def State.arg (s : State) (n : Nat) : Nat := s.args.getD n 0

/-! ## Loads and stores -/

/-- Bytes of a width code (R99). -/
def Width.bytes (w : Width) : Nat :=
  match w with
  | .w8 => 1
  | .w16 => 2
  | .w32 => 4
  | .w64 => 8

/-- Where a scalar result of a load lands. -/
def State.landReg (s : State) (d : GSpec) (bits : Nat) (sx : Bool) : Land :=
  if isG d then .g d.toNat bits sx else .q (s.qid (qNum d)) bits sx

/-- `ld` (R303). -/
def execLd (d a : GSpec) (w : Width) (sx : Bool) (o : MemOrd) (imm : BitVec 48) (s : State) :=
  run (.ld d a w sx o imm) s fun s0 => do
    let (base, s) := s0.rd a
    let n := Width.bytes w
    let (sp, s) ← s.reach .ld n n (base + imm.signExtend 64).toNat allBytes false false
    let land := s.landReg d (8 * n) sx
    if sp.pod.isSome then s0.podStep sp n .load land (fun s => s.longDest d) 0 (MemOrd.acq o) fun s => (s.rd a).2 else
    let (ds, s) := s.longDest d
    let (wid, s) := s.openWindow 0 ds 0 [] (MemOrd.acq o)
    s.doAccess wid sp n .load land

/-- `st` (R304): a is popped before d. -/
def execSt (d a : GSpec) (w : Width) (o : MemOrd) (imm : BitVec 48) (s : State) :=
  run (.st d a w o imm) s fun s0 => do
    let s0 ← if s0.thr.podAns.isSome then .ok s0 else s0.releaseOrd o
    let (base, s) := s0.rd a
    let (x, s) := s.rd d
    let n := Width.bytes w
    let (sp, s) ← s.reach .st n n (base + imm.signExtend 64).toNat allBytes true true
    let kind : AccKind := .store (allBytes >>> (64 - n)) (x.setWidth 512)
    if sp.pod.isSome then s0.podStep sp n kind .none (fun s => ([], s)) 0 false fun s => ((s.rd a).2.rd d).2 else
    let (wid, s) := s.openWindow 0 [] 0 []
    s.doAccess wid sp n kind .none

/-- `ldv` (R305): nothing when every mask bit is clear. -/
def execLdv (vd : VSpec) (a : GSpec) (k : KReg) (imm : BitVec 26) (o : MemOrd) (l : Look) (s : State) :=
  run (.ldv vd a k imm o l) s fun s => do
    let m := s.rk k
    if m = 0 then .ok s else
    let (sp, s) ← s.reach .ldv 64 64 (s.rg a + imm.signExtend 64).toNat m false false
    let (wid, s) := s.openWindow l.toNat [.v vd.toNat] 0 [] (MemOrd.acq o)
    s.doAccess wid sp 64 .load (.line vd.toNat m)

/-- `stv` (R305): only active bytes are written. -/
def execStv (vd : VSpec) (a : GSpec) (k : KReg) (imm : BitVec 26) (o : MemOrd) (l : Look) (s : State) :=
  run (.stv vd a k imm o l) s fun s => do
    let m := s.rk k
    if m = 0 then .ok s else
    let s ← s.releaseOrd o
    let x := s.rv vd
    let (sp, s) ← s.reach .stv 64 64 (s.rg a + imm.signExtend 64).toNat m true true
    let (wid, s) := s.openWindow l.toNat [] 0 []
    s.doAccess wid sp 64 (.store m x) .none

/-! ## Gathers, scatters and vector atomics -/

/-- Element i of a register, of a width in bits. -/
def elemAt (w : Nat) (v : Line) (i : Nat) : Nat := v.toNat / 2 ^ (w * i) % 2 ^ w

/-- The active elements still to be accessed, with their addresses (R306, R307): data width w, index width iw. -/
def State.lanes (s : State) (base : Word) (idx : Line) (m : Word) (w iw n sh : Nat) : List (Nat × Nat) :=
  ((List.range n).filter fun i => m.getLsbD (w * i / 8) && !s.thr.done.testBit i).map fun i =>
    (i, (base + (extend iw true (elemAt iw idx i) <<< sh)).toNat)

/-- The second loop of R307: each element's checks 4 to 6 and its access, until one faults. -/
def laneLoop (k : AKind) (n : Nat) (write cover : Bool) (kind : Nat → AccKind) (land : Nat → Land) (wid : Nat) :
    List (Nat × Nat) → State → List Nat → State × List Nat × Option Stop
  | [], s, done => (s, done, none)
  | (i, ea) :: rest, s, done =>
    match s.reach k n n ea allBytes write cover >>= fun (sp, s) => s.doAccess wid sp n (kind i) (land i) with
    | .ok s => laneLoop k n write cover kind land wid rest s (done ++ [i])
    | .error e => (s, done, some e)

/-- The mask of a list of elements. -/
def elemMask (is_ : List Nat) : Nat := is_.foldl (fun m i => m ||| 2 ^ i) 0

/-- The window of an instruction of element accesses: the one that an earlier issue of it left open, whose elements are on their way
(R317), or a new one. -/
def State.elementWindow (s : State) (l : Nat) (ds : List Dest) : Nat × State :=
  let last := s.thr.nextWid - 1
  if s.thr.done ≠ 0 ∧ s.thr.windows.any (fun w => w.wid == last) then
    (last, s.modWindow last fun w => { w with left := l + 1 })
  else s.openWindow l ds 0 []

/-- The element accesses of `gath`, `scat` and `vamo` (R307). An acquire holds back what comes after the instruction, not its own
elements (R283). A fault in the first loop performs nothing. One in the second
is raised once every earlier element has been performed, with those elements in its mask (R317); paired in a bundle it leaves
no element performed (R62). -/
def elementOp (k : AKind) (n : Nat) (write cover : Bool) (ls : List (Nat × Nat)) (ds : List Dest) (l : Nat) (acq : Bool)
    (kind : Nat → AccKind) (land : Nat → Land) (s : State) : Res := do
  if s.held then .error .stall else
  ls.forM fun p => (s.check13 k n p.2).map fun _ => ()
  let (wid, s') := s.elementWindow l ds
  let (s', done, stop) := laneLoop k n write cover kind land wid ls s' []
  match stop with
  | none => .ok (s'.modWindow wid fun w => { w with acq := acq })
  | some (.fault f) =>
    if s.cur.place ≠ .single then .error (.fault f)
    else if done = [] then
      if s.thr.pend.isEmpty && s.thr.windows.isEmpty then .error (.fault { f with mask := s.thr.done }) else .error .stall
    else .error (.again (s'.setThr { s'.thr with st := .stalled, done := s.thr.done ||| elemMask done }))
  | some e => .error e

/-- `gath` (R306, R307). -/
def execGath (vd : VSpec) (a : GSpec) (vb : VSpec) (k : KReg) (w : Width) (sh : BitVec 2) (o : MemOrd) (l : Look)
    (s : State) :=
  run (.gath vd a vb k w sh o l) s fun s =>
    let n := Width.bytes w
    let (iw, cnt) := if n = 8 then (64, 8) else (32, 16)
    let ls := s.lanes (s.rg a) (s.rv vb) (s.rk k) (8 * n) iw cnt sh.toNat
    elementOp .ldv n false false ls [.v vd.toNat] l.toNat (MemOrd.acq o) (fun _ => .load)
      (fun i => .elem vd.toNat i (8 * n)) s

/-- `scat` (R306, R307). -/
def execScat (vd : VSpec) (a : GSpec) (vb : VSpec) (k : KReg) (w : Width) (sh : BitVec 2) (o : MemOrd) (l : Look)
    (s : State) :=
  run (.scat vd a vb k w sh o l) s fun s => do
    let s ← s.releaseOrd o
    let n := Width.bytes w
    let (iw, cnt) := if n = 8 then (64, 8) else (32, 16)
    let x := s.rv vd
    let ls := s.lanes (s.rg a) (s.rv vb) (s.rk k) (8 * n) iw cnt sh.toNat
    elementOp .stv n true true ls [] l.toNat false
      (fun i => .store (allBytes >>> (64 - n)) (BitVec.ofNat 512 (elemAt (8 * n) x i))) (fun _ => .none) s

/-- The scopes of an atomic's halves (R99). -/
def AmoOrd.release (o : AmoOrd) : MemOrd :=
  match o with
  | .plain => .none
  | .acq _ => .none
  | .rel sc => .at sc
  | .acqRel sc => .at sc
/-- The atomic is an acquire. -/
def AmoOrd.acquires (o : AmoOrd) : Bool :=
  match o with
  | .plain => false
  | .acq _ => true
  | .rel _ => false
  | .acqRel _ => true

/-- `vamo` (R313). -/
def execVamo (vd : VSpec) (a : GSpec) (vb vc : VSpec) (k : KReg) (op : AmoOp) (dbl : Bool) (o : AmoOrd) (l : Look)
    (s : State) :=
  run (.vamo vd a vb vc k op dbl o l) s fun s => do
    let s ← s.releaseOrd (AmoOrd.release o)
    let s ← s.irrevocable
    let (n, cnt) := if dbl then (8, 8) else (4, 16)
    let ls := s.lanes (s.rg a) (s.rv vb) (s.rk k) (8 * n) (8 * n) cnt 0
    let x := s.rv vc
    elementOp .vamo n true false ls [.v vd.toNat] l.toNat (AmoOrd.acquires o)
      (fun i => .amo op dbl (word (elemAt (8 * n) x i)) 0) (fun i => .elem vd.toNat i (8 * n)) s

/-! ## Reservations and atomics -/

/-- The bytes of an atomic's word. -/
def wordBytes (dbl : Bool) : Nat := if dbl then 8 else 4

/-- `lr` (R309). -/
def execLr (d a : GSpec) (dbl : Bool) (o : MemOrd) (l : Look) (s : State) :=
  run (.lr d a dbl o l) s fun s => do
    let (ea, s) := s.rd a
    let n := wordBytes dbl
    let (sp, s) ← s.reach .lr n n ea.toNat allBytes false false
    let land := s.landReg d (8 * n) false
    let (ds, s) := s.longDest d
    let (wid, s) := s.openWindow l.toNat ds 0 [] (MemOrd.acq o)
    s.doAccess wid sp n .loadResv land

/-- `sc` (R310): a is popped before d. -/
def execSc (d a : GSpec) (dbl : Bool) (o : MemOrd) (p : PReg) (l : Look) (s : State) :=
  run (.sc d a dbl o p l) s fun s => do
    let s ← s.releaseOrd o
    let (ea, s) := s.rd a
    let (x, s) := s.rd d
    let n := wordBytes dbl
    let (sp, s) ← s.reach .sc n n ea.toNat allBytes true false
    let (wid, s) := s.openWindow l.toNat [.p p.toNat] 0 []
    s.doAccess wid sp n (.sc dbl x p.toNat) (.pred p.toNat)

/-- `amo` (R311). -/
def execAmo (d a b : GSpec) (op : AmoOp) (dbl : Bool) (o : AmoOrd) (l : Look) (s : State) :=
  run (.amo d a b op dbl o l) s fun s0 => do
    let s0 ← if s0.thr.podAns.isSome then .ok s0 else s0.releaseOrd (AmoOrd.release o)
    let (ea, s) := s0.rd a
    let (x, s) := s.rd b
    let n := wordBytes dbl
    let (sp, s) ← s.reach .amo n n ea.toNat allBytes true false
    let cmp := if op = .cas then s.rg d else 0
    let land := s.landReg d (8 * n) false
    let kind : AccKind := .amo op dbl x cmp
    if sp.pod.isSome then
      s0.podStep sp n kind land (fun s => s.longDest d) l.toNat (AmoOrd.acquires o) fun s => ((s.rd a).2.rd b).2
    else
    let (ds, s) := s.longDest d
    let (wid, s) := s.openWindow l.toNat ds 0 [] (AmoOrd.acquires o)
    s.doAccess wid sp n kind land

/-- The new value of an atomic and its flag (R311), on w-bit values. -/
def amoNew (op : AmoOp) (w : Nat) (o v c : Nat) : Nat × Flags :=
  let so := sval w o
  let sv := sval w v
  match op with
  | .add => ((o + v) % 2 ^ w, fNone)
  | .adds => clampI true w (so + sv)
  | .and_ => (o &&& v, fNone)
  | .or_ => (o ||| v, fNone)
  | .xor_ => (o ^^^ v, fNone)
  | .min => (if sv < so then v else o, fNone)
  | .max => (if so < sv then v else o, fNone)
  | .minn => (if v < o then v else o, fNone)
  | .maxn => (if o < v then v else o, fNone)
  | .swap => (v, fNone)
  | .cas => (if o = c then v else o, fNone)

/-- `wrs` (R314): it parks while the thread's pair names the granule; it reads no byte, and is no write kind (R438). -/
def execWrs (a : GSpec) (s : State) :=
  run (.wrs a) s fun s => do
    let s ← s.irrevocable
    let (ea, s) := s.rd a
    let (sp, s) ← s.reach .wrs 8 8 ea.toNat 0 false false
    if !s.thr.pend.isEmpty then .error .stall
    else if s.holdsPair (sp.loc.key / 8) s.thr.ctl.taskh.toNat then .ok (s.park (.reservation (sp.loc.key / 8)))
    else .ok s

/-! ## Walking on request -/

/-- `walk` (R315): nothing in a resident thread, or at the owner. -/
def execWalk (a : GSpec) (s : State) :=
  run (.walk a) s fun s => do
    let (ea, s) := s.rd a
    if !s.thr.light then .ok s
    else if s.held then .error .stall else
    let w ← s.check13 .ldv 1 ea.toNat
    let (sp, s) ← s.check45 s.cur.core s.thr.ctx ea.toNat w false false
    if sp.loc.owner = s.cur.core then .ok s else s.walkTo sp.loc.owner s.cur.npc

/-- `walk.home` (R316). -/
def execWalkHome (s : State) :=
  run .walkHome s fun s =>
    let home := (s.thr.ctl.taskh.extractLsb' 52 12).toNat
    if !s.thr.light || home = s.cur.core then .ok s
    else if s.shutAt home then .error (bad .gated)
    else s.walkTo home s.cur.npc

/-! ## Owners -/

/-- A message by its number. -/
def State.msg (s : State) (id : Nat) : Option Msg := (s.net.find? fun m => m.1 == id).map Prod.snd
/-- A message leaves the network. -/
def State.unsend (s : State) (id : Nat) : State :=
  { s with net := s.net.filter (fun m => m.1 != id), places := FMap.del id s.places, netMarks := FMap.del id s.netMarks }

/-- The new value of an atomic can reach its owner, and the old one its core (R24, R472, R497). -/
def Access.goes (a : Access) (s : State) : Bool := s.pathUp a.order (min a.core 2560) a.owner a.slice
/-- And back. -/
def Access.returns (a : Access) (s : State) : Bool := s.pathUp a.back a.owner (min a.core 2560) a.slice

/-- What words of a message that carry poison do to what an owner writes from it (R468): the error granules of those words are
poisoned. -/
def State.withMarks (s : State) (w key n : Nat) : State :=
  { s with poison := (((List.range n).filter fun i => w.testBit (i / 8)).map fun i => poisonOf (key + i)).dedup ++ s.poison }

/-- The owner performs the access of a message, when its turn has come. -/
def State.arrive (s : State) (id : Nat) (proxied : Bool) : State :=
  match s.msg id with
  | some (.access a) =>
    if a.proxied == proxied && a.pod.isNone && s.mayArrive id (.access a) && s.accessReady id a then
      let t := (s.unsend id).performAccess a
      match a.kind with
      | .store _ _ => if FMap.get 0 s.netMarks id = 0 then t else t.withMarks (FMap.get 0 s.netMarks id) a.key a.bytes
      | .load | .loadResv | .amo _ _ _ _ | .sc _ _ _ => t
    else s
  | _ => s

/-- A slice or a B-store performs an access (R264, R265). -/
def execRemoteAccessRequest (s : State) : Host.Outcome State Fault Refusal := .next (s.arrive (s.arg 0) false)
/-- A channel performs an access (R268). -/
def execProxiedAccessRequest (s : State) : Host.Outcome State Fault Refusal := .next (s.arrive (s.arg 0) true)
/-- A response reaches the issuing core (R264, R268). -/
def execAccessResponse (s : State) : Host.Outcome State Fault Refusal :=
  match s.msg (s.arg 0) with
  | some (.response a v fl ok) => .next (if s.mayArrive (s.arg 0) (.response a v fl ok) then
      let (c, u) := (s.unsend (s.arg 0)).nextFree
      if FMap.get 0 s.netMarks (s.arg 0) = 0 then (s.unsend (s.arg 0)).fill a v fl ok
      else u.fill a (v ^^^ BitVec.ofNat 512 (Config.freeNat c)) fl ok
    else s)
  | some (.failed a off) => .next (if s.mayArrive (s.arg 0) (.failed a off) then (s.unsend (s.arg 0)).fail a off else s)
  | _ => .next s

/-- The value at the head of a granule's queue goes out (R287, step 2), after plain stores that stand before it; a request that meets an
error mark is refused, and the queue moves to the next (R470). -/
def State.advance (s : State) (g : Nat) : Nat → State
  | 0 => s
  | fuel + 1 =>
    match s.granQ g with
    | [] => s
    | e :: rest =>
      match e.phase with
      | .waiting =>
        match e.acc.kind with
        | .store mask data =>
          match s.marked e.acc with
          | some i => ((s.setGranQ g rest).refuse e.acc i).advance g fuel
          | none => (((s.setGranQ g rest).perform e.acc.key e.acc.bytes mask data.toNat).respond e.acc 0 true).advance g fuel
        | .amo _ _ _ _ =>
          match s.marked e.acc with
          | some i => ((s.setGranQ g rest).refuse e.acc i).advance g fuel
          | none => s.setGranQ g ({ e with phase := .sent (word (s.readN e.acc.key e.acc.bytes)) } :: rest)
        | .sc _ _ _ | .load | .loadResv => s
      | .sent _ | .computed _ _ => s

/-- An atomic reaches the head of its granule's queue: the read half (R287). -/
def execAmoQueueHead (s : State) : Host.Outcome State Fault Refusal :=
  .next (s.advance (s.arg 0) (s.granQ (s.arg 0)).length).giveWaiting

/-- The issuing core's atomic unit computes the new value, and the old one is the result (R287, R311, R312). -/
def execAmoUnitCompute (s : State) : Host.Outcome State Fault Refusal :=
  let g := s.arg 0
  match s.granQ g with
  | e :: rest =>
    match e.phase, e.acc.kind with
    | .sent old, .amo op dbl v c =>
      if !e.acc.returns s then .next s else
      let w := 8 * wordBytes dbl
      let (new, fl) := amoNew op w old.toNat (v.toNat % 2 ^ w) (c.toNat % 2 ^ w)
      .next ((s.setGranQ g ({ e with phase := .computed old (word new) } :: rest)).fill e.acc (old.setWidth 512) fl true false)
    | _, _ => .next s
  | [] => .next s

/-- The new value returns and is written; the next request is served in the same cycle (R287, step 4). -/
def execAmoWriteHalf (s : State) : Host.Outcome State Fault Refusal :=
  let g := s.arg 0
  match s.granQ g with
  | e :: rest =>
    match e.phase with
    | .computed _ new =>
      if !e.acc.goes s then .next s else
      let s := (s.setGranQ g rest).perform e.acc.key e.acc.bytes allBytes new.toNat
      let s := s.modTask e.acc.core e.acc.slot e.acc.taskh fun t => { t with pend := t.pend.filter fun p => p.msg != e.acc.msg }
      .next (s.advance g rest.length).giveWaiting
    | .waiting | .sent _ => .next s
  | [] => .next s

/-- A conditional store reaches the head of its granule's queue (R288, R310). -/
def execScQueueHead (s : State) : Host.Outcome State Fault Refusal :=
  let g := s.arg 0
  match s.granQ g with
  | e :: rest =>
    match e.phase, e.acc.kind with
    | .waiting, .sc _ data _ =>
      let ok := s.holdsPair g e.acc.taskh.toNat
      match s.marked e.acc with
      | some i => .next (((s.setGranQ g rest).refuse e.acc i).advance g rest.length).giveWaiting
      | none =>
        let s := s.setGranQ g rest
        let s := if ok then s.perform e.acc.key e.acc.bytes allBytes data.toNat else s
        .next ((s.respond e.acc 0 ok).advance g rest.length).giveWaiting
    | _, _ => .next s
  | [] => .next s

/-- A long result is written (R64, R65). -/
def execLongResultWritten (s : State) : Host.Outcome State Fault Refusal :=
  .next (s.closeWindow (s.arg 0) (s.arg 1) (s.arg 2))

/-! ## Walks in transit -/

/-- A walking context reaches its owner's arrival buffer, which holds sixteen (R270, R272). -/
def execWalkContextArrival (s : State) : Host.Outcome State Fault Refusal :=
  match s.msg (s.arg 0) with
  | some (.walk w) =>
    if (s.core w.target).arrival.length < 16 && s.mayArrive (s.arg 0) (.walk w) then
      .next ((s.unsend (s.arg 0)).modCore w.target fun k => { k with arrival := k.arrival ++ [w] })
    else .next s
  | _ => .next s

/-- The lowest slot that a light thread may take (R40). -/
def Core.lightSlot (k : Core) : Option Nat :=
  if k.modeNext.isSome then none else
  (List.range (k.mode - 1)).find? fun i => (k.slot i).st == .empty && (FMap.find i k.pins).isNone

/-- The next waiting context that may be placed: a pre-empted one waits (R274). -/
def Core.nextArrival (k : Core) : Option Walker := k.arrival.find? fun w => !k.out.contains w.thr.ctx

end Sys2Proof.Machine
end

