-- ==== Sys2Proof/Machine/Queues.lean ====
section
/-!
DEFINITION. Queue management and what moves entries and counts between the ends of a queue (spec/13, R318 to R326).
-/

namespace Sys2Proof.Machine

/-- A byte of QMAP replaced (R53). -/
def setQmap (q : Word) (n id : Nat) : Word := (q &&& ~~~(0xFF#64 <<< (8 * n))) ||| (word id <<< (8 * n))

/-- The queue belongs to a context from its first binding (R320). -/
def qOwned (id : Nat) : Bool := qIntra id || id == 0x10 || id == 0x11 || id == 0x12 || id == 0x13 || qNet id

/-- `qmap` (R321). A gradient stream that is empty starts its window anew at the sender (R326). -/
def execQmap (n : BitVec 3) (id : BitVec 8) (s : State) :=
  run (.qmap n id) s fun s =>
    let c := s.cur.core
    let i := id.toNat
    let ctx := s.thr.ctx
    let old := s.qid n.toNat
    let put (s : State) : State := (s.modCtl fun k => { k with qmap := setQmap k.qmap n.toNat i }).settle c old
    if i = 0xFF then .ok (put s)
    else if !qExists c s.cur.slot s.here.mode i then .error (bad .illegalOp)
    else if qOwned i then
      let es := qEnds c i
      if es.any fun e => match (s.queue e.1 e.2).owner with
        | some o => o != ctx
        | none => false
      then .error (bad .queueOwner)
      else .ok (put (es.foldl (fun s e => s.modQueue e.1 e.2 fun q => { q with owner := some ctx }) s))
    else if qGrad i && isTile c && s.streamEmpty c i then
      let s := s.modQueue c i fun q => { q with seenFull := 0 }
      .ok (put (s.modQueue (gradCore c) i fun q => { q with owed := q.owed.set c 0, pops := q.pops.set c 0 }))
    else .ok (put s)

/-- A pushing end of a vertical FIFO whose quad is gated or waking (R396). -/
def State.fifoShut (s : State) (c id : Nat) : Bool := (id == 0x10 || id == 0x11) && s.targetGated c id

/-- `qfree` (R322, R396). -/
def execQfree (d : GSpec) (n : BitVec 3) (s : State) :=
  run (.qfree d n) s fun s =>
    let c := s.cur.core
    let id := s.qid n.toNat
    if !qCanPush c id then .error (bad .illegalOp)
    else .ok (s.wr d (if (s.srcQueue id).closed || s.fifoShut c id then BitVec.allOnes 64 else word (s.srcRoom id)))

/-- What `qlen` counts: entries that can be popped here, or at an out-end those pushed and not known to be popped (R322), the pushes that
stand behind a reserved slot among them. -/
def State.qLen (s : State) (c id : Nat) : Nat :=
  if s.fifoShut c id then 0
  else
    let behind := ((s.srcQueue id).resv.filter fun r => r.val.isSome).length
    if id = 0x10 ∨ id = 0x11 ∨ (qGrad id ∧ isTile c) then (s.srcQueue id).seenFull + behind
    else (s.srcHead id).length + if id = 0x1A then behind else 0
/-- `qlen` (R322). -/
def execQlen (d : GSpec) (n : BitVec 3) (s : State) :=
  run (.qlen d n) s fun s => .ok (s.wr d (word (s.qLen s.cur.core (s.qid n.toNat))))

/-- `qpeek` (R322). -/
def execQpeek (d : GSpec) (n : BitVec 3) (s : State) :=
  run (.qpeek d n) s fun s =>
    let c := s.cur.core
    let id := s.qid n.toNat
    if !qCanPop c id then .error (bad .illegalOp) else
    match s.srcHead id with
    | v :: _ => .ok (s.wr d (v.setWidth 64))
    | [] => if s.srcEnded id then .error (bad .queueClosed) else .error .stall

/-- `qtry` (R323). -/
def execQtry (d : GSpec) (n : BitVec 3) (p : PReg) (s : State) :=
  run (.qtry d n p) s fun s =>
    let c := s.cur.core
    let id := s.qid n.toNat
    if !qCanPop c id then .error (bad .illegalOp) else
    if s.srcItems id = 0 then (if s.srcEnded id then .error (bad .queueClosed) else .ok (s.wp p false))
    else if (s.queue c id).marks.getD 0 0 ≠ 0 then .error (.part (s.popQ c id).2 { cause := .memError })
    else
      let (v, s) := s.popQ c id
      .ok ((s.wr d (v.setWidth 64)).wp p true)

/-- `qput` (R323). -/
def execQput (n : BitVec 3) (a : GSpec) (p : PReg) (s : State) :=
  run (.qput n a p) s fun s =>
    let c := s.cur.core
    let id := s.qid n.toNat
    if !qCanPush c id then .error (bad .illegalOp)
    else if (s.srcQueue id).closed || s.targetGated c id then .error (bad .queueClosed)
    else if s.srcFree id = 0 then .ok (s.wp p false)
    else .ok ((s.issuePush id ((s.rg a).setWidth 512)).wp p true)

/-- `qclose` (R324). -/
def execQclose (n : BitVec 3) (s : State) :=
  run (.qclose n) s fun s =>
    .ok ((qEnds s.cur.core (s.qid n.toNat)).foldl (fun s e => s.modQueue e.1 e.2 fun q => { q with closed := true }) s)

/-! ## Entries and counts on their way -/

/-- The head entry that waits at one end moves to the other with its error marks (R468), when that has room. -/
def State.moveEntry (s : State) (c key c' key' cap : Nat) (grad : Bool) : State :=
  match (s.queue c key).items with
  | [] => s
  | v :: rest =>
    if cap ≤ (s.queue c' key').items.length then s else
    let m := (s.queue c key).marks.getD 0 0
    let s := s.modQueue c key fun q => { q with items := rest, marks := q.marks.drop 1 }
    s.modQueue c' key' fun q => { q with
      items := q.items ++ [v], srcs := if grad then q.srcs ++ [c] else q.srcs
      marks := if m = 0 then q.marks else q.marks ++ List.replicate (q.items.length - q.marks.length) 0 ++ [m] }

/-- An entry of a vertical FIFO reaches its popping end (R325), by a detour where the patch table names one (R475): the tile that pushed
it, and 1 for the up FIFO. -/
def execFifoEntryArrival (s : State) : Host.Outcome State Fault Refusal :=
  let c := s.arg 0
  .next (if s.arg 1 = 1 then (if s.portUp c 4 then s.moveEntry c 0x10 (portTile c 4) 0x12 16 false else s)
    else if s.portUp c 5 then s.moveEntry c 0x11 (portTile c 5) 0x13 16 false else s)

/-- A pop of a vertical FIFO becomes known at the pushing end (R325). -/
def execFifoPopReport (s : State) : Host.Outcome State Fault Refusal :=
  let c := s.arg 0
  let (id, c', id') := if s.arg 1 = 1 then (0x10, portTile c 4, 0x12) else (0x11, portTile c 5, 0x13)
  if (s.queue c' id').popped = 0 || !s.portUp c' (if s.arg 1 = 1 then 5 else 4) then .next s else
  let s := s.modQueue c' id' fun q => { q with popped := q.popped - 1 }
  .next (s.modQueue c id fun q => { q with seenFull := q.seenFull - 1 })

/-- An entry of a network queue reaches the neighbour's communication slot (R318): the sending tile and its port. -/
def execNetworkQueueArrival (s : State) : Host.Outcome State Fault Refusal :=
  let c := s.arg 0
  let p := s.arg 1 % 6
  .next (if !s.portUp c p then s else s.moveEntry c (0x120 + p) (portTile c p) (0x20 + (if p % 2 = 0 then p + 1 else p - 1)) 16 false)

/-- An entry of a gradient stream reaches its channel core (R326): the tile and the type. -/
def execGradientEntryArrival (s : State) : Host.Outcome State Fault Refusal :=
  let c := s.arg 0
  let id := 0x28 + s.arg 1 % 4
  .next (if s.pathUp 0 c (gradCore c) then s.moveEntry c id (gradCore c) id 64 true else s)

/-- A window update reaches its sender (R326). -/
def execGradientWindowUpdate (s : State) : Host.Outcome State Fault Refusal :=
  let c := s.arg 0
  let id := 0x28 + s.arg 1 % 4
  if !s.pathUp 0 (gradCore c) c then .next s else
  let n := FMap.get 0 (s.queue (gradCore c) id).owed c
  let s := s.modQueue (gradCore c) id fun q => { q with owed := q.owed.set c 0 }
  .next (s.modQueue c id fun q => { q with seenFull := q.seenFull - n })

end Sys2Proof.Machine
end

