-- ==== Sys2Proof/Machine/Barriers.lean ====
section
/-!
DEFINITION. Barriers (spec/13, R327 to R332) and the gating of quads (R333, R334).
-/

namespace Sys2Proof.Machine

/-! ## Where a barrier stands -/

/-- A quad barrier of a compute tile stands once per quad; a wide barrier, and any of a channel core's, at its core (R327). -/
def barAtQuad (c id : Nat) : Bool := isTile c && decide (id < 448)
/-- A barrier as a core names it. -/
def State.bar (s : State) (c id : Nat) : Barrier :=
  if barAtQuad c id then FMap.get {} (s.quad (quadOf c)).bars id else FMap.get {} (s.core c).wide id
/-- Replace it. -/
def State.setBar (s : State) (c id : Nat) (b : Barrier) : State :=
  if barAtQuad c id then s.modQuad (quadOf c) fun q => { q with bars := q.bars.set id b }
  else s.modCore c fun k => { k with wide := k.wide.set id b }
/-- The slot index by which a barrier knows a slot (R5). -/
def barSlot (c slot : Nat) : Nat := if isTile c then 8 * inQuad c + slot else slot
/-- One bit. -/
def bit32 (j : Nat) : BitVec 32 := 1#32 <<< j

/-- The fault of a barrier instruction by its context, if any (R328): `init` for `bar.init`. -/
def barBusy (b : Barrier) (id ctx : Nat) (init : Bool) : Bool :=
  (decide (448 ≤ id) && b.bound.isNone) ||
  (match b.owner with
  | some o => o != ctx
  | none => !init) ||
  (init && (b.arrivals != 0 || b.pending != 0 || b.credit != 0))

/-- A barrier instruction other than `bar.init`: the barrier and the slot's index, or BAR_BUSY. -/
def withBar (id : BitVec 9) (s : State) (f : Barrier → Nat → State → Res) : Res :=
  let c := s.cur.core
  let b := s.bar c id.toNat
  if barBusy b id.toNat s.thr.ctx false then .error (bad .barBusy) else f b (barSlot c s.cur.slot) s

/-- The scope at which an arrival releases (R296): that of the quad, or of the network a wide barrier is bound to. -/
def Barrier.scope (b : Barrier) (id : Nat) : FScope :=
  if id < 448 then .quad else if b.bound = some 2 then .pod else if b.bound = some 3 then .die else .pkg

/-! ## Instructions -/

/-- `bar.init` (R328, R332). -/
def execBarInit (a : GSpec) (id : BitVec 9) (s : State) :=
  run (.barInit a id) s fun s =>
    let (x, s) := s.rd a
    let c := s.cur.core
    let i := id.toNat
    let b := s.bar c i
    let own : Nat := if isTile c then 0xFF * 2 ^ (8 * inQuad c) else 0xFF
    if barBusy b i s.thr.ctx true then .error (bad .barBusy)
    else if x.extractLsb' 32 32 ≠ 0#32 ∨ (448 ≤ i ∧ x.setWidth 32 &&& ~~~(BitVec.ofNat 32 own) ≠ 0#32) then
      .error (bad .illegalOp)
    else .ok (s.setBar c i { b with
      members := x.setWidth 32, arrivals := 0, pending := 0, credit := 0, waiting := 0, passed := 0, droppers := 0
      joins := 0, owner := some s.thr.ctx })

/-- `bar.join` (R328): the bit enters Membership at the end of the cycle, after a completion (R330). -/
def execBarJoin (id : BitVec 9) (s : State) :=
  run (.barJoin id) s fun s => withBar id s fun b j s =>
    .ok (s.setBar s.cur.core id.toNat { b with joins := b.joins ||| bit32 j })

/-- An arrival, which may also drop (R328). -/
def arrival (drop : Bool) (id : BitVec 9) (s : State) : Res :=
  withBar id s fun b j s =>
    if !b.members.getLsbD j || b.waiting.getLsbD j then .error (bad .barOrder)
    else s.releaseAt (b.scope id.toNat) >>= fun s => .ok (s.setBar s.cur.core id.toNat { b with
      arrivals := b.arrivals ||| bit32 j, waiting := b.waiting ||| bit32 j, passed := b.passed &&& ~~~bit32 j
      droppers := if drop then b.droppers ||| bit32 j else b.droppers })
/-- `bar.arr` (R328). -/
def execBarArr (id : BitVec 9) (s : State) := run (.barArr id) s (arrival false id)
/-- `bar.drop` (R328). -/
def execBarDrop (id : BitVec 9) (s : State) := run (.barDrop id) s (arrival true id)

/-- `bar.leave` (R328). -/
def execBarLeave (id : BitVec 9) (s : State) :=
  run (.barLeave id) s fun s => withBar id s fun b j s =>
    if !b.members.getLsbD j then .error (bad .barOrder)
    else s.releaseAt (b.scope id.toNat) >>= fun s => .ok (s.setBar s.cur.core id.toNat { b with
      members := b.members &&& ~~~bit32 j, arrivals := b.arrivals &&& ~~~bit32 j, waiting := b.waiting &&& ~~~bit32 j
      passed := b.passed &&& ~~~bit32 j, droppers := b.droppers &&& ~~~bit32 j })

/-- Post expected bytes (R331); none when Pending would pass 2^48 − 1. -/
def Barrier.post (b : Barrier) (e : Nat) : Option Barrier :=
  let u := min e b.credit
  if 2 ^ 48 - 1 < b.pending + (e - u) then none
  else some { b with credit := b.credit - u, pending := b.pending + (e - u) }
/-- A copy engine delivers bytes against the barrier (R331). -/
def Barrier.deliver (b : Barrier) (n : Nat) : Barrier :=
  let u := min n b.pending
  { b with pending := b.pending - u, credit := min (2 ^ 48 - 1) (b.credit + (n - u)) }

/-- `bar.exp` (R331). -/
def execBarExp (a : GSpec) (id : BitVec 9) (s : State) :=
  run (.barExp a id) s fun s =>
    let (x, s) := s.rd a
    withBar id s fun b _ s =>
      match b.post x.toNat with
      | some b => .ok (s.setBar s.cur.core id.toNat b)
      | none => .error (bad .barOverflow)

/-- `bar.wait` (R329). -/
def execBarWait (id : BitVec 9) (s : State) :=
  run (.barWait id) s fun s => withBar id s fun b j s =>
    if b.waiting.getLsbD j then .ok (s.park (.barrier id.toNat b.phase true))
    else if b.passed.getLsbD j then .ok (s.setBar s.cur.core id.toNat { b with passed := b.passed &&& ~~~bit32 j })
    else if b.members.getLsbD j then .error (bad .barOrder)
    else .ok (s.park (.barrier id.toNat b.phase false))

/-- `bar.try` (R329). -/
def execBarTry (d : PReg) (id : BitVec 9) (s : State) :=
  run (.barTry d id) s fun s => withBar id s fun b j s =>
    if !b.waiting.getLsbD j && b.passed.getLsbD j then
      .ok ((s.setBar s.cur.core id.toNat { b with passed := b.passed &&& ~~~bit32 j }).wp d true)
    else .ok (s.wp d false)

/-- `bar.bits` (R328). -/
def execBarBits (d : GSpec) (id : BitVec 9) (s : State) :=
  run (.barBits d id) s fun s => withBar id s fun b _ s => .ok (s.wr d (b.arrivals ++ b.members))

/-! ## Completion -/

/-- The thread has arrived and parks on the barrier; an observer has not (R329). -/
def Thread.waitsBar (t : Thread) (id : Nat) : Bool :=
  match t.st with
  | .parked (.barrier i _ arrived) _ => i == id && arrived
  | .empty | .running | .stalled | .parked _ _ => false

/-- The slot indices whose arrived threads are parked on a barrier of a core's quad, or of a core: in a slot, swapped out or in the pool. -/
def State.barWaiters (s : State) (cores : List Nat) (id : Nat) : BitVec 32 :=
  cores.foldl (fun m c => (List.range 8).foldl (fun m i =>
    if (s.slotThreads c i).any fun t => t.waitsBar id then m ||| bit32 (barSlot c i) else m) m) 0

/-- The phase completes (R330): droppers leave, a Waiting slot whose thread is parked goes on and is Idle (R329), and every other
Waiting slot has Passed. -/
def Barrier.complete (b : Barrier) (parked : BitVec 32) : Barrier :=
  { b with
    members := b.members &&& ~~~b.droppers, arrivals := 0, droppers := 0
    passed := b.passed ||| (b.waiting &&& ~~~parked), waiting := 0, phase := b.phase + 1, sent := false }

/-- The end of a cycle for a barrier: the bytes delivered in it, completion (of a wide barrier: its arrival, where it `sends` any,
R332), then joins, then the loss of its owner (R328, R330). `named` says that a live copy names it. -/
def Barrier.endCycle (b : Barrier) (parked : BitVec 32) (local_ sends named : Bool) : Barrier :=
  let b := { b.deliver b.got with got := 0 }
  let here := b.arrivals == b.members && b.pending == 0
  let b := if local_ && b.members != 0 && here then b.complete parked else { b with sent := b.sent || (sends && here) }
  let b := { b with members := b.members ||| b.joins, joins := 0 }
  if b.members == 0 && b.arrivals == 0 && b.pending == 0 && b.credit == 0 && !named then { b with owner := none } else b

/-- A live copy names a barrier of a core. -/
def State.barNamed (s : State) (cores : List Nat) (id : Nat) : Bool :=
  s.xfers.any fun x => x.live && x.bar == some id && cores.contains x.core

/-- The network of a wide barrier id (R332): its scope as `Barrier.bound` codes it, and at die scope the layer, 8 for the channel
cores of the screed. -/
def netKey (id scope die : Nat) : Nat := id + 512 * (16 * scope + if scope = 3 then die else 0)
/-- The network of a core's wide barrier, if it is bound. -/
def State.netOf (s : State) (c id : Nat) : Option Nat :=
  (FMap.get {} (s.core c).wide id).bound.map fun sc => netKey id sc (if isTile c then tileZ c else 8)
/-- A network. -/
def State.wideNet (s : State) (n : Nat) : WideNet := FMap.get {} s.wideNets n
/-- The core is a member of its wide barrier's network (R332). -/
def State.wideMember (s : State) (c id : Nat) : Bool :=
  match s.netOf c id with
  | none => false
  | some n => (s.wideNet n).members.contains c

/-- The end of a cycle for every barrier. -/
def State.endBarriers (s : State) : State :=
  { s with
    quads := s.quads.map fun p =>
      (p.1, { p.2 with bars := p.2.bars.map fun b =>
        (b.1, b.2.endCycle (s.barWaiters (quadCores p.1) b.1) true false (s.barNamed (quadCores p.1) b.1)) })
    cores := s.cores.map fun p =>
      (p.1, { p.2 with wide := p.2.wide.map fun b =>
        (b.1, b.2.endCycle (s.barWaiters [p.1] b.1) (decide (b.1 < 448)) (s.wideMember p.1 b.1) (s.barNamed [p.1] b.1)) }) }

/-- A phase completes in its network when every member has arrived (R332); at pod scope the other cubes have members too, so it
completes only where `all_` says that theirs have arrived. -/
def WideNet.settle (n : WideNet) (all_ : Bool) : WideNet :=
  if all_ && n.members != [] && n.members.all n.arrived.contains then
    { n with arrived := n.arrived.filter fun c => !n.members.contains c, owing := n.members }
  else n

/-- Where a wide barrier's network stands (R332, R497): a die's at its dispatcher's tile, the screed's, the package's and the pod's in the
screed (log entry 126). -/
def wideHub (c : Nat) (bound : Option Nat) : Nat := if bound = some 3 ∧ isTile c then dieCore (tileZ c) else 2560

/-- A member tile's arrival reaches the network of its wide barrier (R332), as a class 3 message (R472): the core and the id. -/
def execWideBarrierArrival (s : State) : Host.Outcome State Fault Refusal :=
  let c := s.arg 0
  let id := s.arg 1
  let b := FMap.get {} (s.core c).wide id
  match s.netOf c id with
  | none => .next s
  | some n =>
    let w := s.wideNet n
    if b.sent ∧ !w.arrived.contains c ∧ !w.owing.contains c ∧ w.members.contains c ∧ s.pathUp 0 c (wideHub c b.bound) then
      .next { s with wideNets := s.wideNets.set n (({ w with arrived := w.arrived ++ [c] } : WideNet).settle (b.bound != some 2)) }
    else .next s

/-- The completion of a wide phase reaches a member tile (R332): the core and the id. At pod scope a third operand of 1 says that the
members of the other cubes have arrived. -/
def execWideBarrierCompletion (s : State) : Host.Outcome State Fault Refusal :=
  let c := s.arg 0
  let id := s.arg 1
  let b := FMap.get {} (s.core c).wide id
  match s.netOf c id with
  | none => .next s
  | some n =>
    let w := (s.wideNet n).settle (b.bound != some 2 || s.arg 2 == 1)
    if w.owing.contains c && s.pathUp 0 (wideHub c b.bound) c then
      .next { s.modCore c fun k => { k with wide := k.wide.set id (b.complete (s.barWaiters [c] id)) } with
        wideNets := s.wideNets.set n { w with owing := w.owing.filter fun x => x != c } }
    else .next s

/-- The runtime gives a network its list of member cores (R332). -/
def State.setMembers (s : State) (n : Nat) (l : List Nat) : State :=
  { s with wideNets := s.wideNets.set n { s.wideNet n with members := l } }

/-! ## Quad gating -/

/-- The key of the ring of a kind through a tile (R358). -/
def ringKey (kind c : Nat) : Nat :=
  match kind with
  | 0 => tileZ c * 16 + tileY c
  | 1 => 4096 + tileZ c * 16 + tileX c
  | _ => 8192 + tileY c * 16 + tileX c
/-- The position of a tile on its ring of a kind. -/
def ringPos (kind c : Nat) : Nat :=
  match kind with
  | 0 => tileX c
  | 1 => tileY c
  | _ => tileZ c
/-- A ring. -/
def State.ring (s : State) (r : Nat) : Ring := FMap.get {} s.rings r
/-- A core holds something of a ring (R372): a tile, a busy buffer, a delivery pair. -/
def State.ringBusyAt (s : State) (c : Nat) : Bool :=
  FMap.get [] s.deliveries c != [] ||
  [0, 1, 2].any fun kind =>
    let g := s.ring (ringKey kind c)
    let p := ringPos kind c
    (FMap.find p g.poles).isSome || (FMap.find p g.perches).isSome || (FMap.find p g.bufPole).isSome ||
    (FMap.find p g.bufPerch).isSome

/-- A line lies in a tile's slice or B-store. -/
def lineOf (c line : Nat) : Bool :=
  line / 2 ^ 16 == sliceKey c 0 / 2 ^ 22 || line / 2 ^ 17 == bstoreKey c 0 / 2 ^ 23

/-- What R334, R372 and R393 ask of one tile of a quad; the pops of its FIFOs have been reported by then (R325), and no walk is on its
way to it (R273). -/
def State.quiet (s : State) (c : Nat) : Bool :=
  let empty (e : Nat × Nat) : Bool := s.endEmpty e.1 e.2
  [(portTile c 5, 0x10), (c, 0x12), (portTile c 4, 0x11), (c, 0x13)].all empty &&
  (s.queue c 0x12).popped == 0 && (s.queue c 0x13).popped == 0 && ((List.range 8 ++ (List.range 6).map (0x20 + ·)).all fun id => empty (c, id)) &&
  ((s.core c).slots.all fun p => p.2.st == .empty) && (s.core c).arrival.isEmpty &&
  ((s.core c).pool.all fun e => match e with
    | .new _ => true
    | .back _ _ _ _ => false) &&
  (s.away.all fun a => a.core != c) && (s.net.all fun m => match m.2 with
    | .walk w => w.target != c
    | _ => true) && !s.ringBusyAt c && (s.collSt.all fun p => p.1 / 16384 != c) &&
  s.xfers.all fun x => !(x.live && (x.rlocks.any (lineOf c) || x.wlocks.any fun l => lineOf c l.1))

/-- Every condition of R334 and R372 holds. -/
def State.gateReady (s : State) (q : Nat) : Bool := (List.range 4).all fun i => s.quiet (quadTile q i)

end Sys2Proof.Machine
end

