-- ==== Sys2Proof/Machine/Skim.lean ====
section
/-!
DEFINITION. The skim stack: its entries, their places in the region, spill and refill (R234 to R242), and the stack instructions
(R250 to R255).
-/

namespace Sys2Proof.Machine

/-! ## Entries in the region -/

/-- Capacity in entries (R239). -/
def Skim.capacity (k : Skim) : Nat := min (2 ^ 32 - 1) ((k.lim.toNat - k.base.toNat) / 96)

/-- One 32-byte part of an entry's place: checked as an access of the stack; a granule not held is out of range (R420), and a place in a
range that a copy has locked, for reading too, is refused to spills and refills alike (R241). -/
def State.skimSpot (s : State) (core ctx ea : Nat) (write : Bool) : Except Stop (Nat × State) := do
  match whereIs ea with
  | none => .error (badAt .badAperture ea)
  | some w =>
    match s.check45 core ctx ea w write false with
    | .error (.fault f) => .error (.fault (if f.cause = .granule then { f with cause := .matrixRange } else f))
    | .error e => .error e
    | .ok (sp, s) =>
      if s.rangeLocked sp.loc.key true then .error (badAt .rangeLock ea)
      else match s.poisonHit sp.loc.key 32 allBytes write with
        | some i => .error (badAt .memError (ea + i))
        | none => .ok (sp.loc.key, s)

/-- The three parts of an entry's place (R240). -/
def State.skimSpots (s : State) (core ctx : Nat) (base : Word) (e : Nat) (write : Bool) :
    Except Stop ((Nat × Nat × Nat) × State) := do
  let ea := base.toNat + 96 * e
  let (a, s) ← s.skimSpot core ctx ea write
  let (b, s) ← s.skimSpot core ctx (ea + 32) write
  let (c, s) ← s.skimSpot core ctx (ea + 64) write
  .ok ((a, b, c), s)

/-- The handle of the ordered task whose stack it is, when it has a slot: its own spills do not abort it (R257, R291). -/
def State.skimTask (s : State) (ctx core slot : Nat) : Option Nat :=
  let t := s.thrAt core slot
  if t.st != .empty && t.ctx == ctx then some t.ctl.taskh.toNat else none

/-- Words of an entry that carry poison take it to their places (R468). -/
def State.poisonPlace (s : State) (mask : Nat) (ks : List Nat) : State :=
  { s with poison := (((List.range 12).filter mask.testBit).map fun i => poisonOf (ks.getD (i / 4) 0 + 8 * (i % 4))).dedup ++ s.poison }

/-- Write an entry to its place, all of it at one point (R279): it waits while a queue stands at one of its granules. -/
def State.skimStore (s : State) (ctx core slot e : Nat) (img : BitVec 768) : Except Stop State := do
  let ((a, b, c), s) ← s.skimSpots core ctx (s.skim ctx core slot).base e true
  let m : BitVec 64 := 0xFFFFFFFF
  if !([a, b, c].all fun key => s.granFree key 32 m) then .error .stall else
  let k := s.skim ctx core slot
  let old := BitVec.ofNat 768 (s.readN a 32 + 2 ^ 256 * s.readN b 32 + 2 ^ 512 * s.readN c 32)
  let s := s.setSkim ctx core slot { k with prior := (e, old) :: k.prior.filter (fun q => q.1 != e), bad := FMap.del e k.bad }
  let by_ := s.skimTask ctx core slot
  let s := ((s.storeTo a 32 m (img.toNat % 2 ^ 256) by_).storeTo b 32 m (img.toNat / 2 ^ 256 % 2 ^ 256) by_).storeTo c 32 m
    (img.toNat / 2 ^ 512) by_
  .ok (if FMap.get 0 k.bad e = 0 then s else s.poisonPlace (FMap.get 0 k.bad e) [a, b, c])

/-- Read an entry from its place, or from the save area. -/
def State.skimLoad (s : State) (ctx core slot e : Nat) : Except Stop (BitVec 768 × State) := do
  let k := s.skim ctx core slot
  match k.saved.find? fun p => p.1 == e with
  | some p => .ok (p.2, s.setSkim ctx core slot { k with saved := k.saved.filter fun q => q.1 != e })
  | none =>
    let ((a, b, c), s) ← s.skimSpots core ctx k.base e false
    if [a, b, c].any (fun key => (List.range 4).any fun i => !(s.granQ (key / 8 + i)).isEmpty) then .error .stall else
    .ok (BitVec.ofNat 768 (s.readN a 32 + 2 ^ 256 * s.readN b 32 + 2 ^ 512 * s.readN c 32),
      [a, b, c].foldl State.countLine s)

/-- Spill the oldest entry on core (R241). -/
def State.spillOldest (s : State) (ctx core slot : Nat) : Except Stop State :=
  match (s.skim ctx core slot).onCore.getLast? with
  | none => .ok s
  | some (e, img) => (s.skimStore ctx core slot e img).map fun s =>
      let k := s.skim ctx core slot
      s.setSkim ctx core slot { k with onCore := k.onCore.dropLast }

/-- The top entry, refilled when it is not on core (R241). One on core with a word that carries poison is an error as a refill that meets
poison is (R468, R470). -/
def State.skimTop (s : State) (ctx core slot : Nat) : Except Stop (BitVec 768 × State) :=
  let k := s.skim ctx core slot
  match k.onCore with
  | (e, img) :: _ =>
    if e + 1 = k.depth then (if FMap.get 0 k.bad e = 0 then .ok (img, s) else .error (bad .memError))
    else s.skimLoad ctx core slot (k.depth - 1)
  | [] => s.skimLoad ctx core slot (k.depth - 1)

/-- No queue stands at a granule of the places of the entries on core (R279, R287): what spills them all waits for it. -/
def State.spillFree (s : State) (ctx core slot : Nat) : Bool :=
  (s.skim ctx core slot).onCore.all fun p => match s.skimStore ctx core slot p.1 p.2 with
    | .error .stall => false
    | .ok _ | .error _ => true

/-- Spill every entry on core; one whose place faults goes to the context's save area (R236). -/
def State.spillAll (s : State) (ctx core slot : Nat) : State :=
  let k := s.skim ctx core slot
  let s := s.setSkim ctx core slot { k with onCore := [] }
  k.onCore.foldr (fun p s =>
    match s.skimStore ctx core slot p.1 p.2 with
    | .ok s => s
    | .error _ =>
      let k := s.skim ctx core slot
      s.setSkim ctx core slot { k with saved := p :: k.saved.filter fun q => q.1 != p.1 }) s

/-- Spill the entries that other contexts hold in a slot (R236). -/
def State.spillOthers (s : State) (ctx core slot : Nat) : State :=
  (List.range 64).foldl (fun s c =>
    if c ≠ ctx ∧ (s.skim c core slot).onCore ≠ [] then s.spillAll c core slot else s) s

/-- Background spill of a core's slot (R241): core, slot, context. -/
def execSkimBackgroundSpill (s : State) : Host.Outcome State Fault Refusal :=
  let (c, i, x) := (s.arg 0, s.arg 1, s.arg 2)
  if (s.skim x c i).onCore.length < 7 then .next s else
  match s.spillOldest x c i with
  | .ok s => .next s
  | .error _ => .next s

/-- Background refill (R241): four or fewer on core, deeper entries in the region. -/
def execSkimBackgroundRefill (s : State) : Host.Outcome State Fault Refusal :=
  let (c, i, x) := (s.arg 0, s.arg 1, s.arg 2)
  let k := s.skim x c i
  let n := k.onCore.length
  if 4 < n ∨ k.depth ≤ n ∨ (k.onCore.any fun p => decide (k.depth ≤ p.1) || decide (p.1 + n < k.depth)) then .next s else
  match s.skimLoad x c i (k.depth - n - 1) with
  | .ok (img, s) =>
    let k := s.skim x c i
    .next (s.setSkim x c i { k with onCore := k.onCore ++ [(k.depth - n - 1, img)] })
  | .error _ => .next s

/-! ## Depth and marks -/

/-- The depth falls: marks above it become invalid, and LastValid with the mark it names (R250). -/
def Skim.fall (k : Skim) (d : Nat) : Skim :=
  let marks := k.marks.filter fun p => decide (p.2 ≤ d)
  { k with
    depth := d, marks := marks, onCore := k.onCore.filter (fun p => decide (p.1 < d))
    saved := k.saved.filter (fun p => decide (p.1 < d)), prior := k.prior.filter fun p => decide (p.1 < d)
    lastValid := k.lastValid && marks.any fun p => p.1 == k.last }

/-- The issuing thread's stack. -/
def State.mySkim (s : State) : Skim := s.skim s.thr.ctx s.cur.core s.cur.slot
/-- Replace it. -/
def State.setMySkim (s : State) (k : Skim) : State := s.setSkim s.thr.ctx s.cur.core s.cur.slot k

/-- `skim.mark` (R251). -/
def execSkimMark (id : BitVec 5) (s : State) :=
  run (.skimMark id) s fun s =>
    let k := s.mySkim
    .ok (s.setMySkim { k with marks := k.marks.set id.toNat k.depth, last := id.toNat, lastValid := true })

/-- `skim.cut` (R252, R257). -/
def execSkimCut (id : BitVec 5) (s : State) :=
  run (.skimCut id) s fun s =>
    let k := s.mySkim
    if s.thr.speculative then .error (bad .skimOrder) else
    match FMap.find id.toNat k.marks with
    | some d => if k.depth < d then .error (bad .skimOrder) else .ok (s.setMySkim (k.fall d))
    | none => .error (bad .skimOrder)

/-- `skim.dep` (R254). -/
def execSkimDep (d : GSpec) (s : State) := run (.skimDep d) s fun s => .ok (s.wr d (word s.mySkim.depth))

/-- `skim.chk` (R253). -/
def execSkimChk (d : PReg) (id : BitVec 5) (s : State) :=
  run (.skimChk d id) s fun s => .ok (s.wp d (FMap.find id.toNat s.mySkim.marks == some s.mySkim.depth))

/-- Place the region (R238, R241, R255): the faults in their order. A region that is not empty must lie where it may. -/
def State.skimArea (s : State) (base lim : Word) : Res :=
  let k := s.mySkim
  if s.srcSkim.depth ≠ 0 ∨ s.thr.speculative then .error (bad .skimOrder)
  else if base.toNat % 64 ≠ 0 ∨ lim.toNat % 64 ≠ 0 then .error (bad .misaligned)
  else if lim < base ∨ !areaOk base lim then .error (bad .matrixRange)
  else .ok (s.setMySkim { k with base := base, lim := lim })
/-- `skim.area` (R255). -/
def execSkimArea (a b : GSpec) (s : State) :=
  run (.skimArea a b) s fun s => s.skimArea (s.rg a) (s.rg b)

end Sys2Proof.Machine
end

