-- ==== Sys2Proof/Machine/Tasks.lean ====
section
/-!
DEFINITION. Time, task and launch instructions (spec/14_logical_time.md, R347 to R357; `launch`, R404), the end of a task (R161,
R431), home records (R353), the flushing of counts and the views of frontiers (R344, R346), and the commit of ordered tasks
(R356).
-/

namespace Sys2Proof.Machine

/-! ## Moves -/

/-- The issuing thread's launch. -/
def State.myLaunch (s : State) : Launch := s.launch s.thr.launch

/-- `lt.get` (R347). -/
def execLtGet (d : GSpec) (c : BitVec 2) (s : State) :=
  run (.ltGet d c) s fun s => .ok (s.wr d (word (counter s.src.ctl.ltime c.toNat)))

/-- Move the thread's own pointstamp (R348): the increment first. DEDUCED (log entry 103): the old pointstamp goes only once every
earlier access has been performed at `.pkg`, as frontiers that pass it show them (R295, R354). -/
def State.moveTo (s : State) (st : Nat) (t : Word) : Res := do
  let s ← s.irrevocable
  let s ← s.releaseAt .pkg
  let c := s.thr.ctl
  let s ← s.countStall st t 1
  let s ← s.countStall (stageOf c) c.ltime (-1)
  let w := word (st + 1024 * (s.myLaunch.depth st - 1))
  .ok (s.modCtl fun k => { k with ltime := t, stage := putField k.stage w 0xC3F })

/-- A move along the one edge of a kind from the thread's stage (R348). -/
def moveAlong (kind : Nat) (s : State) : Res :=
  let c := s.thr.ctl
  let st := stageOf c
  match s.myLaunch.edges.filter fun e => e.1 == st && e.2.2.1 == kind with
  | [e] =>
    match summary (s.myLaunch.depth st) kind 0 c.ltime with
    | some t => s.moveTo e.2.1 t
    | none => .error (bad .timeOverflow)
  | _ => .error (bad .timeEdge)

/-- `lt.enter` (R348). -/
def execLtEnter (s : State) := run .ltEnter s (moveAlong 1)
/-- `lt.leave` (R348). -/
def execLtLeave (s : State) := run .ltLeave s (moveAlong 2)
/-- `lt.step` (R348). -/
def execLtStep (s : State) :=
  run .ltStep s fun s =>
    let c := s.thr.ctl
    match bump c.ltime (s.myLaunch.depth (stageOf c) - 1) with
    | some t => s.moveTo (stageOf c) t
    | none => .error (bad .timeOverflow)

/-! ## Placement -/

/-- The owner core of an address, resolved on a core under a context; none in no aperture or in the pod aperture (R408). -/
def State.ownerOf (s : State) (core ctx ea : Nat) : Except Stop (Option Nat × State) :=
  match whereIs ea with
  | none => .ok (none, s)
  | some (.pod _ _) => .ok (none, s)
  | some (.global va) => (s.translate core ctx va false false).map fun (pa, s) => (some (s.hbmLoc pa).owner, s)
  | some (.slice t _) => .ok (some t, s)
  | some (.bstore t _) => .ok (some t, s)

/-- The layer of a core is in a span; the screed is in every one (R408). -/
def inSpan (span core : Nat) : Bool := !isTile core || span.testBit (tileZ core)

/-- A placement of a descriptor or packet, resolved; none when it is bad (R408). -/
def State.place (s : State) (core ctx span kind num ea : Nat) : Except Stop (Option Place × State) :=
  let ok (b : Bool) : Except Stop (Option Place × State) :=
    .ok (if b then some { kind := kind, num := num } else none, s)
  match kind with
  | 0 => ok true
  | 1 => ok (decide (num ≤ 2559) && inSpan span num)
  | 2 => ok (isTile num && tileX num % 2 == 0 && tileY num % 2 == 0 && inSpan span num)
  | 3 => ok (decide (num ≤ 7) && span.testBit num)
  | 4 => (s.ownerOf core ctx ea).map fun (o, s) => (match o with
      | some c => if inSpan span c then some { kind := kind, addr := word ea, owner := c } else none
      | none => none, s)
  | _ => ok false

/-! ## Creating tasks -/

/-- Bytes of a descriptor, little-endian. -/
def field (bs : List Byte) (at_ n : Nat) : Nat := leNat ((bs.drop at_).take n)

/-- Six argument words. -/
def argWords (bs : List Byte) (at_ n : Nat) : List Word := (List.range n).map fun i => word (field bs (at_ + 8 * i) 8)

/-- The explicit time of a child (R351). -/
def State.checkTime (s : State) (st : Nat) (t : Word) : Except Stop Unit :=
  let c := s.thr.ctl
  let l := s.myLaunch
  match l.reach (stageOf c) c.ltime st with
  | none => .error (bad .timeOrder)
  | some r =>
    if t.ult r || !fitsDepth t (l.depth st) then .error (bad .timeOrder)
    else if t = noTime then .error (bad .timeOverflow) else .ok ()

/-- The accesses of its creator that a created task waits for: those not yet performed at `.pkg` (R296, R351). It waits for those too that
other threads have released to its creator, since happens-before is transitive (R284). -/
def Thread.owes (t : Thread) : List Nat := (t.pend.filter fun p => !p.pod).map fun p => p.msg

/-- The time of a derived child (R351). -/
def State.childTime (s : State) (st : Nat) : Except Stop Word :=
  let c := s.thr.ctl
  let l := s.myLaunch
  if st = stageOf c then .ok c.ltime else
  match l.edges.filter fun e => e.1 == stageOf c && e.2.1 == st with
  | [e] =>
    match summary (l.depth (stageOf c)) e.2.2.1 e.2.2.2 c.ltime with
    | some t => .ok t
    | none => .error (bad .timeOverflow)
  | _ => .error (bad .timeEdge)

/-- The lowest layer of a span (R407). -/
def lowestLayer (span : Nat) : Nat := ((List.range 8).find? fun z => span.testBit z).getD 0

/-- The layer whose dispatcher takes a task; 8 is the screed's (R406, R407). -/
def State.layerOf (s : State) (t : Task) : Nat :=
  let span := (s.launch t.launch).span
  let of (c : Nat) : Nat := if isTile c then tileZ c else 8
  match t.place.kind with
  | 1 | 2 => of t.place.num
  | 3 => t.place.num
  | 4 => of t.place.owner
  | _ =>
    match t.origin with
    | some c => if isTile c && span.testBit (tileZ c) then tileZ c else lowestLayer span
    | none => lowestLayer span

/-- A die dispatcher and the runtime's overflow area behind it are full (R406). -/
def State.dispatchFull (s : State) (z : Nat) : Bool :=
  decide (Config.taskArea + 4096 ≤ (FMap.get [] s.dispatch z).length +
    (s.spawned.filter fun t => s.layerOf t == z).length)

/-- `spawn`, `ord.spawn` and their light forms (R351). DEDUCED (log entry 104): a spawn of a context that is not valid (R418) fails as
BAD_TASK. -/
def spawnBody (ord light : Bool) (d a : GSpec) (l : Look) (s : State) : Res := do
  let (ea, s) := s.rd a
  if ea.toNat % 64 ≠ 0 then .error (bad .misaligned ea) else
  let (bs, s) ← s.bulk ea.toNat 2
  let st := field bs 64 1
  let flags := field bs 65 1
  if 2 ≤ flags ∨ field bs 67 1 ≠ 0 ∨ field bs 70 2 ≠ 0 ∨ field bs 80 48 ≠ 0 ∨ s.myLaunch.stages.length ≤ st then
    .error (bad .badTask) else
  let (pl, s) ← s.place s.cur.core s.thr.ctx s.myLaunch.span (field bs 66 1) (field bs 68 2) (field bs 72 8)
  match pl with
  | none => .error (bad .badTask)
  | some pl =>
    let t ← if flags = 0 then s.childTime st else
      (s.checkTime st (word (field bs 56 8))).map fun _ => word (field bs 56 8)
    let c := s.thr.ctl
    if ord && ordered c && st == stageOf c && t == c.ltime then .error (bad .timeOrder) else
    if !s.ctxValid s.thr.ctx then .error (bad .badTask) else
    let s ← s.irrevocable
    if s.dispatchFull (s.layerOf { launch := s.thr.launch, place := pl, origin := some s.cur.core }) then .error .stall else
    let s ← s.countStall st t 1
    let (ds, s) := s.longDest d
    let (wid, s) := s.openWindow l.toNat ds 1 [s.longWrite d 0]
    let task : Task := {
      ctx := s.thr.ctx, launch := s.thr.launch, entry := word (field bs 0 8), args := argWords bs 8 6
      stage := st, time := t, ordered := ord, light := light, place := pl
      reply := some (s.cur.core, s.cur.slot, wid), origin := some s.cur.core
      after := s.thr.owes ++ (s.owedBy s.cur.core).map Prod.snd }
    .ok { s with spawned := s.spawned ++ [task] }

/-- `spawn` (R351). -/
def execSpawn (d a : GSpec) (l : Look) (s : State) := run (.spawn d a l) s (spawnBody false false d a l)
/-- `spawn.light` (R351). -/
def execSpawnLight (d a : GSpec) (l : Look) (s : State) := run (.spawnLight d a l) s (spawnBody false true d a l)
/-- `ord.spawn` (R351). -/
def execOrdSpawn (d a : GSpec) (l : Look) (s : State) := run (.ordSpawn d a l) s (spawnBody true false d a l)
/-- `ord.spawn.light` (R351). -/
def execOrdSpawnLight (d a : GSpec) (l : Look) (s : State) := run (.ordSpawnLight d a l) s (spawnBody true true d a l)

/-- A device packet breaks R400 for its kind. -/
def packetBad (bs : List Byte) : Bool :=
  let kind := field bs 0 1
  let pk := field bs 6 1
  if kind = 1 then
    decide (4 ≤ field bs 1 1) || decide (2048 ≤ field bs 2 2) || decide (8 ≤ field bs 4 1) || field bs 5 1 == 0 ||
    (decide (4 < pk) && pk != 0xFF) || field bs 8 8 % 64 != 0 ||
    ((pk == 0 || pk == 0xFF) && field bs 16 8 != 0) || field bs 60 4 != 0
  else
    field bs 1 5 != 0 || decide (4 < pk) || (pk == 0 && field bs 16 8 != 0) || field bs 32 8 != 0 || field bs 56 8 != 0

/-- Packets of a device queue, and of overflow regions (R403). -/
def State.deviceRoom (s : State) (prio ctx : Nat) : Option Bool :=
  if s.devQ.length < 4096 && !(s.ovf.any fun p => p.prio == prio) then some true
  else if (s.ovf.filter fun p => p.ctx == ctx).length < (s.cwGet (ctxOff ctx + 48)).toNat % 2 ^ 32 then some false
  else none

/-- A packet goes into its context's overflow region (R403), into the first entry that is free; the region is taken to lie at a
physical address of HBM: DESIGN CHOICE (log entry 38). -/
def State.overflow (s : State) (p : Packet) : State :=
  let at_ (n : Nat) : Nat := ((s.cwGet (ctxOff p.ctx + 40)).toNat + 64 * n) % 2 ^ 40
  let used := (s.ovf.filter fun q => q.ctx == p.ctx).map Packet.spill
  let n := ((List.range (used.length + 1)).find? fun n => !used.contains (at_ n)).getD 0
  let s := s.storeTo (s.hbmLoc (at_ n)).key 64 allBytes (leNat p.bytes)
  { s with ovf := s.ovf ++ [{ p with spill := at_ n }] }

/-- Time in the screed's quarter cycles, by which packets age (R405). -/
def State.screedNow (s : State) : Nat := s.scr4

/-- `launch` (R404): the predicate is false when the packet is taken, true when there is no room. -/
def execLaunch (d : PReg) (a : GSpec) (l : Look) (s : State) :=
  run (.launch d a l) s fun s => do
    let (ea, s) := s.rd a
    if ea.toNat % 64 ≠ 0 then .error (bad .misaligned ea) else
    let s ← s.releaseAt .pkg
    let (bs, s) ← s.bulk ea.toNat 1
    let kind := field bs 0 1
    let st := field bs 7 1
    if (kind ≠ 1 ∧ kind ≠ 2) ∨ packetBad bs ∨ (kind = 2 ∧ (s.myLaunch.stages.length ≤ st ∨ !s.ctxValid s.thr.ctx)) then .error (bad .badTask) else
    let t := word (field bs 24 8)
    let c := s.cur.core
    let l0 := s.myLaunch
    let (pl, s) ← if kind = 2 then s.place c s.thr.ctx l0.span (field bs 6 1) (field bs 16 8) (field bs 16 8)
      else .ok (some {}, s)
    match pl with
    | none => .error (bad .badTask)
    | some pl =>
      if kind = 2 then s.checkTime st t else .ok ()
      let s ← s.irrevocable
      let done (s : State) (busy : Bool) : Res := .ok (s.openWindow l.toNat [.p d.toNat] 0 [.p d.toNat busy]).2
      let p : Packet := {
        bytes := bs, device := true, queue := l0.queue, ctx := s.thr.ctx, prio := l0.prio, parent := s.thr.launch
        origin := c, since := s.screedNow, owner := pl.owner }
      match s.deviceRoom l0.prio s.thr.ctx with
      | none => done s true
      | some direct =>
        let s := if direct then { s with devQ := s.devQ ++ [p] } else s.overflow p
        if kind = 2 then (s.countStall st t 1) >>= fun s => done s false else done s false

/-! ## Holds -/

/-- The home record of a light task (R353). -/
def State.homeRec (s : State) (taskh : Word) : Option HomeRec :=
  (s.core (taskh.extractLsb' 52 12).toNat).homes.find? fun r => r.taskh == taskh
/-- The hold set of a thread's task (R352, R353). -/
def State.holdsOf (s : State) (t : Thread) : List (Nat × Word) :=
  if t.light then match s.homeRec t.ctl.taskh with
    | some r => r.holds
    | none => []
  else t.holds

/-- A light thread asks its home core and stalls until it answers (R353); then it goes on with the answer's code. -/
def State.askHome (s : State) (st : Nat) (tm : Word) (free : Bool) : Except Stop (Nat × State) :=
  let t := s.thr
  match t.homeAns with
  | some (some code) => .ok (code, s.setThr { t with homeAns := none })
  | some none => .error .stall
  | none =>
    let h := (t.ctl.taskh.extractLsb' 52 12).toNat
    let s := s.setThr { t with homeAns := some none, st := .stalled }
    .error (.again (s.send (.home s.cur.core s.cur.slot t.ctl.taskh h t.ctx st tm free (s.orderOf s.cur.core t.launch 3))))

/-- `tcap.hold` (R352, R353). -/
def execTcapHold (a : GSpec) (stg : BitVec 6) (s : State) :=
  run (.tcapHold a stg) s fun s => do
    let st := stg.toNat
    if s.myLaunch.stages.length ≤ st then .error (bad .illegalOp) else
    let (tm, s) := s.rd a
    s.checkTime st tm
    let s ← s.irrevocable
    if s.thr.light then
      let r ← s.askHome st tm false
      if r.1 ≠ 0 then .error (.part r.2 { cause := .holdFull }) else r.2.countStall st tm 1
    else if 8 ≤ s.thr.holds.length then .error (bad .holdFull)
    else
      let s ← s.countStall st tm 1
      .ok (s.setThr { s.thr with holds := s.thr.holds ++ [(st, tm)] })

/-- `tcap.free` (R352, R353). -/
def execTcapFree (a : GSpec) (stg : BitVec 6) (s : State) :=
  run (.tcapFree a stg) s fun s => do
    let st := stg.toNat
    if s.myLaunch.stages.length ≤ st then .error (bad .illegalOp) else
    let (tm, s) := s.rd a
    let s ← s.irrevocable
    if s.thr.light then
      let r ← s.askHome st tm true
      if r.1 ≠ 0 then .error (.part r.2 { cause := .timeOrder }) else r.2.countStall st tm (-1)
    else if !s.thr.holds.contains (st, tm) then .error (bad .timeOrder)
    else
      let s ← s.countStall st tm (-1)
      .ok (s.setThr { s.thr with holds := s.thr.holds.erase (st, tm) })

/-- The home records of a context on a core stand in its core image, the context being evicted there (R353, R423). -/
def State.homeOut (s : State) (home ctx : Nat) : Bool :=
  match FMap.find (ctx * 4096 + home) s.coreImgs with
  | some i => i.saved
  | none => false

/-- The home core takes a request and decides (R353): 0 accepted, 1 no room, 2 no such hold. -/
def execHomeRecordRequest (s : State) : Host.Outcome State Fault Refusal :=
  match s.msg (s.arg 0) with
  | some (.home core slot h home ctx st tm free order) =>
    if !s.mayArrive (s.arg 0) (.home core slot h home ctx st tm free order) then .next s else
    let rs := (s.core home).homes
    let away := s.homeOut home ctx
    let mine := rs.find? fun r => r.taskh == h
    let holds := match mine with
      | some r => r.holds
      | none => []
    let code : Nat := if free then (if holds.contains (st, tm) then 0 else 2)
      else if 8 ≤ holds.length ∨ (mine.isNone ∧ !away ∧ 64 ≤ (rs.filter fun r => !r.out).length) then 1 else 0
    let r : HomeRec := ⟨h, ctx, if free then holds.erase (st, tm) else holds ++ [(st, tm)], away⟩
    let rs := if code ≠ 0 then rs else (rs.filter fun r => r.taskh != h) ++ [r]
    .next (((s.unsend (s.arg 0)).modCore home fun k => { k with homes := rs }).send (.homeAns core slot h home code order))
  | _ => .next s

/-- The answer reaches the thread. -/
def execHomeRecordAnswer (s : State) : Host.Outcome State Fault Refusal :=
  match s.msg (s.arg 0) with
  | some (.homeAns core slot h home code order) =>
    .next (if s.mayArrive (s.arg 0) (.homeAns core slot h home code order) then
      (s.unsend (s.arg 0)).modTask core slot h fun t => { t with homeAns := some (some code) } else s)
  | _ => .next s

/-! ## Waiting on frontiers -/

/-- `plumb.wait` (R354). -/
def execPlumbWait (a : GSpec) (stg : BitVec 6) (s : State) :=
  run (.plumbWait a stg) s fun s =>
    let st := stg.toNat
    let l := s.myLaunch
    if l.stages.length ≤ st then .error (bad .illegalOp) else
    let (tm, s) := s.rd a
    let t := s.thr
    let own := (stageOf t.ctl, t.ctl.ltime) :: s.holdsOf t
    if own.any fun p => match l.reach p.1 p.2 st with
      | some r => r.ule tm
      | none => false
    then .error (bad .plumbSelf)
    else if tm.ult (s.view s.cur.core t.launch st) then .ok s
    else
      let s := s.park (.frontier st tm)
      .ok (if isTile s.cur.core then s.modQuad (quadOf s.cur.core) fun q => { q with flush := true } else s)

/-- `plumb.get` (R355). -/
def execPlumbGet (d : GSpec) (stg : BitVec 6) (s : State) :=
  run (.plumbGet d stg) s fun s =>
    let st := stg.toNat
    if s.myLaunch.stages.length ≤ st then .error (bad .illegalOp)
    else .ok (s.wr d (s.view s.cur.core s.thr.launch st))

/-! ## The end of a task -/

/-- A record suspends the thread (R427). -/
def Thread.suspendedBy (frec : Word) (t : Thread) : Bool := match t.st with
  | .parked (.suspended r) _ => r == frec
  | _ => false
/-- Change the thread that a record suspends, in its slot, in the pool or swapped out. -/
def State.modSuspended (s : State) (core slot : Nat) (frec : Word) (f : Thread → Thread) : State :=
  s.modSlotThreads core slot (Thread.suspendedBy frec) f

/-- n bytes at an address of a context area; zero when it is not mapped. -/
def State.areaNat (s : State) (ctx ea n : Nat) : Nat :=
  match s.areaKey ctx ea with
  | some k => s.readN k n
  | none => 0
/-- A suspended task goes on at a PC (R431). DEDUCED (log entry 98): should the PC be no target, the record of that BAD_TARGET has
the PC at which the task was suspended as its transferring PC. -/
def State.resumeAt (s : State) (pc : Word) (u : Thread) : Thread :=
  s.rewind { u with st := .running, pc := pc, from_ := some u.pc }
/-- A suspended task ends at its boundary (R431). -/
def Thread.condemn (u : Thread) : Thread := { u with st := .running, kill := true }

/-- Write words into the save records of a slot's threads that are out of it, each at its offset (R422): such a thread returns with
what its record holds. -/
def State.patchSaved (s : State) (core slot : Nat) (f : Thread → List (Nat × List Word)) : State :=
  let put (s : State) (t : Thread) (frec : Word) : State :=
    if frec = 0 then s else (f t).foldl (fun s w => s.putWords t.ctx (frec.toNat + w.1) w.2) s
  let s := s.away.foldl (fun s a => if a.core = core ∧ a.slot = slot then put s a.thr a.frec else s) s
  (s.core core).pool.foldl (fun s e => match e with
    | .back sl r t _ => if sl = slot then put s t r else s
    | .new _ => s) s

/-- What the end of a handler task decides (R431). -/
def State.handlerEnd (s : State) (t : Thread) : State :=
  let frec := t.ctl.faultrec
  if frec = 0 then s else
  match t.serves with
  | none => s.giveFree t.ctx 8 frec.toNat
  | some (core, slot, _) =>
    match s.areaNat t.ctx (frec.toNat + 36) 1 with
    | 2 => s.toFaultQ t.ctx frec
    | 1 =>
      let pc := word (s.areaNat t.ctx (frec.toNat + 56) 8)
      let s := s.patchSaved core slot fun u => if Thread.suspendedBy frec u then [(192, [pc])] else []
      (s.modSuspended core slot frec (s.resumeAt pc)).giveFree t.ctx 8 frec.toNat
    | _ => (s.modSuspended core slot frec Thread.condemn).giveFree t.ctx 8 frec.toNat

/-- Make several count changes at a core; none when its table has no room for one of them. -/
def State.countAll (s : State) (core launch : Nat) : List (Nat × Word × Int) → Option State
  | [] => some s
  | (st, t, n) :: rest =>
    if s.countRoom core launch st t then (s.count core launch st t n).countAll core launch rest else none

/-- The task of a slot ends (R161, R352): its counts and holds go, its bindings are released, its slot is empty, and a
handler's decision is carried out. None while its table has no room, or while an access that another thread has released to this one has
not been performed (R284, R295). -/
def State.finishTask (s : State) (core slot : Nat) : Option State :=
  let t := s.thrAt core slot
  let downs := ((s.holdsOf t).map fun h => (h.1, h.2, (-1 : Int))) ++ [(stageOf t.ctl, t.ctl.ltime, -1)]
  match if s.passedOn core .pkg then s.countAll core t.launch downs else none with
  | none => none
  | some s =>
    let s := s.unreserve t.ctl.taskh.toNat
    let s := if t.light then s.modCore (t.ctl.taskh.extractLsb' 52 12).toNat fun k =>
        { k with homes := k.homes.filter fun r => r.taskh != t.ctl.taskh } else s
    let s := s.setThrAt core slot {}
    let s := { s with deliveries := s.deliveries.map fun (p : Nat × List Delivery) => (p.1, p.2.filter fun d => d.task != some t.ctl.taskh) }
    some ((List.range 8).foldl (fun s n => s.settle core ((t.ctl.qmap.extractLsb' (8 * n) 8).toNat)) (s.handlerEnd t))

/-- The issuing thread ends once its windows have closed and its accesses have been performed; an ordered task that has not
committed then awaits its commit (R161, R356). In a bundle the other head has taken effect: the thread ends once what that head
opened has closed. -/
def endBody (s : State) : Res :=
  let t := s.thr
  if !s.src.windows.isEmpty || !s.src.pend.isEmpty then .error .stall
  else if !t.windows.isEmpty || !t.pend.isEmpty then .ok (s.setThr { t with leave := some .end_ })
  else if t.speculative then .error (.gone (s.setThr { t with st := .stalled, ended := true }))
  else match s.finishTask s.cur.core s.cur.slot with
    | some s => .error (.gone s)
    | none => .error .stall
/-- `end` (R161). -/
def execEnd (s : State) := run .end_ s endBody

/-- An ordered task that has ended commits, and its decrement is made (R290, R295, R356): its core and slot. -/
def execOrderedTaskCommit (s : State) : Host.Outcome State Fault Refusal :=
  let c := s.arg 0
  let i := s.arg 1
  let t := s.thrAt c i
  if t.st != .empty && t.ended && t.speculative && s.mayCommit c t then
    match (s.commitTask c i).finishTask c i with
    | some s => .next s
    | none => .next s
  else .next s

/-! ## Counts on their way -/

/-- Deltas in the order of a batch: positive first (R344). -/
def batchOrder (ds : List Delta) : List Delta := (ds.filter fun d => 0 < d.d) ++ ds.filter fun d => !decide (0 < d.d)

/-- A quad's table goes to its die's as one batch. -/
def State.flushQuad (s : State) (q : Nat) : State :=
  let k := s.quad q
  let s' := s.modQuad q fun k => { k with times := [], flush := false }
  if k.times = [] then s' else s'.send (.batch (16 + q) (q / 64) (batchOrder k.times))

/-- The table of a tile's quad as the hardware itself makes a change there: one that is full flushes first (R344). -/
def State.roomFor (s : State) (core launch stage : Nat) (time : Word) : State :=
  if s.countRoom core launch stage time || !isTile core then s else s.flushQuad (quadOf core)

/-- A quad's table flushes to its die's (R344): at its period, when a wait asks for it, or when full. -/
def execQuadTableFlush (s : State) : Host.Outcome State Fault Refusal :=
  .next (s.flushQuad (s.arg 0))

/-- A die's table, or the screed's, flushes to the package's (R344). -/
def execDieTableFlush (s : State) : Host.Outcome State Fault Refusal :=
  let z := s.arg 0
  let ds := FMap.get [] s.dieTimes z
  if ds = [] ∨ 8 < z then .next s else
  .next ({ s with dieTimes := s.dieTimes.set z [] }.send (.batch z 9 (batchOrder ds)))

/-- A table holds a batch's deltas within its entries and their 32 bits (R344). -/
def fits (cap : Nat) (ds : List Delta) : Bool := decide (ds.length ≤ cap) && ds.all fun d => decide (d.d.natAbs < 2 ^ 31)

/-- A batch has come before every other of its source (R344). -/
def State.batchFirst (s : State) (id src : Nat) : Bool :=
  (s.net.takeWhile fun m => m.1 != id).all fun m => match m.2 with
    | .batch src' _ _ => src' != src
    | _ => true

/-- A batch reaches its table, in order after those of its source (R344); it waits while the table cannot hold it, and a full die
table flushes. -/
def execPointstampBatchArrival (s : State) : Host.Outcome State Fault Refusal :=
  let id := s.arg 0
  match s.msg id with
  | some (.batch src dst ds) =>
    let s' := s.unsend id
    if !s.batchFirst id src || !s.mayArrive id (.batch src dst ds) then .next s
    else if dst = 9 then .next (if fits 32768 (addDeltas ds s.pkgTimes) then { s' with pkgTimes := addDeltas ds s.pkgTimes } else s)
    else
      let table := addDeltas ds (FMap.get [] s.dieTimes dst)
      .next (if fits 2048 table then { s' with dieTimes := s.dieTimes.set dst table } else s)
  | _ => .next s

/-- A die's table cannot hold the next batch that waits for it (R344). -/
def State.dieFull (s : State) (z : Nat) : Bool :=
  let t := FMap.get [] s.dieTimes z
  decide (2048 ≤ t.length) || s.net.any fun m => match m.2 with
    | .batch src dst ds => dst == z && s.batchFirst m.1 src && !fits 2048 (addDeltas ds t)
    | _ => false

/-- When no count has changed for 2,048 cycles, every view of a launch equals F(s) (R346). -/
def State.settleViews (s : State) : State :=
  if s.cycle < s.countAt + 2048 then s else
  let vs : FMap Word := (s.launches.filter fun p => p.2.active).foldl (fun vs p =>
    (List.range p.2.stages.length).foldl (fun vs st => vs.set (64 * p.1 + st) (p.2.frontier (s.stamps p.1) st)) vs) []
  { s with cores := s.cores.map fun p =>
      (p.1, if s.pathUp 0 2560 p.1 then { p.2 with views := vs.foldl (fun m v => m.set v.1 v.2) p.2.views } else p.2) }

/-- A core's view takes the package table's frontier (R346): when that is the frontier of every count, and no less than the
view was; it comes as a class 3 message from the launch scheduler (R472, R497). -/
def execFrontierViewUpdate (s : State) : Host.Outcome State Fault Refusal :=
  let c := s.arg 0
  let n := s.arg 1
  let l := s.launch n
  let all := s.stamps n
  .next (if !s.pathUp 0 2560 c then s else s.modCore c fun k => { k with views := (List.range l.stages.length).foldl (fun vs st =>
    let v := s.frontier n st
    if l.frontier all st = v && (s.view c n st).ule v then vs.set (64 * n + st) v else vs) k.views })

end Sys2Proof.Machine
end

