-- ==== Sys2Proof/Machine/Sched.lean ====
section
/-!
DEFINITION. The path of a task to a slot (R406 to R409), swaps, `yield` and the watchdog (R160, R410, R413), interrupts taken at
boundaries (R51, R384), waits that end, and the delivery and replay of faults (R419, R434).
-/

namespace Sys2Proof.Machine

/-! ## Dispatch -/

/-- A task reaches a die dispatcher (R406, step 2): its 4,096 places, the first of the list, and then the runtime's overflow area,
while that has room. -/
def execTaskToDieDispatcher (s : State) : Host.Outcome State Fault Refusal :=
  match s.spawned[s.arg 0]? with
  | none => .next s
  | some t =>
    let z := s.layerOf t
    if Config.taskArea + 4096 ≤ (FMap.get [] s.dispatch z).length then .next s else
    .next { s with spawned := s.spawned.eraseIdx (s.arg 0), dispatch := s.dispatch.set z (FMap.get [] s.dispatch z ++ [t]) }

/-- The cores among which a placement chooses (R407). -/
def placeCores (z : Nat) (p : Place) : List Nat :=
  match p.kind with
  | 1 => [p.num]
  | 2 => (List.range 4).map fun i => quadTile (quadOf p.num) i
  | 4 => [p.owner]
  | _ => (List.range 256).map fun i => 256 * z + i

/-- A core is a candidate for a launch's tasks (R407): a channel core always, a tile when its mode is the kernel's and its quad
is not being gated. -/
def State.candidate (s : State) (l : Launch) (c : Nat) : Bool :=
  !isTile c || ((s.core c).mode == l.partMode && (s.quad (quadOf c)).gate == .none)

/-- The core with the fewest pool entries, the first of equals. -/
def State.emptiest (s : State) : List Nat → Option Nat
  | [] => none
  | c :: cs =>
    match s.emptiest cs with
    | none => some c
    | some d => some (if (s.core d).pool.length < (s.core c).pool.length then d else c)

/-- A handle given to a spawner (R351). -/
def RegWrite.put (w : RegWrite) (v : Word) : RegWrite :=
  match w with
  | .g r _ => .g r v
  | .q key _ => .q key (v.setWidth 512)
  | .p r b => .p r b
  | .v r m x => .v r m x
  | .inv c a => .inv c a
  | .ctab k ws => .ctab k ws
/-- The window that waits for a handle receives it. -/
def State.giveHandle (s : State) (reply : Option (Nat × Nat × Nat)) (h : Word) : State :=
  match reply with
  | none => s
  | some (core, slot, wid) =>
    let t := s.thrAt core slot
    s.setThrAt core slot { t with windows := t.windows.map fun w =>
      if w.wid == wid then { w with need := w.need - 1, writes := w.writes.map fun x => x.put h } else w }

/-- A core's pool takes a task and gives it its handle (R339, R406, step 3). -/
def State.accept (s : State) (c : Nat) (t : Task) : State :=
  let n := ((s.core c).serial + 1) % 2 ^ 48
  let h := word (c * 2 ^ 52 + n)
  let s : State := { s with deliveries := s.deliveries.map fun (p : Nat × List Delivery) => (p.1, p.2.map fun (d : Delivery) =>
    if t.pair == some d.id then { d with task := some h } else d) }
  (s.modCore c fun k => { k with serial := n, pool := k.pool ++ [.new { t with taskh := h }] }).giveHandle t.reply h

/-- The slots that a launch's roles pin, with the role's code (R54, R59). -/
def Launch.rolePins (l : Launch) : List (Nat × Nat) :=
  ((l.roles.zip [1, 2, 3]).filter fun p => p.1 != 0xFF)

/-- Some thread is out of a slot of a core, and will return to it (R235). -/
def State.outOf (s : State) (c i : Nat) : Bool :=
  (s.away.any fun a => a.core == c && a.slot == i) || (s.core c).pool.any fun e => match e with
    | .back sl _ _ _ => sl == i
    | .new _ => false

/-- The dispatcher of a layer hands a task to a core's pool (R406, R407, R409): the layer and the task's place in its list. An
entry task of a launch with roles starts once in each pinned slot of a tile; it waits while some thread is out of such a slot, which
would return there (R59, R235). -/
def execTaskToCorePool (s : State) : Host.Outcome State Fault Refusal :=
  let z := s.arg 0
  let ts := FMap.get [] s.dispatch z
  match if s.arg 1 < 4096 then ts[s.arg 1]? else none with
  | none => .next s
  | some t =>
    let l := s.launch t.launch
    match s.emptiest ((placeCores z t.place).filter (s.candidate l)) with
    | none => .next s
    | some c =>
      let pins := if t.first && isTile c then l.rolePins else []
      let k := s.core c
      if 64 < k.pool.length + max 1 pins.length ∨ (pins.any fun p => (FMap.find p.1 k.pins).isSome || s.outOf c p.1) then .next s else
      let s := { s with dispatch := s.dispatch.set z (ts.eraseIdx (s.arg 1)) }
      if pins = [] then .next (s.accept c t) else
      let s := s.modCore c fun k => { k with pins := pins.foldl (fun m p => m.set p.1 (t.launch, p.2)) k.pins }
      let s := (s.roomFor c t.launch t.stage t.time).count c t.launch t.stage t.time (pins.length - 1)
      .next (pins.foldl (fun s p => s.accept c { t with role := p.2 }) s)

/-! ## Slots -/

/-- A slot is reserved for a thread of a context that is out of it (R235). -/
def State.reserved (s : State) (c i ctx : Nat) : Bool :=
  (s.away.any fun a => a.core == c && a.slot == i && a.thr.ctx == ctx) ||
  (s.core c).pool.any fun e => match e with
    | .back sl _ t _ => sl == i && t.ctx == ctx
    | .new _ => false

/-- A light thread may have a slot (R40). -/
def Core.lightable (k : Core) (i : Nat) : Bool := decide (i + 1 < k.mode) && (FMap.find i k.pins).isNone

/-- The pins of a slot allow a thread that returns to it (R40, R59). -/
def Core.admits (k : Core) (i : Nat) (t : Thread) : Bool :=
  (match FMap.find i k.pins with
  | some p => p == (t.launch, t.role) && t.role != 0
  | none => true) && (!t.light || k.lightable i)

/-- A slot is eligible for a new task, were it empty (R409). -/
def State.eligible (s : State) (c i : Nat) (t : Task) : Bool :=
  let k := s.core c
  (match FMap.find i k.pins with
  | some p => p == (t.launch, t.role) && t.role != 0
  | none => t.role == 0) &&
  !s.reserved c i t.ctx && (!t.light || k.lightable i)

/-- The accesses that a task waits for have been performed (R351). -/
def State.released (s : State) (t : Task) : Bool :=
  t.after = [] || s.threads.all fun u => u.pend.all fun p => !t.after.contains p.msg

/-- A slot is empty and no waiting arrival may take it (R406). -/
def State.openSlot (s : State) (c i : Nat) : Bool :=
  let k := s.core c
  (k.slot i).st == .empty && (k.arrival.all (fun w => k.out.contains w.thr.ctx) || !k.lightable i)

/-- The slot that a pool entry may take now. A thread that was saved returns only in the partition mode of its save (R463). -/
def State.slotFor (s : State) (c : Nat) (e : PoolEntry) : Option Nat :=
  let k := s.core c
  if k.modeNext.isSome then none else
  match e with
  | .new t =>
    if k.out.contains t.ctx ∨ !s.released t ∨ (isTile c ∧ (s.quad (quadOf c)).gate != .none) then none
    else (List.range k.mode).find? fun i => s.openSlot c i && s.eligible c i t
  | .back i _ t _ => if !k.out.contains t.ctx && t.savedMode == k.mode && k.admits i t && s.openSlot c i then some i else none

/-- The effective priority of a pool entry's launch (R405, R406): DEDUCED (log entry 42), that with which the scheduler took it. -/
def State.entryPrio (s : State) (e : PoolEntry) : Nat :=
  match e with
  | .new t => (s.launch t.launch).eff
  | .back _ _ t _ => (s.launch t.launch).eff

/-- The entry came back from a park. -/
def PoolEntry.first (e : PoolEntry) : Bool :=
  match e with
  | .new _ => false
  | .back _ _ _ f => f

/-- The order in which a pool's entries are taken (R406). -/
def State.poolOrder (s : State) (c : Nat) : List PoolEntry :=
  let p := (s.core c).pool
  (List.range 8).reverse.flatMap fun n =>
    let q := p.filter fun e => s.entryPrio e == n
    q.filter PoolEntry.first ++ q.filter fun e => !e.first

/-- The thread of a task at its start (R48). -/
def State.startThread (s : State) (c i : Nat) (t : Task) : Thread :=
  let l := s.launch t.launch
  let k := s.skim t.ctx c i
  let stage := word (t.stage + 1024 * (l.depth t.stage - 1) + if t.ordered then 2 ^ 15 else 0)
  let u : Thread := {
    light := t.light, ctx := t.ctx, launch := t.launch, role := t.role
    ctl := { stage := stage, ltime := t.time, taskh := t.taskh, faultrec := t.faultrec }
    serves := t.serves
    rt := s.ctxRuntime t.ctx
    ord := if t.ordered then some ⟨t.entry, t.args, k.depth, k.marks, k.last, k.lastValid⟩ else none }
  s.rewind (u.start t.entry t.args)

/-- Put a thread into a slot; other contexts' skim entries leave it first (R236). A new resident thread's vector registers read
zero. -/
def State.seat (s : State) (c i : Nat) (u : Thread) (fresh : Bool) : State :=
  let s := s.spillOthers u.ctx c i
  let s := if fresh && !u.light then s.modCore c fun k => k.clearRows i else s
  (s.modCore c fun k => { k with slotCtx := k.slotCtx.set i u.ctx }).setThrAt c i u

/-- A waiting context takes a slot, in arrival order (R270, step 6); other contexts' skim entries leave it first (R236), and its
watchdog count starts anew (R413). -/
def execArrivalPlacement (s : State) : Host.Outcome State Fault Refusal :=
  let c := s.arg 0
  let k := s.core c
  match k.nextArrival, k.lightSlot with
  | some w, some i =>
    let t := s.rewind (w.thr.unwalk w.msg)
    .next ((s.setCore c { k with arrival := k.arrival.erase w }).seat c i t false)
  | _, _ => .next s

/-- The rows of a slot as a save record holds them, and back (R422). -/
def Core.slotRows (k : Core) (i : Nat) : List Line :=
  let n := 128 / k.mode
  (List.range n).map fun v => FMap.get 0 k.rows (i * n + v)

/-! ## Leaving a slot -/

/-- The wait kind of a save record (R422). -/
def waitKind (t : Thread) : Nat :=
  match t.st with
  | .parked w _ => match w with
    | .frontier _ _ => 1
    | .barrier _ _ _ => 2
    | .reservation _ => 3
    | .service _ => 4
    | .replay _ => 5
    | .suspended _ => 6
    | .ringDrain _ => 7
  | .empty | .running | .stalled => 0

/-- The word at byte 552 of a save record (R422). -/
def recordFlags (t : Thread) : Word :=
  let b (x : Bool) (n : Nat) : Nat := if x then 2 ^ n else 0
  word (waitKind t + b t.ctl.active 4 + b (t.heldXfer != []) 5 + b t.heldFlag 6 + b t.heldDog 7 +
    2 ^ 16 * (t.feed.map Feeder.left).getD 0)

/-- STATUS and the flags word in the save record of a thread that is out of its slot, brought up to date (R220, R422, R424). -/
def State.markSaved (s : State) (core slot : Nat) (taskh : Word) : State :=
  s.patchSaved core slot fun t => if t.ctl.taskh = taskh then [(264, [t.ctl.status]), (552, [recordFlags t])] else []

/-- The words of a save record up to its vector registers (R422). -/
def recordWords (t : Thread) (k : Skim) : List Word :=
  let c := t.ctl
  (List.range 24).map t.gr ++ [t.pc, t.pw.setWidth 64] ++ (List.range 7).map (fun i => FMap.get 0 t.k (i + 1)) ++
  [c.status, c.efmt, c.round, c.fmta, c.fmtb, c.fmtc, c.scla, c.sclb, c.qmap, c.ltime, c.stage, c.wmode, c.xferid, c.xstat,
   c.taskh, c.trappc, c.trapcause, k.base, k.lim, c.faultrec] ++
  (List.range 8).flatMap (fun i => match t.holds[i]? with
    | some h => [h.2, word h.1]
    | none => [0, 0]) ++
  [recordFlags t] ++ List.replicate 58 0

/-- A thread as its save record holds it (R422): the registers come from the record's bytes; what the record does not hold stays. -/
def State.loadRecord (s : State) (t : Thread) (frec : Nat) : Thread :=
  let at_ (off : Nat) : Word := word (s.areaNat t.ctx (frec + off) 8)
  let c (n : Nat) : Word := at_ (264 + 8 * n)
  if (s.areaKey t.ctx frec).isNone ∨ (s.areaKey t.ctx (frec + 1016)).isNone then t else
  { t with
    g := (List.range 24).foldl (fun g r => g.set r (at_ (8 * r))) []
    pc := at_ 192, pw := (at_ 200).setWidth 16
    k := (List.range 7).foldl (fun k i => k.set (i + 1) (at_ (208 + 8 * i))) []
    holds := (List.range t.holds.length).map fun i => ((at_ (432 + 16 * i)).toNat % 256, at_ (424 + 16 * i))
    ctl := { t.ctl with
      status := c 0, efmt := c 1, round := c 2, fmta := c 3, fmtb := c 4, fmtc := c 5, scla := c 6, sclb := c 7, qmap := c 8
      ltime := c 9, stage := c 10, wmode := c 11, xferid := c 12, xstat := c 13, taskh := c 14, trappc := c 15
      trapcause := c 16, faultrec := c 19 } }

/-- A run of the feeder that a pre-emption of its thread stopped starts again, once the feeder is idle (R215). -/
def State.feedAgain (s : State) (c i : Nat) : State :=
  let t := s.thrAt c i
  match t.feed with
  | some f =>
    if (s.core c).feeder.left ≠ 0 then s else
    (s.setThrAt c i { t with feed := none }).modCore c fun k => { k with
      feeder := { f with slot := i, taskh := t.ctl.taskh, src := k.feeder.src, stride := k.feeder.stride } }
  | none => s

/-- A returning thread takes its slot again (R235): its registers come from its save record, which is freed. -/
def State.reseat (s : State) (c i : Nat) (frec : Word) (t : Thread) : State :=
  let u := if t.restart then t.rerun else s.loadRecord t frec.toNat
  let s := s.seat c i (s.rewind { u with st := (match u.st with
    | .stalled => .running
    | x => x) }) t.restart
  let n := 128 / (s.core c).mode
  let s := if t.restart || t.light then s else (List.range n).foldl (fun s v =>
    let x : Line := BitVec.ofNat 512 (s.areaNat t.ctx (frec.toNat + 1024 + 64 * v) 64)
    s.modCore c fun k => { k with rows := k.rows.set (i * n + v) x }) s
  let s := s.modCore c fun k => { k with mq := k.mq ++ t.mops }
  let s := s.setThrAt c i { s.thrAt c i with mops := [] }
  (s.feedAgain c i).giveFree t.ctx 0 frec.toNat

/-- A pool entry takes a slot (R406, step 4). -/
def State.placeEntry (s : State) (c i : Nat) (e : PoolEntry) : State :=
  let s := s.modCore c fun k => { k with pool := k.pool.erase e }
  match e with
  | .new t => s.seat c i (s.startThread c i t) true
  | .back _ frec t _ => s.reseat c i frec t

/-- The pool's order gives a task or a returning thread a slot of a core (R406, step 4). -/
def execTaskPlacedInSlot (s : State) : Host.Outcome State Fault Refusal :=
  let c := s.arg 0
  match (s.poolOrder c).findSome? fun e => (s.slotFor c e).map fun i => (e, i) with
  | none => .next s
  | some (e, i) => .next (s.placeEntry c i e)

/-- The part of a save record that holds queued matrix operations (R227, R422). The spec gives it no layout: its words are free, and
the operations stand with the thread (log entry 38). -/
def State.saveOps (s : State) (t : Thread) (frec : Nat) : State :=
  if t.mops.isEmpty then s else
  let (n, s) := s.nextFree
  s.putWords t.ctx (frec + 5120) ((List.range 384).map fun j => word (Config.freeNat n / 2 ^ (64 * j))) (some t.ctl.taskh.toNat)

/-- Write a thread's save record (R422): a slot number of 8 stands for none, where no skim stack is. What the record does not hold stands
with the thread in the state. -/
def State.saveRecord (s : State) (c i : Nat) (t : Thread) (frec : Nat) : State :=
  let h := some t.ctl.taskh.toNat
  let s := s.putWords t.ctx frec (recordWords t (if i < 8 then s.skim t.ctx c i else {})) h
  let rows := if t.light then [] else (s.core c).slotRows i
  (s.putWords t.ctx (frec + 1024) ((List.range 64).flatMap fun v =>
    (List.range 8).map fun j => ((rows.getD v 0).extractLsb' (64 * j) 64)) h).saveOps t frec

/-- Take a thread out of its slot into a save record (R410, R421); none while SaveFree is empty (R419). Its reservation goes
(R288). When its context leaves the core, its queued matrix operations go with it (R227). -/
def State.unseat (s : State) (c i : Nat) (t : Thread) (out : Bool := false) : Option (Nat × Thread × State) :=
  match s.takeFree t.ctx 0 (some t.ctl.taskh.toNat) with
  | none => none
  | some (frec, s) =>
    let s := s.unreserve t.ctl.taskh.toNat
    let mine (o : MOp) : Bool := out && o.slot == i && o.taskh == t.ctl.taskh
    let t := { t with mops := (s.core c).mq.filter mine, savedMode := (s.core c).mode }
    let s := s.saveRecord c i t frec
    let s := s.modCore c fun k => { k with mq := k.mq.filter fun o => !mine o }
    some (frec, t, s.setThrAt c i {})

/-- A pool entry could have the slot once its thread is out of it (R160, R410); none while a change of mode waits for its boundary
(R170, R463). -/
def State.wantsSlot (s : State) (c i ctx : Nat) (e : PoolEntry) : Bool :=
  let k := s.core c
  k.modeNext.isNone && match e with
  | .new t => t.ctx != ctx && !k.out.contains t.ctx && s.released t && s.eligible c i t &&
      !(isTile c && (s.quad (quadOf c)).gate != .none)
  | .back sl _ t _ => sl == i && t.ctx != ctx && !k.out.contains t.ctx && t.savedMode == k.mode && k.admits i t

/-- A thread that left its slot waits in the pool (R406). -/
def State.toPool (s : State) (c i : Nat) (frec : Word) (t : Thread) (first : Bool) : State :=
  s.modCore c fun k => { k with pool := k.pool ++ [.back i frec t first] }

/-- A slot whose thread may be moved out: ordinary, not pinned (R160, R410). -/
def Core.movable (k : Core) (i : Nat) : Bool := (FMap.find i k.pins).isNone

/-- A thread leaves its slot for the pool, and the slot goes to the task that the pool's order puts first among those that could
have it; an arrival that waits goes before them (R160, R406, R413). None while no save record is free. -/
def State.moveOut (s : State) (c i : Nat) (u : Thread) : Option State :=
  (s.unseat c i u).map fun r =>
    let s := r.2.2.toPool c i (word r.1) r.2.1 false
    match (s.poolOrder c).find? (s.wantsSlot c i u.ctx) with
    | some e => if s.openSlot c i then s.placeEntry c i e else s
    | none => s

/-- `yield` (R160). In a bundle the other head has taken effect: the thread moves once what that head opened has closed. -/
def execYield (s : State) :=
  run .yield s fun s =>
    let c := s.cur.core
    let i := s.cur.slot
    let k := s.here
    let stays := s.thr.light || i + 1 == k.mode || !k.movable i || !(k.pool.any (s.wantsSlot c i s.thr.ctx))
    let t := s.rewind s.thr
    let s := s.setThr t
    if stays then .ok s
    else if !s.src.windows.isEmpty then .error .stall
    else if !t.windows.isEmpty then .ok (s.setThr { t with leave := some .yield })
    else
      let (st, trap) := applyFlags t.ctl.status s.cur.flags
      let u := { t with
        pc := s.cur.npc, from_ := s.cur.xfer, st := .running, lastIssue := s.cycle + 1, done := 0, latch := none
        ctl := { t.ctl with status := st }, heldFlag := t.heldFlag || trap
        heldFlagPc := if trap then some t.pc else t.heldFlagPc
        heldFlagSecond := if trap then s.cur.place == .first else t.heldFlagSecond
        heldFlagDepth := if trap then s.cur.depth else t.heldFlagDepth }
      match s.moveOut c i u with
      | none => .error .stall
      | some s => .error (.gone s)

/-- A thread that issued `end` or `yield` in a bundle leaves its slot once its windows have closed (R160, R161). -/
def leaveBody (s : State) : Res :=
  let t := s.thr
  if !t.windows.isEmpty then .error .stall else
  match t.leave with
  | some .end_ => if t.pend.isEmpty then endBody s else .error .stall
  | some .yield => match s.moveOut s.cur.core s.cur.slot { t with leave := none, st := .running } with
    | none => .error .stall
    | some s => .error (.gone s)
  | none => .ok s

/-- When a thread parked. -/
def Thread.parkedAt (t : Thread) : Option Nat :=
  match t.st with
  | .parked _ n => some n
  | .empty | .running | .stalled => none

/-- The slot whose park is oldest among those that may be swapped, for a task that waits with no slot free for it; the swap waits for
its windows (R410). -/
def State.swapSlot (s : State) (c : Nat) : Option Nat :=
  let k := s.core c
  let ok (i : Nat) : Option (Nat × Nat) :=
    let t := k.slot i
    match t.parkedAt with
    | some n => if n + 256 ≤ s.cycle && k.movable i && t.fault.isNone &&
        k.pool.any (fun e => s.wantsSlot c i t.ctx e && (s.slotFor c e).isNone) then some (n, i) else none
    | none => none
  match ((List.range 8).filterMap ok).foldl (fun best p => match best with
    | some b => if p.1 < b.1 then some p else best
    | none => some p) none with
  | some p => if (k.slot p.2).windows.isEmpty then some p.2 else none
  | none => none

/-- A parked thread is swapped out (R410), one at a time: the swap begins, and 64 cycles later the slot is empty. A thread whose wait
has ended meanwhile goes to the pool: DEDUCED (log entry 127). One that a pre-emption has taken out needs no more. -/
def execParkedThreadSwapOut (s : State) : Host.Outcome State Fault Refusal :=
  let c := s.arg 0
  let k := s.core c
  let leave (l : Option (Nat × Word × Nat)) (s : State) : State := s.modCore c fun k => { k with leaving := l }
  match k.leaving with
  | none =>
    match s.swapSlot c with
    | none => .next s
    | some i => .next (leave (some (i, (k.slot i).ctl.taskh, s.cycle + 64)) s)
  | some (i, h, n) =>
    let t := k.slot i
    if t.st == .empty || t.ctl.taskh != h then .next (leave none s)
    else if s.cycle < n || (t.parkedAt.isNone && 64 ≤ k.pool.length) then .next s
    else match s.unseat c i t with
      | none => .next s
      | some (frec, t, s) =>
        .next (leave none (if t.parkedAt.isNone then s.toPool c i (word frec) t true
          else { s with away := s.away ++ [⟨c, i, word frec, t, false⟩] }))

/-! ## Waits that end -/

/-- A ring holds nothing that a drain waits for (R371). -/
def State.ringEmpty (s : State) (r : Nat) : Bool :=
  let g := FMap.get {} s.rings r
  g.liveShown == 0 && g.bufPole.isEmpty && g.bufPerch.isEmpty

/-- The wait of a thread is over (R61). A service ends when the runtime says so, which may name the task beside its result; a replay
and a suspension end by steps of their own. -/
def State.waitOver (s : State) (core : Nat) (t : Thread) : Bool :=
  match t.st with
  | .parked w _ => match w with
    | .frontier st tm => tm.ult (s.view core t.launch st)
    | .barrier id ph _ =>
      let b := if isTile core && id < 448 then FMap.get {} (s.quad (quadOf core)).bars id else FMap.get {} (s.core core).wide id
      decide (ph < b.phase)
    | .reservation g => !s.holdsPair g t.ctl.taskh.toNat
    | .service _ => s.args.length == 4 || (s.args.length == 5 && s.arg 4 == t.ctl.taskh.toNat)
    | .replay _ => false
    | .suspended _ => false
    | .ringDrain r => s.ringEmpty r
  | .empty | .stalled => false
  | .running => true

/-- What the runtime gives a thread whose service is complete: the result in g0, the status in g1 (R164). -/
def State.served (s : State) (t : Thread) : Thread :=
  match t.st with
  | .parked (.service _) _ => (t.setG 0 (word (s.arg 2))).setG 1 (word (s.arg 3))
  | _ => t

/-- The thread is parked on a runtime service (R164). -/
def Thread.inService (t : Thread) : Bool := match t.st with
  | .parked (.service _) _ => true
  | _ => false

/-- The wait of a thread is satisfied (R61, R410): core and slot, and for a service its result and status. It goes on in its
slot, or returns to the pool. One that a pre-emption saved, or that finds the pool full, waits on, with what its service has given it
(R164). -/
def execParkedWaitSatisfied (s : State) : Host.Outcome State Fault Refusal :=
  let c := s.arg 0
  let i := s.arg 1
  let t := s.thrAt c i
  match t.st, s.waitOver c t with
  | .parked _ _, true => .next (s.setThrAt c i (s.rewind { s.served t with st := .running }))
  | _, _ =>
    match s.away.find? fun a => a.core == c && a.slot == i && (!a.preempted || a.thr.inService) && s.waitOver c a.thr with
    | none => .next s
    | some a =>
      let u := { s.served a.thr with st := .running }
      let s : State := if a.thr.inService then s.putWords u.ctx a.frec.toNat [u.gr 0, u.gr 1] else s
      .next (if (s.core c).pool.length < 64 && !a.preempted then
        ({ s with away := s.away.erase a } : State).toPool c i a.frec u true
      else { s with away := s.away.map fun b => if b == a then { b with thr := if a.thr.inService then u else b.thr } else b })

/-! ## Interrupts at a boundary -/

/-- FLAG_TRAP at the boundary after its instruction (R51, R432), or its record when the context has no trap PC. TRAPPC and ResumePc hold
the thread's PC there, after a bundle that also branches the branch's target: DEDUCED (log entry 131). -/
def execFlagTrap (s : State) : Host.Outcome State Fault Refusal :=
  let c := s.arg 0
  let i := s.arg 1
  let t := s.thrAt c i
  if !t.heldFlag || t.ctl.active || t.st == .empty then .next s else
  let t := { t with heldFlag := false, heldFlagPc := none }
  let pc := (s.thrAt c i).heldFlagPc.getD t.pc
  let tv := s.trapVec t.ctx
  if tv = 0 then .next ((s.setThrAt c i t).deliver c i 
      { cause := .flagTrap, resume := some t.pc, second := t.heldFlagSecond, depth := some t.heldFlagDepth } pc)
  else .next (s.setThrAt c i { t with ctl := t.ctl.enter .flagTrap 0 t.pc, pc := tv, from_ := some pc })

/-- A completion interrupt is taken at the thread's next boundary (R384). DEDUCED (log entry 99): should its Handler be no target, the
record of that BAD_TARGET has the interrupted next PC as its transferring PC. -/
def execXferDone (s : State) : Host.Outcome State Fault Refusal :=
  let c := s.arg 0
  let i := s.arg 1
  let t := s.thrAt c i
  match t.heldXfer with
  | [] => .next s
  | (xid, stat, handler) :: rest =>
    if t.ctl.active || t.st == .empty then .next s else
    let ctl := { t.ctl.enter .xferDone 0 t.pc with xferid := word xid, xstat := stat }
    .next (s.setThrAt c i { t with heldXfer := rest, ctl := ctl, pc := handler, from_ := some t.pc })

/-- The watchdog count of a thread has run out (R413). -/
def State.dogDue (s : State) (t : Thread) : Bool := t.dogPer != 0 && decide (t.dog + 2 ^ t.dogPer ≤ s.cycle)

/-- The watchdog fires at a boundary (R413): its notice, and in an ordinary slot the move to the pool, which waits for the
thread's windows, and for a change of mode that waits for its boundary (R170). -/
def execWatchdog (s : State) : Host.Outcome State Fault Refusal :=
  let c := s.arg 0
  let i := s.arg 1
  let t := s.thrAt c i
  let k := s.core c
  if t.st == .empty || (!t.heldDog && !s.dogDue t) then .next s else
  match if t.heldDog then some s else s.notice c i t { cause := .watchdog } t.ctl.taskh with
  | none => .next s
  | some s =>
    let u := s.rewind { s.thrAt c i with heldDog := false }
    if t.light || i + 1 == k.mode || !k.movable i then .next (s.setThrAt c i u)
    else if !t.windows.isEmpty || k.modeNext.isSome then .next (s.setThrAt c i { u with heldDog := true })
    else match s.moveOut c i u with
      | none => .next (s.setThrAt c i { u with heldDog := true })
      | some s => .next s

/-! ## Faults that wait -/

/-- A word of a queue entry, of a skim entry on core or of a message has met an uncorrectable error and is marked (R468): the kind of
place, the place, the entry and the word. -/
def State.markWord (s : State) (kind c i entry w : Nat) : State :=
  let bit := 2 ^ (w % 8)
  let set (ms : List Nat) : List Nat := (ms ++ List.replicate (entry + 1 - ms.length) 0).set entry (ms.getD entry 0 ||| bit)
  match kind with
  | 3 => if entry < (s.queue c i).items.length then s.modQueue c i fun q => { q with marks := set q.marks } else s
  | 4 =>
    let t := s.thrAt c i
    let k := s.skim t.ctx c i
    if k.onCore.any fun e => e.1 == entry then
      s.setSkim t.ctx c i { k with bad := k.bad.set entry (FMap.get 0 k.bad entry ||| 2 ^ (w % 12)) } else s
  | _ => if s.net.any fun m => m.1 == entry then
      { s with netMarks := s.netMarks.set entry (FMap.get 0 s.netMarks entry ||| bit) } else s

/-- A fault whose record was not free is delivered when one is (R419). With a third argument of 1, registers of the thread have
lost their value: MEM_ERROR, at address 0; with 2, their parity error was corrected and is counted (R468, R469); with 3, 4 or 5, a word
of an entry of a queue of the core, of an entry on core of the slot's skim stack, or of a message is marked: the entry or the message,
and the word (R468). -/
def execHandlerFaultDelivery (s : State) : Host.Outcome State Fault Refusal :=
  let c := s.arg 0
  let i := s.arg 1
  let t := s.thrAt c i
  if s.arg 2 = 1 then
    .next (if t.st == .running then
      (((s.uncorrected (regsCount c)).unissue c t).setThrAt c i t.unissued).deliver c i { cause := .memError } t.pc else s)
  else if s.arg 2 = 2 then .next (s.corrected (regsCount c) c)
  else if 3 ≤ s.arg 2 ∧ s.arg 2 ≤ 5 then .next (s.markWord (s.arg 2) c i (s.arg 3) (s.arg 4))
  else
  match t.fault with
  | none => .next s
  | some f => .next (s.deliver c i f t.pc)

/-- The record of a parked access. -/
def Thread.replays (t : Thread) : Option Word :=
  match t.st with
  | .parked (.replay r) _ => if r = 0 then none else some r
  | _ => none

/-- The runtime has made the page or granule present and returns the record (R434): the access replays. -/
def execFaultReplay (s : State) : Host.Outcome State Fault Refusal :=
  let c := s.arg 0
  let i := s.arg 1
  match (s.slotThreads c i).find? fun t => t.replays.isSome with
  | none => .next s
  | some t =>
    let r := t.replays.getD 0
    .next ((s.modSlotThreads c i (fun u => u.replays == some r) fun u => s.rewind { u with st := .running }).giveFree t.ctx 8 r.toNat)

/-- Rewrite a record's cause and flags as PAGE_INVALID (R434). -/
def State.rewriteCause (s : State) (ctx frec : Nat) (double : Bool) : State :=
  match s.areaKey ctx frec with
  | none => s
  | some k => ((s.setByte k 0x53).setByte (k + 1) 0).setByte (k + 2)
      ((s.byte (k + 2) &&& 0xFE) ||| (if double then 4 else 0))

/-- The runtime refuses (R434): the record, its cause rewritten, serves the delivery of PAGE_INVALID. -/
def execFaultRefused (s : State) : Host.Outcome State Fault Refusal :=
  let c := s.arg 0
  let i := s.arg 1
  match (s.slotThreads c i).find? fun t => t.replays.isSome with
  | none => .next s
  | some t =>
    let r := t.replays.getD 0
    if !t.handles && !s.handlerRoom c t then .next s else
    let s := s.modSlotThreads c i (fun u => u.replays == some r) fun u => { u.unissued with st := .parked (.suspended r) s.cycle, done := 0 }
    let s := (s.unissue c t).rewriteCause t.ctx r.toNat t.handles
    .next (if s.ctxHandler t.ctx = 0 ∨ t.handles then s.toFaultQ t.ctx r else s.makeHandler c i t r t.ctl.taskh (some (c, i, r)))

end Sys2Proof.Machine
end

