-- ==== Sys2Proof/Machine/Contexts.lean ====
section
/-!
DEFINITION. Pre-emption, eviction and restoration of a context on a core (R421 to R426), the exchange of table owners (R174), and what
a quad saves as it gates (R334).
-/

namespace Sys2Proof.Machine

/-- A byte of the control window replaced. -/
def State.cwSetByte (s : State) (off v : Nat) : State :=
  let w := s.cwGet (off / 8 * 8)
  s.cwSet (off / 8 * 8) ((w &&& ~~~(0xFF#64 <<< (8 * (off % 8)))) ||| (word (v % 256) <<< (8 * (off % 8))))

/-- The running operation of a slot's thread is one that completes before the thread is saved (R227). -/
def Core.midStream (k : Core) (i : Nat) (taskh : Word) : Bool :=
  match k.mq with
  | [] => false
  | o :: _ => o.slot == i && o.taskh == taskh && o.started && match o.kind with
    | .mma _ _ _ _ => false
    | .mzero | .mrd _ _ _ _ | .mwr _ _ _ _ | .msave _ | .mrest _ | .bld _ _ _ _ _ => true

/-- Pre-empt one thread (R421): at a boundary with its windows closed; an uncommitted ordered task aborts first. It waits for a change of
mode that waits for its own boundary (R170), and for what stands in the way of a spill (R287). -/
def State.preemptSlot (s : State) (c ctx i : Nat) : State :=
  let t := s.thrAt c i
  if t.st == .empty || t.ctx != ctx || !t.windows.isEmpty || t.podAns.isSome || t.homeAns.isSome || (s.core c).modeNext.isSome ||
    (s.core c).midStream i t.ctl.taskh || !s.spillFree ctx c i then s else
  let s' := if t.speculative then s.abortTask c t.ctl.taskh.toNat else s
  let u := s'.thrAt c i
  let f := (s'.core c).feeder
  let mine := 0 < f.left && f.slot == i && f.taskh == t.ctl.taskh
  let u := { u with feed := if mine then some f else u.feed, restart := u.restart || t.speculative }
  match (s'.spillAll ctx c i).unseat c i u true with
  | none => s
  | some (frec, u, s) =>
    let s := if mine then s.modCore c fun k => { k with feeder := { k.feeder with left := 0 } } else s
    { s with away := s.away ++ [⟨c, i, word frec, u, true⟩] }

/-- The core saves a light thread of the context that waits in its arrival buffer (R274, R421): slot number 8 stands for none. -/
def State.preemptArrival (s : State) (c ctx : Nat) (w : Walker) : State :=
  if w.thr.ctx ≠ ctx then s else
  match s.takeFree ctx 0 with
  | none => s
  | some (frec, s) =>
    let t := { w.thr.unwalk w.msg with savedMode := (s.core c).mode }
    let s := (s.saveRecord c 8 t frec).modCore c fun k => { k with arrival := k.arrival.erase w }
    { s with away := s.away ++ [⟨c, 8, word frec, t, true⟩] }

/-- The skim entries that a context holds on a core leave it, but for slots that its threads still hold (R236, R421). -/
def State.spillContext (s : State) (c ctx : Nat) : State :=
  (List.range 8).foldl (fun s i =>
    let t := s.thrAt c i
    if (t.st == .empty || t.ctx != ctx) && (s.skim ctx c i).onCore != [] && s.spillFree ctx c i then s.spillAll ctx c i else s) s

/-- The work of a context's threads that are out of their slots (R215, R227): of the unit, the operations that have not started and a
paused `mma`, and a run of the feeder. It goes with the thread and into its save record. -/
def State.pullWork (s : State) (c ctx : Nat) : State :=
  let k := s.core c
  let paused (o : MOp) : Bool := !o.started || match o.kind with
    | .mma _ _ _ _ => true
    | .mzero | .mrd _ _ _ _ | .mwr _ _ _ _ | .msave _ | .mrest _ | .bld _ _ _ _ _ => false
  let owner (sl : Nat) (h : Word) : Bool := (s.thrAt c sl).ctl.taskh != h && (s.slotThreads c sl).any fun t => t.ctl.taskh == h && t.ctx == ctx
  let go := k.mq.filter fun o => o.ctx == ctx && paused o && owner o.slot o.taskh
  let run := 0 < k.feeder.left && k.feeder.ctx == ctx && owner k.feeder.slot k.feeder.taskh
  let s := s.modCore c fun k => { k with
    mq := k.mq.filter fun o => !go.contains o, feeder := if run then { k.feeder with left := 0 } else k.feeder }
  let take (sl : Nat) (t : Thread) : Thread := if t.ctx != ctx then t else { t with
    mops := t.mops ++ go.filter fun o => o.slot == sl && o.taskh == t.ctl.taskh
    feed := if run && k.feeder.slot == sl && k.feeder.taskh == t.ctl.taskh then some k.feeder else t.feed }
  let note (s : State) (sl : Nat) (frec : Word) (t : Thread) : State :=
    if (go.any fun o => o.slot == sl && o.taskh == t.ctl.taskh) || (run && k.feeder.taskh == t.ctl.taskh)
    then (s.saveOps t frec.toNat).markSaved c sl t.ctl.taskh else s
  let s : State := { s.modCore c fun k => { k with pool := k.pool.map fun e => match e with
      | .back sl r t f => .back sl r (take sl t) f
      | .new _ => e } with
    away := s.away.map fun a => if a.core == c then { a with thr := take a.slot a.thr } else a }
  let s := s.away.foldl (fun s a => if a.core == c && a.slot < 8 then note s a.slot a.frec a.thr else s) s
  (s.core c).pool.foldl (fun s e => match e with
    | .back sl r t _ => note s sl r t
    | .new _ => s) s

/-- The runtime pre-empts a context on a core (R421): the context, the core. Threads that must first finish windows leave
later, by the same step, and so do light threads that arrive later (R274). -/
def execPreemptContext (s : State) : Host.Outcome State Fault Refusal :=
  let x := s.arg 0
  let c := s.arg 1
  let s := s.modCore c fun k => { k with out := if k.out.contains x then k.out else x :: k.out }
  let s := (List.range 8).foldl (fun s i => s.preemptSlot c x i) s
  let s := (s.core c).arrival.foldl (fun s w => s.preemptArrival c x w) s
  .next ((s.pullWork c x).spillContext c x)

/-- The slice or B-store line of a granule (R420). -/
def granKey (tile gran : Nat) : Nat :=
  if gran < 64 then sliceKey tile (gran * 2 ^ 16) else bstoreKey tile ((gran - 64) * 2 ^ 16)

/-- Copy a line with its error marks (R470). -/
def State.carryLine (s : State) (src dst : Nat) : State :=
  let bad := (List.range 8).filter fun i => s.poison.contains (poisonOf (src + 8 * i))
  let s := (s.countLine src).areaWrite dst 64 (s.readN src 64)
  if bad.isEmpty then s else { s with poison := (bad.map fun i => poisonOf (dst + 8 * i)).dedup ++ s.poison }

/-- Copy a granule to its image, or back, line by line (R425, R426). -/
def State.copyGranule (s : State) (ctx key img : Nat) (out : Bool) : Nat → State
  | 0 => s
  | n + 1 =>
    let s := s.copyGranule ctx key img out n
    match s.areaKey ctx (img + 64 * n) with
    | none => s
    | some k => if out then s.carryLine (key + 64 * n) k else s.carryLine k (key + 64 * n)

/-- A queue stands at some granule of a 64 KiB granule or of its image (R287). -/
def State.granuleBusy (s : State) (ctx key img : Nat) : Bool :=
  s.gran.any fun p => !p.2.isEmpty && ((decide (key ≤ 8 * p.1) && decide (8 * p.1 < key + 2 ^ 16)) ||
    (List.range 1024).any fun n => (s.areaKey ctx (img + 64 * n)).map (· / 8) == some (p.1 / 8 * 8))

/-- Locks of live copies follow a granule to its image, or back (R425). -/
def State.moveLocks (s : State) (ctx key img : Nat) (out : Bool) : State :=
  let go (l : Nat) : Nat :=
    if out then
      (if key / 64 ≤ l ∧ l < key / 64 + 1024 then
        match s.areaKey ctx (img + 64 * (l - key / 64)) with
        | some k => k / 64
        | none => l
      else l)
    else
      match (List.range 1024).find? fun n => s.areaKey ctx (img + 64 * n) == some (64 * l) with
      | some n => key / 64 + n
      | none => l
  { s with xfers := s.xfers.map fun x =>
      if x.ctx == ctx && x.live then
        { x with rlocks := x.rlocks.map go, wlocks := x.wlocks.map fun w => (go w.1, w.2) } else x }

/-- A live operation that locks none of what it reads reads a granule of a tile (R388, R395): a TREE its records, a VCOPY its version
word. -/
def Xfer.readsIn (x : Xfer) (tile gran : Nat) : Bool :=
  let at_ (ea : Nat) : Bool := match whereIs (ea % 2 ^ 64) with
    | some (.slice t off) => t == tile && off / 2 ^ 16 == gran
    | some (.bstore t off) => t == tile && 64 + off / 2 ^ 16 == gran
    | some (.global _) | some (.pod _ _) | none => false
  match x.op with
  | 2 => at_ x.verAddr.toNat
  | 3 => (List.range (x.total / 8)).any fun i => at_ (x.w1.toNat + 8 * i)
  | _ => false

/-- A live copy or collective of the context has a lock in a granule of a tile, or reads it. -/
def State.copyIn (s : State) (ctx tile gran : Nat) : Bool :=
  let key := granKey tile gran
  s.xfers.any fun x => x.ctx == ctx && x.live && (x.readsIn tile gran ||
    (x.rlocks ++ x.wlocks.map Prod.fst).any fun l => decide (key / 64 ≤ l) && decide (l < key / 64 + 1024))

/-- Evict one granule (R425): it waits while the tile's remap table is full, or a queue stands at bytes that it moves (R287). -/
def State.evictGranule (s : State) (ctx tile gran img : Nat) : State :=
  let key := granKey tile gran
  let es := FMap.get [] s.evict tile
  let named := s.copyIn ctx tile gran
  if s.grantee tile gran ≠ some ctx ∨ (named ∧ 16 ≤ es.length) ∨ s.granuleBusy ctx key img then s else
  let s := (s.copyGranule ctx key img true 1024).moveLocks ctx key img true
  let s := s.cwSetByte (0x60000 + 256 * tile + gran) 0
  let s := { s with images := s.images.set (imageKey ctx tile gran) (word img) }
  if named then { s with evict := s.evict.set tile (es ++ [⟨ctx, decide (64 ≤ gran), gran, word img, 65536, true, s.xseq⟩]) } else s

/-- The slots of a context's threads on a core. -/
def State.slotsOf (s : State) (c ctx : Nat) : List Nat :=
  ((s.away.filter fun a => a.core == c && a.thr.ctx == ctx).map fun a => a.slot) ++
  (s.core c).pool.filterMap fun e => match e with
    | .back sl _ t _ => if t.ctx == ctx then some sl else none
    | .new _ => none

/-- Pairs of a list. -/
def pairs : List Nat → List (Nat × Nat)
  | a :: b :: r => (a, b) :: pairs r
  | _ => []

/-- A context's image of a core, taken from CoreFree when it has none (R174, R423); none while CoreFree is empty. -/
def State.coreImg (s : State) (c ctx : Nat) : Option (CoreImg × State) :=
  match FMap.find (ctx * 4096 + c) s.coreImgs with
  | some i => some (i, s)
  | none => (s.takeFree ctx 16).map fun (a, s) =>
      (({ addr := a } : CoreImg), { s with coreImgs := s.coreImgs.set (ctx * 4096 + c) { addr := a } })

/-- The granules of a core that a context holds (R420). -/
def State.heldGranules (s : State) (c ctx : Nat) : List Nat := (List.range 192).filter fun g => s.grantee c g == some ctx

/-- An accumulator's part of a core image (R223, R423): its 4,096 elements of five bytes, then 64 bytes that hold BPTR. -/
def Core.accBytes (k : Core) (n : Nat) : List Byte :=
  ((List.range 4096).flatMap fun e => leBytes (FMap.get 0 k.acc (4096 * n + e)) 5) ++ leBytes (FMap.get 0 k.bptr n) 64

/-- A context holds tables of its own on a core: it owns the core's, or has loaded one (R174). -/
def Core.hasTables (k : Core) (x : Nat) : Bool :=
  k.tabOwner == some x || (k.ctabs.any fun p => p.1 / 16 == x) || (FMap.find x k.xtabs).isSome
/-- The tables of a context on a core as its image holds them (R172, R228, R423): the sixteen of FP32 words, then the exchange table. -/
def Core.tableBytes (k : Core) (x : Nat) : List Byte :=
  if !k.hasTables x then [] else
  ((List.range 16).flatMap fun n => (((FMap.find (16 * x + n) k.ctabs).getD
    ((List.range 256).map fun i => (Config.factoryTable n i).toNat)).flatMap fun w => leBytes w 4)) ++
  FMap.get (List.replicate 64 0) k.xtabs x
/-- A home record as a core image holds it (R353, R423): TASKH, then eight holds laid out as in a save record. -/
def HomeRec.bytes (r : HomeRec) : List Byte :=
  leBytes r.taskh.toNat 8 ++ (List.range 8).flatMap fun i => match r.holds[i]? with
    | some h => leBytes h.2.toNat 8 ++ leBytes h.1 8
    | none => List.replicate 16 0

/-- Bytes as words of eight. -/
def words8 : List Byte → List Word
  | a :: b :: c :: d :: e :: f :: g :: h :: bs => word (leNat [a, b, c, d, e, f, g, h]) :: words8 bs
  | [] => []
  | bs => [word (leNat bs)]

/-- Core state of a context goes into its core image (R423): some accumulators with their BPTR, its tables and some home records, one after
the other from the image's first byte on as far as its 65,536 bytes reach (log entry 38), and all of it in the state. -/
def State.saveImg (s : State) (c x : Nat) (img : CoreImg) (held : List Nat) (homes : List HomeRec) : State :=
  let k := s.core c
  let acc := held.foldl (fun m n => FMap.set m n (k.acc.filter fun p => p.1 / 4096 == n)) ([] : FMap (FMap Nat))
  let bptr := held.foldl (fun m n => FMap.set m n (FMap.get 0 k.bptr n)) ([] : FMap Nat)
  let s := s.putWords x img.addr (words8 ((held.flatMap k.accBytes ++ k.tableBytes x ++ homes.flatMap HomeRec.bytes).take 65536))
  { s with coreImgs := s.coreImgs.set (x * 4096 + c) { img with acc := acc, bptr := bptr } }

/-- The slot to which ACFG assigns an accumulator (R206). -/
def Core.accSlot (k : Core) (n : Nat) : Option Nat :=
  if k.acfg.getLsbD (4 * n + 3) then some (k.acfg.extractLsb' (4 * n) 3).toNat else none

/-- Mark what a core image holds: the state of an evicted context, or the accumulators of a gated core. -/
def State.markImg (s : State) (c x : Nat) (saved gated : Bool) : State :=
  match FMap.find (x * 4096 + c) s.coreImgs with
  | some img => { s with coreImgs := s.coreImgs.set (x * 4096 + c) { img with saved := saved, gated := gated } }
  | none => s

/-- The core state of a context that is evicted goes into its core image (R423): the accumulators assigned to its slots, its tables and
its home records, which are marked as out; its tables and match entries leave the core. -/
def State.saveCore (s : State) (c x : Nat) (img : CoreImg) : State :=
  let k := s.core c
  let own := s.slotsOf c x ++ (k.slotCtx.filter fun p => p.2 == x).map Prod.fst
  let held := (List.range 4).filter fun n => (k.accSlot n).any own.contains
  ((s.saveImg c x img held (k.homes.filter fun r => r.ctx == x)).markImg c x true false).modCore c fun k => { k with
    homes := k.homes.map fun r => if r.ctx == x then { r with out := true } else r
    tabOwner := if k.tabOwner = some x then none else k.tabOwner
    matches_ := k.matches_.filter fun p => p.2.ctx != x }

/-- A request of the runtime waits, and is made again. -/
def State.ask (s : State) (i : Instr) : State := { s with asks := s.asks ++ [(i, s.args)] }

/-- The runtime evicts a pre-empted context from a core (R423, R425): the context, the core, then granules and the addresses of
their images, which name every granule that the context holds there. The core state is saved once. The request waits while a thread
of the context has not left the core, while the unit has work of the context to complete (R227), while CoreFree is empty (R419), and for
a granule that cannot leave yet. -/
def execEvictContext (s : State) : Host.Outcome State Fault Refusal :=
  let x := s.arg 0
  let c := s.arg 1
  let k := s.core c
  let ps := pairs (s.args.drop 2)
  if !k.out.contains x || (s.heldGranules c x).any (fun g => !(ps.map Prod.fst).contains g) then .next s else
  if (k.slots.any fun p => p.2.st != .empty && p.2.ctx == x) || (k.arrival.any fun w => w.thr.ctx == x) || (k.mq.any fun o => o.ctx == x)
  then .next (s.ask .evictContext) else
  match s.coreImg c x with
  | none => .next (s.ask .evictContext)
  | some (img, s) =>
    let s := if img.saved then s else s.saveCore c x img
    let s := ps.foldl (fun s p => s.evictGranule x c p.1 p.2) s
    .next (if s.heldGranules c x = [] then s else s.ask .evictContext)

/-- Bring one granule back (R426): its grant is given again here, or was by a write of the grant table. -/
def State.restoreGranule (s : State) (ctx tile gran : Nat) : State :=
  match FMap.find (imageKey ctx tile gran) s.images with
  | none => s
  | some img =>
    if s.grantee tile gran = none ∨ s.grantee tile gran = some ctx then
      let s := s.cwSetByte (0x60000 + 256 * tile + gran) (128 + ctx)
      let s := (s.copyGranule ctx (granKey tile gran) img.toNat false 1024).moveLocks ctx (granKey tile gran) img.toNat false
      { s with
        images := FMap.del (imageKey ctx tile gran) s.images
        evict := s.evict.set tile ((FMap.get [] s.evict tile).filter fun e => !(e.ctx == ctx && e.gran == gran)) }
    else s

/-- A core takes its part of an image back (R426). -/
def Core.loadImg (k : Core) (img : CoreImg) : Core :=
  { k with
    acc := img.acc.foldl (fun (a : FMap Nat) p =>
      p.2.foldl (fun (a : FMap Nat) q => FMap.set a q.1 q.2) (a.filter fun q => q.1 / 4096 != p.1)) k.acc
    bptr := img.bptr.foldl (fun (b : FMap Nat) p => FMap.set b p.1 p.2) k.bptr
    }

/-- A thread of a context that was pre-empted on a core. -/
def Away.of (a : Away) (c ctx : Nat) : Bool := a.core == c && a.thr.ctx == ctx && a.preempted

/-- A light thread that was saved as it arrived comes to its core again, with the PC of the touching instruction (R274). -/
def State.arriveAgain (s : State) (c : Nat) (a : Away) : State :=
  let t := s.loadRecord a.thr a.frec.toNat
  (s.send (.walk { thr := t, target := c, msg := t.walkBytes })).giveFree t.ctx 0 a.frec.toNat

/-- The home records of a context come back within the 64 that a core holds (R353). -/
def Core.homesFit (k : Core) (x : Nat) : Bool := decide ((k.homes.filter fun r => !r.out || r.ctx == x).length ≤ 64)

/-- The runtime restores a context on a core (R426): the context, the core. It does so only in the partition mode in which the threads
were saved (R463). The request waits while the core's home records leave no room for those of the context, and while a queue stands at
bytes of a granule that comes back (R287). -/
def execRestoreContext (s : State) : Host.Outcome State Fault Refusal :=
  let x := s.arg 0
  let c := s.arg 1
  let k := s.core c
  let back := s.away.filter fun a => a.of c x
  if !k.out.contains x || k.modeNext.isSome || (back.any fun a => a.thr.savedMode != k.mode) then .next s else
  if !k.homesFit x || (List.range 192).any (fun g => match FMap.find (imageKey x c g) s.images with
    | some img => s.granuleBusy x (granKey c g) img.toNat
    | none => false) then .next (s.ask .restoreContext) else
  let s : State := (List.range 192).foldl (fun s g => s.restoreGranule x c g) s
  let s : State := match FMap.find (x * 4096 + c) s.coreImgs with
    | none => s
    | some img =>
      if !img.saved then s else
      { s.modCore c fun k => k.loadImg img with
        coreImgs := s.coreImgs.set (x * 4096 + c) { img with acc := [], bptr := [], saved := false } }
  let s : State := { s with away := s.away.filter fun a => !a.of c x }
  let s := s.modCore c fun k => { k with
    out := k.out.filter (· != x), homes := k.homes.map fun r => if r.ctx == x then { r with out := false } else r }
  .next (back.foldl (fun s a => if a.slot = 8 then s.arriveAgain c a else s.toPool c a.slot a.frec a.thr true) s)

/-- No instruction in flight on the core uses its tables (R173, R174). -/
def Core.tablesIdle (k : Core) : Bool := k.mxp.isNone && k.slots.all fun p => p.2.windows.all fun w => w.tab.isNone

/-- The tables of a core pass to the context of a thread that waits for them (R174), once nothing in flight uses them: the core. The
old owner's tables are written into its core image, taken from its CoreFree; those of both stand in the state by context. -/
def execTableOwnerExchange (s : State) : Host.Outcome State Fault Refusal :=
  let c := s.arg 0
  let k := s.core c
  match k.tabWant with
  | none => .next s
  | some x =>
    if !k.tablesIdle then .next s else
    match k.tabOwner with
    | none => .next (s.modCore c fun k => { k with tabOwner := some x, tabWant := none })
    | some o =>
      match s.coreImg c o with
      | none => .next s
      | some (img, s) => .next ((s.saveImg c o img [] []).modCore c fun k => { k with tabOwner := some x, tabWant := none })

/-! ## Gating -/

/-- The accumulators of a core that belong to a context while no thread is there (R334, R423): those that ACFG assigns to a slot whose
last thread was the context's. DEDUCED (log entry 55). -/
def Core.accsOf (k : Core) (x : Nat) : List Nat :=
  (List.range 4).filter fun n => (k.accSlot n).any fun i => FMap.find i k.slotCtx == some x

/-- What a core of a quad holds across tasks is saved to the owning contexts' areas as the quad gates (R334): skim entries to their
stacks' regions, and accumulators, BPTR and tables to core images; none while CoreFree is empty or a spill must wait. -/
def State.saveGated (s : State) (c : Nat) : Option State :=
  let mine := s.skims.filter fun p => p.1 / 8 % 4096 = c ∧ p.2.onCore ≠ []
  if !(mine.all fun p => s.spillFree (p.1 / 32768) c (p.1 % 8)) then none else
  let s := mine.foldl (fun s p => s.spillAll (p.1 / 32768) c (p.1 % 8)) s
  let k := s.core c
  let owners := ((List.range 64).filter fun x => s.ctxValid x && (k.accsOf x != [] || k.tabOwner == some x))
  owners.foldlM (fun s x => (s.coreImg c x).map fun p =>
    if p.1.saved then p.2 else (p.2.saveImg c x p.1 (k.accsOf x) []).markImg c x false true) s

/-- All four cores of a quad are saved. -/
def State.saveQuad (s : State) (q : Nat) : Option State :=
  (List.range 4).foldlM (fun s i => s.saveGated (quadTile q i)) s

/-- A Pending quad whose conditions have held for 256 cycles gates (R333, R334): the quad. -/
def execQuadGated (s : State) : Host.Outcome State Fault Refusal :=
  let q := s.arg 0
  let set (s : State) (g : Gate) : State := s.modQuad q fun k => { k with gate := g }
  match (s.quad q).gate with
  | .pending => .next (if s.gateReady q then set s (.closing (s.cycle + 256)) else s)
  | .closing n =>
    if !s.gateReady q then .next (set s .pending)
    else if s.cycle < n then .next s
    else match s.saveQuad q with
      | some s => .next (set s .gated)
      | none => .next s
  | .none | .gated | .waking _ => .next s

/-- What a core saved as its quad gated comes back (R334). -/
def State.loadGated (s : State) (c : Nat) : State :=
  (s.coreImgs.filter fun p => p.1 % 4096 == c && p.2.gated).foldl (fun s p =>
    { s.modCore c fun k => k.loadImg p.2 with coreImgs := s.coreImgs.set p.1 { p.2 with acc := [], bptr := [], gated := false } }) s

/-- The wake of a quad ends (R333, R334): the quad. -/
def execQuadWakeComplete (s : State) : Host.Outcome State Fault Refusal :=
  let q := s.arg 0
  match (s.quad q).gate with
  | .waking n =>
    .next (if n ≤ s.cycle then
      ((List.range 4).foldl (fun s i => s.loadGated (quadTile q i)) s).modQuad q fun k => { k with gate := .none } else s)
  | .none | .pending | .closing _ | .gated => .next s

end Sys2Proof.Machine
end

