-- ==== Sys2Proof/Machine/Vector.lean ====
section
/-!
DEFINITION. Vector and lane-mask instructions (spec/07_vector_instructions.md), but the special functions.
-/

namespace Sys2Proof.Machine

/-! ## Elements and masks -/

/-- What a vector instruction reads beside its operands: the rounding mode and generator, the packed width and signedness,
and the conversion scale (R52, R180), as they stand before the bundle (R166). -/
structure VEnv where
  rm : RMode
  lfsr : Nat
  pkw : Nat
  pks : Bool
  sb : Nat
  deriving DecidableEq, Repr

/-- The environment of a ROUND and an EFMT word. -/
def vEnv (round efmt : Word) : VEnv := {
  rm := RMode.ofField (round.extractLsb' 0 3).toNat, lfsr := (round.extractLsb' 32 32).toNat
  pkw := if efmt.extractLsb' 0 2 = 1#2 then 6 else 4, pks := efmt.getLsbD 2, sb := (efmt.extractLsb' 8 8).toNat }
/-- The environment of the issuing thread. -/
def State.env (s : State) : VEnv := vEnv s.src.ctl.round s.src.ctl.efmt

/-- The width of a format's elements. -/
def VEnv.w (e : VEnv) (f : Fmt) : Nat := Fmt.width e.pkw f
/-- Their count in a register (R176). -/
def VEnv.n (e : VEnv) (f : Fmt) : Nat := 512 / e.w f
/-- The format as arithmetic sees it. -/
def VEnv.cf (e : VEnv) (f : Fmt) : CFmt := cfmt e.pks e.pkw f
/-- The mode is stochastic. -/
def VEnv.sr (e : VEnv) : Bool := e.rm == .sr

/-- Element i of width w is active under a mask (R177). -/
def active (w : Nat) (m : Word) (i : Nat) : Bool := m.getLsbD (w * i / 8)

/-- What has accumulated over the elements of a result: its bits, its flags, the generator. -/
structure VAcc where
  bits : Nat := 0
  flags : Flags := fNone
  lfsr : Nat := 0
  deriving DecidableEq, Repr

/-- Take a stochastic word when one is taken (R123, R124). -/
def takeWord (sr : Bool) (lfsr : Nat) : Nat := if sr then lfsrWord lfsr else lfsr

/-- Compute the active elements of a result in increasing index; the others keep their content (R177). `take i` says that
element i takes a stochastic word. -/
def eachElem (w : Nat) (m : Word) (old : Line) (take : Nat → Bool) (f : Nat → Nat → Nat × Flags) : List Nat → VAcc → VAcc
  | [], a => a
  | i :: is_, a =>
    if active w m i then
      let l := takeWord (take i) a.lfsr
      let (v, fl) := f i l
      eachElem w m old take f is_ ⟨a.bits + v % 2 ^ w * 2 ^ (w * i), a.flags ||| fl, l⟩
    else eachElem w m old take f is_ { a with bits := a.bits + elemAt w old i * 2 ^ (w * i) }

/-- Store the generator, unless the partner of the bundle has written ROUND (R166). -/
def State.setLfsr (s : State) (l : Nat) : State :=
  if s.cur.wroteRound then s
  else s.modCtl fun c => { c with round := (c.round &&& 0xFFFFFFFF) ||| (word l <<< 32) }

/-- Write a vector result with its flags and the generator. -/
def State.vdone (s : State) (vd : VSpec) (a : VAcc) : State :=
  let s := if a.lfsr = s.env.lfsr then s else s.setLfsr a.lfsr
  (s.wv vd (BitVec.ofNat 512 a.bits)).addFlags a.flags

/-- An element-wise instruction: the elements of F under a mask. -/
def State.vmap (s : State) (vd : VSpec) (k : KReg) (f : Fmt) (sr : Bool) (op : Nat → Nat → Nat × Flags) : Res :=
  let e := s.env
  .ok (s.vdone vd (eachElem (e.w f) (s.rk k) (s.rv vd) (fun _ => sr && e.sr) op (List.range (e.n f)) { lfsr := e.lfsr }))

/-- An element of a source. -/
def State.el (s : State) (v : VSpec) (f : Fmt) (i : Nat) : Nat := elemAt (s.env.w f) (s.rv v) i

/-! ## Arithmetic -/

/-- The two-operand arithmetic of R181. -/
inductive VBin where
  | add | sub | mul | min | max | adds | subs | mulh
  deriving DecidableEq, Repr

/-- It rounds a float result, and so takes a stochastic word. -/
def VBin.rounds (op : VBin) : Bool := op == .add || op == .sub || op == .mul

/-- One element of R181. -/
def VBin.apply (op : VBin) (c : CFmt) (rm : RMode) (u a b : Nat) : Nat × Flags :=
  match c with
  | .int sg w =>
    let x := ival sg w a
    let y := ival sg w b
    match op with
    | .add => (wrapI w (x + y), fNone)
    | .sub => (wrapI w (x - y), fNone)
    | .mul => (wrapI w (x * y), fNone)
    | .min => (if x < y then a else b, fNone)
    | .max => (if x < y then b else a, fNone)
    | .adds => clampI sg w (x + y)
    | .subs => clampI sg w (x - y)
    | .mulh => (wrapI w (x * y / 2 ^ w), fNone)
  | .flt f =>
    let x := f.value a
    let y := f.value b
    let fin (r : FV × Flags) : Nat × Flags :=
      let (v, fl) := f.round rm u r.1
      (v, fl ||| r.2)
    match op with
    | .add => fin (fvAdd f.fw rm x y)
    | .sub => fin (fvSub f.fw rm x y)
    | .mul => fin (fvMul f.fw rm x y)
    | .min => f.round .rne 0 (fvMin f.fw x y)
    | .max => f.round .rne 0 (fvMax f.fw x y)
    | .adds | .subs | .mulh => (0, fNone)
  | .blk _ | .quad => (0, fNone)

/-- An instruction of R181 with two sources. -/
def vbin (op : VBin) (vd va vb : VSpec) (k : KReg) (f : Fmt) (s : State) : Res :=
  let e := s.env
  s.vmap vd k f (f.isFloat && op.rounds) fun i u => op.apply (e.cf f) e.rm u (s.el va f i) (s.el vb f i)

/-- `vadd` (R181). -/
def execVadd (vd va vb : VSpec) (k : KReg) (f : Fmt) (e : Energy) (s : State) :=
  run (.vadd vd va vb k f e) s (vbin .add vd va vb k f)
/-- `vsub` (R181). -/
def execVsub (vd va vb : VSpec) (k : KReg) (f : Fmt) (e : Energy) (s : State) :=
  run (.vsub vd va vb k f e) s (vbin .sub vd va vb k f)
/-- `vmul` (R181). -/
def execVmul (vd va vb : VSpec) (k : KReg) (f : Fmt) (e : Energy) (s : State) :=
  run (.vmul vd va vb k f e) s (vbin .mul vd va vb k f)
/-- `vmin` (R181). -/
def execVmin (vd va vb : VSpec) (k : KReg) (f : Fmt) (e : Energy) (s : State) :=
  run (.vmin vd va vb k f e) s (vbin .min vd va vb k f)
/-- `vmax` (R181). -/
def execVmax (vd va vb : VSpec) (k : KReg) (f : Fmt) (e : Energy) (s : State) :=
  run (.vmax vd va vb k f e) s (vbin .max vd va vb k f)
/-- `vadds` (R181). -/
def execVadds (vd va vb : VSpec) (k : KReg) (f : Fmt) (e : Energy) (s : State) :=
  run (.vadds vd va vb k f e) s (vbin .adds vd va vb k f)
/-- `vsubs` (R181). -/
def execVsubs (vd va vb : VSpec) (k : KReg) (f : Fmt) (e : Energy) (s : State) :=
  run (.vsubs vd va vb k f e) s (vbin .subs vd va vb k f)
/-- `vmulh` (R181). -/
def execVmulh (vd va vb : VSpec) (k : KReg) (f : Fmt) (e : Energy) (s : State) :=
  run (.vmulh vd va vb k f e) s (vbin .mulh vd va vb k f)

/-- A float code as a result: a NaN has its quiet bit set (R114). -/
def FFmt.quiet (f : FFmt) (a : Nat) : Nat := if (f.value a).isNan then a ||| 2 ^ (f.fw - 1) else a

/-- `vabs` or `vneg` of one element (R181). -/
def signOp (neg : Bool) (c : CFmt) (a : Nat) : Nat × Flags :=
  match c with
  | .int sg w =>
    let x := ival sg w a
    if neg then (wrapI w (-x), fNone) else clampI sg w x.natAbs
  | .flt f =>
    let top := 2 ^ (f.width - 1)
    let q := f.quiet a
    (if neg then (if q < top then q + top else q - top) else q % top, fNone)
  | .blk _ | .quad => (0, fNone)

/-- `vabs` or `vneg`; an unsigned packed format is refused at check 7 (R179). -/
def vsign (neg : Bool) (vd va : VSpec) (k : KReg) (f : Fmt) (s : State) : Res :=
  if f = .pk ∧ !s.env.pks then .error (bad .illegalOp)
  else s.vmap vd k f false fun i _ => signOp neg (s.env.cf f) (s.el va f i)
/-- `vabs` (R181). -/
def execVabs (vd va : VSpec) (k : KReg) (f : Fmt) (e : Energy) (s : State) :=
  run (.vabs vd va k f e) s (vsign false vd va k f)
/-- `vneg` (R181). -/
def execVneg (vd va : VSpec) (k : KReg) (f : Fmt) (e : Energy) (s : State) :=
  run (.vneg vd va k f e) s (vsign true vd va k f)

/-- One element of `vfma` or `vfms` (R182). -/
def fmaEl (neg : Bool) (c : CFmt) (rm : RMode) (u a b d : Nat) : Nat × Flags :=
  match c with
  | .int sg w =>
    let p := ival sg w a * ival sg w b
    (wrapI w (if neg then p - ival sg w d else p + ival sg w d), fNone)
  | .flt f =>
    let (v, fl) := (if neg then fvFms else fvFma) f.fw rm (f.value a) (f.value b) (f.value d)
    let (r, fl') := f.round rm u v
    (r, fl ||| fl')
  | .blk _ | .quad => (0, fNone)
/-- `vfma` and `vfms`. -/
def vfmaBody (neg : Bool) (vd va vb vc : VSpec) (k : KReg) (f : Fmt) (s : State) : Res :=
  let e := s.env
  s.vmap vd k f f.isFloat fun i u => fmaEl neg (e.cf f) e.rm u (s.el va f i) (s.el vb f i) (s.el vc f i)
/-- `vfma` (R182). -/
def execVfma (vd va vb vc : VSpec) (k : KReg) (f : Fmt) (e : Energy) (s : State) :=
  run (.vfma vd va vb vc k f e) s (vfmaBody false vd va vb vc k f)
/-- `vfms` (R182). -/
def execVfms (vd va vb vc : VSpec) (k : KReg) (f : Fmt) (e : Energy) (s : State) :=
  run (.vfms vd va vb vc k f e) s (vfmaBody true vd va vb vc k f)

/-- `vdot` (R183): pairs that depend on EFMT are refused at check 7. -/
def execVdot (vd va vb vc : VSpec) (k : KReg) (fp fa : Fmt) (e : Energy) (s : State) :=
  run (.vdot vd va vb vc k fp fa e) s fun s =>
    let v := s.env
    if fp = .pk ∧ (v.pkw ≠ 4 ∨ v.pks ≠ fa.isSigned) then .error (bad .illegalOp) else
    let r := v.w fa / v.w fp
    s.vmap vd k fa fa.isFloat fun j u =>
      let ts := (List.range r).map fun t => (s.el va fp (r * j + t), s.el vb fp (r * j + t))
      match v.cf fp, v.cf fa with
      | .int sg w, .int sg' w' =>
        (wrapI w' (ts.foldl (fun a t => a + ival sg w t.1 * ival sg w t.2) (ival sg' w' (s.el vc fa j))), fNone)
      | .flt p, .flt a =>
        let (x, fl) := dotSum a.fw v.rm (ts.map fun t => (p.value t.1, p.value t.2)) (some (a.value (s.el vc fa j)))
        let (c, fl') := a.round v.rm u x
        (c, fl ||| fl')
      | _, _ => (0, fNone)

/-! ## Logic, compares, classes -/

/-- A bytewise instruction: byte n of vd under bit n of k (R184). -/
def vbytes (vd : VSpec) (k : KReg) (x : State → Line) (s : State) : Res :=
  .ok (s.wv vd (mergeBytes (s.rv vd) (x s) (s.rk k)))
/-- `vand` (R184). -/
def execVand (vd va vb : VSpec) (k : KReg) (e : Energy) (s : State) :=
  run (.vand vd va vb k e) s (vbytes vd k fun s => s.rv va &&& s.rv vb)
/-- `vor` (R184). -/
def execVor (vd va vb : VSpec) (k : KReg) (e : Energy) (s : State) :=
  run (.vor vd va vb k e) s (vbytes vd k fun s => s.rv va ||| s.rv vb)
/-- `vxor` (R184). -/
def execVxor (vd va vb : VSpec) (k : KReg) (e : Energy) (s : State) :=
  run (.vxor vd va vb k e) s (vbytes vd k fun s => s.rv va ^^^ s.rv vb)
/-- `vnot` (R184). -/
def execVnot (vd va : VSpec) (k : KReg) (e : Energy) (s : State) :=
  run (.vnot vd va k e) s (vbytes vd k fun s => ~~~(s.rv va))
/-- `vmov` (R184). -/
def execVmov (vd va : VSpec) (k : KReg) (e : Energy) (s : State) :=
  run (.vmov vd va k e) s (vbytes vd k fun s => s.rv va)
/-- `vzero` (R184). -/
def execVzero (vd : VSpec) (k : KReg) (e : Energy) (s : State) := run (.vzero vd k e) s (vbytes vd k fun _ => 0)
/-- `vsel` (R184): every byte of vd, from va or from vb. -/
def execVsel (vd va vb : VSpec) (k : KReg) (e : Energy) (s : State) :=
  run (.vsel vd va vb k e) s fun s => .ok (s.wv vd (mergeBytes (s.rv vb) (s.rv va) (s.rk k)))

/-- A condition on two elements (R96, R185). -/
def condEl (c : Cond) (cf : CFmt) (a b : Nat) : Bool :=
  match cf with
  | .flt f =>
    let x := f.value a
    let y := f.value b
    if x.isNan || y.isNan then c == .ne || c == .uo else
    match c with
    | .eq => !x.lt y && !y.lt x
    | .ne => x.lt y || y.lt x
    | .lt | .ltn => x.lt y
    | .le | .len => !y.lt x
    | .gt | .gtn => y.lt x
    | .ge | .gen => !x.lt y
    | .uo => false
  | .int _ w =>
    let sx := sval w a
    let sy := sval w b
    match c with
    | .eq => a == b
    | .ne => a != b
    | .lt => decide (sx < sy)
    | .le => decide (sx ≤ sy)
    | .gt => decide (sy < sx)
    | .ge => decide (sy ≤ sx)
    | .ltn => decide (a < b)
    | .len => decide (a ≤ b)
    | .gtn => decide (b < a)
    | .gen => decide (b ≤ a)
    | .uo => false
  | .blk _ | .quad => false

/-- The mask that `vcmp` writes (R185): bits of an element of 8 or more bits, or the conjunction over the elements that start in
a byte. -/
def cmpMask (w n : Nat) (act hold : Nat → Bool) : Word :=
  let bit (b : Nat) : Bool :=
    if 8 ≤ w then let i := 8 * b / w; decide (i < n) && act i && hold i
    else
      let is_ := (List.range n).filter fun i => w * i / 8 == b && act i
      !is_.isEmpty && is_.all hold
  (List.range 64).foldl (fun m b => if bit b then m ||| (1#64 <<< b) else m) 0

/-- `vcmp` (R185). -/
def execVcmp (kd : KReg) (va vb : VSpec) (k : KReg) (f : Fmt) (c : Cond) (e : Energy) (s : State) :=
  run (.vcmp kd va vb k f c e) s fun s =>
    let v := s.env
    let m := s.rk k
    .ok (s.wk kd (cmpMask (v.w f) (v.n f) (active (v.w f) m) fun i => condEl c (v.cf f) (s.el va f i) (s.el vb f i)))

/-- The class bit of a float (R186). -/
def classBit (f : FFmt) (code : Nat) : Nat :=
  let normal (m : Nat) : Bool := decide (2 ^ f.fw ≤ m)
  match f.value code with
  | .nan _ _ => 8
  | .inf s => if s then 0 else 7
  | .fin s m _ =>
    if m = 0 then (if s then 3 else 4)
    else if normal m then (if s then 1 else 6) else (if s then 2 else 5)
/-- `vclass` (R186). -/
def execVclass (vd va : VSpec) (k : KReg) (f : Fmt) (e : Energy) (s : State) :=
  run (.vclass vd va k f e) s fun s =>
    s.vmap vd k f false fun i _ => match s.env.cf f with
      | .flt ff => (2 ^ classBit ff (s.el va f i), fNone)
      | _ => (0, fNone)

/-! ## Shifts -/

/-- The three shifts. -/
inductive VShift where
  | shl | shr | sra
  deriving DecidableEq, Repr

/-- A shift of a w-bit element (R187). -/
def VShift.apply (op : VShift) (w a n : Nat) : Nat :=
  match op with
  | .shl => if n < w then a * 2 ^ n % 2 ^ w else 0
  | .shr => if n < w then a / 2 ^ n else 0
  | .sra => wrapI w (sval w a / 2 ^ (min n w))
/-- A shift by elements. -/
def vshift (op : VShift) (vd va vb : VSpec) (k : KReg) (f : Fmt) (s : State) : Res :=
  s.vmap vd k f false fun i _ => (op.apply (s.env.w f) (s.el va f i) (s.el vb f i), fNone)
/-- A shift by an immediate; beyond the width of the packed format it is refused at check 7 (R188). -/
def vshiftI (op : VShift) (vd va : VSpec) (k : KReg) (f : Fmt) (amt : BitVec 6) (s : State) : Res :=
  if s.env.w f ≤ amt.toNat then .error (bad .illegalOp)
  else s.vmap vd k f false fun i _ => (op.apply (s.env.w f) (s.el va f i) amt.toNat, fNone)
/-- `vshl` (R187). -/
def execVshl (vd va vb : VSpec) (k : KReg) (f : Fmt) (e : Energy) (s : State) :=
  run (.vshl vd va vb k f e) s (vshift .shl vd va vb k f)
/-- `vshr` (R187). -/
def execVshr (vd va vb : VSpec) (k : KReg) (f : Fmt) (e : Energy) (s : State) :=
  run (.vshr vd va vb k f e) s (vshift .shr vd va vb k f)
/-- `vsra` (R187). -/
def execVsra (vd va vb : VSpec) (k : KReg) (f : Fmt) (e : Energy) (s : State) :=
  run (.vsra vd va vb k f e) s (vshift .sra vd va vb k f)
/-- `vshli` (R188). -/
def execVshli (vd va : VSpec) (k : KReg) (f : Fmt) (amt : BitVec 6) (e : Energy) (s : State) :=
  run (.vshli vd va k f amt e) s (vshiftI .shl vd va k f amt)
/-- `vshri` (R188). -/
def execVshri (vd va : VSpec) (k : KReg) (f : Fmt) (amt : BitVec 6) (e : Energy) (s : State) :=
  run (.vshri vd va k f amt e) s (vshiftI .shr vd va k f amt)
/-- `vsrai` (R188). -/
def execVsrai (vd va : VSpec) (k : KReg) (f : Fmt) (amt : BitVec 6) (e : Energy) (s : State) :=
  run (.vsrai vd va k f amt e) s (vshiftI .sra vd va k f amt)

/-! ## Conversions -/

/-- A 6-bit or 8-bit block format. -/
def CFmt.narrow (c : CFmt) : Bool :=
  match c with
  | .blk _ => true
  | .int _ _ | .flt _ | .quad => false

/-- The checks of R190 on the conversion scale. -/
def scaleOk (d s : CFmt) (sb : Nat) : Bool :=
  (!(d.isBlock && !s.isBlock) || (scaleExp sb != 63 && (!d.narrow || scaleType sb == 0))) &&
  (!(s.narrow && !d.isBlock) || scaleType sb == 0)

/-- A conversion: the destination elements and what each is made from; `some` code converts, `none` is zero. -/
def vconv (vd : VSpec) (k : KReg) (fd fs : Fmt) (rel : Nat → Nat → Bool) (src : State → Nat → Option Nat) (s : State) : Res :=
  let e := s.env
  if !rel (e.w fd) (e.w fs) || !scaleOk (e.cf fd) (e.cf fs) e.sb then .error (bad .illegalOp) else
  .ok (s.vdone vd (eachElem (e.w fd) (s.rk k) (s.rv vd)
    (fun j => e.sr && (e.cf fd).rounds (e.cf fs) && (src s j).isSome)
    (fun j u => match src s j with
      | some c => convert (e.cf fd) (e.cf fs) e.sb e.rm u c
      | none => (0, fNone))
    (List.range (e.n fd)) { lfsr := e.lfsr }))
/-- `vcvt` (R189). -/
def execVcvt (vd va : VSpec) (k : KReg) (fd fs : Fmt) (e : Energy) (s : State) :=
  run (.vcvt vd va k fd fs e) s (vconv vd k fd fs (fun d s => d == s) fun s j => some (s.el va fs j))
/-- `vpack` (R189). -/
def execVpack (vd va vb : VSpec) (k : KReg) (fd fs : Fmt) (e : Energy) (s : State) :=
  run (.vpack vd va vb k fd fs e) s (vconv vd k fd fs (fun d s => decide (d < s)) fun s j =>
    let n := s.env.n fs
    if j < n then some (s.el va fs j) else if j < 2 * n then some (s.el vb fs (j - n)) else none)
/-- `vunpk` (R189). -/
def execVunpk (vd va : VSpec) (k : KReg) (fd fs : Fmt) (hi : Bool) (e : Energy) (s : State) :=
  run (.vunpk vd va k fd fs hi e) s (vconv vd k fd fs (fun d s => decide (s < d)) fun s j =>
    let i := (if hi then s.env.n fd else 0) + j
    some (if i < s.env.n fs then s.el va fs i else 0))

/-- One element of `vscl` (R191). -/
def sclEl (f : FFmt) (rm : RMode) (u sb a : Nat) : Nat × Flags :=
  if scaleExp sb = 63 then f.round rm u .dnan else f.round rm u ((f.value a).scale ((scaleExp sb : Int) - 32))
/-- `vscl` (R191). DESIGN CHOICE (log entry 130): a scale byte of another Type is refused whichever elements are active. -/
def execVscl (vd va vb : VSpec) (k : KReg) (f : Fmt) (e : Energy) (s : State) :=
  run (.vscl vd va vb k f e) s fun s =>
    let v := s.env
    let sb := (s.rv vb).toNat % 256
    if scaleType sb ≠ 0 then .error (bad .illegalOp) else
    s.vmap vd k f true fun i u => match v.cf f with
      | .flt ff => sclEl ff v.rm u sb (s.el va f i)
      | _ => (0, fNone)

/-! ## Reductions and scans -/

/-- The identity of a reduction (R130). -/
def redIdentity (op : RedOp) (c : CFmt) : Nat :=
  match c with
  | .int sg w => match op with
    | .add | .or_ | .xor_ => 0
    | .min => wrapI w (iMax sg w)
    | .max => wrapI w (iMin sg w)
    | .and_ => 2 ^ w - 1
  | .flt f => match op with
    | .min => f.infCode false
    | .max => f.infCode true
    | .add | .and_ | .or_ | .xor_ => 0
  | .blk _ | .quad => 0

/-- One combination (R195). -/
def redOp (op : RedOp) (c : CFmt) (rm : RMode) (u a b : Nat) : Nat × Flags :=
  match op with
  | .add => VBin.apply .add c rm u a b
  | .min => VBin.apply .min c rm u a b
  | .max => VBin.apply .max c rm u a b
  | .and_ => (a &&& b, fNone)
  | .or_ => (a ||| b, fNone)
  | .xor_ => (a ^^^ b, fNone)

/-- A reduction in progress: flags and generator. -/
structure RAcc where
  flags : Flags := fNone
  lfsr : Nat := 0
  deriving DecidableEq, Repr

/-- Combine two values that may be absent; a word is taken when both are present (R130, R131). DESIGN CHOICE (log entry 130): a lone NaN
passes a node with its bits as they are, and a combination of a scan with an absent subtree takes no word. -/
def redNode (op : RedOp) (c : CFmt) (rm : RMode) (sr : Bool) (a b : Option Nat) (r : RAcc) : Option Nat × RAcc :=
  match a, b with
  | some x, some y =>
    let l := takeWord sr r.lfsr
    let (v, fl) := redOp op c rm l x y
    (some v, ⟨r.flags ||| fl, l⟩)
  | some x, none => (some x, r)
  | none, y => (y, r)

/-- One level of the tree. -/
def redLevel (op : RedOp) (c : CFmt) (rm : RMode) (sr : Bool) : List (Option Nat) → RAcc → List (Option Nat) × RAcc
  | a :: b :: rest, r =>
    let (v, r) := redNode op c rm sr a b r
    let (vs, r) := redLevel op c rm sr rest r
    (v :: vs, r)
  | vs, r => (vs, r)

/-- The levels of the tree, leaves first (R130); eight levels cover 128 elements. -/
def redTree (op : RedOp) (c : CFmt) (rm : RMode) (sr : Bool) : Nat → List (Option Nat) → RAcc →
    List (List (Option Nat)) × RAcc
  | 0, vs, r => ([vs], r)
  | n + 1, vs, r =>
    let (up, r) := redLevel op c rm sr vs r
    let (rest, r) := redTree op c rm sr n up r
    (vs :: rest, r)

/-- Levels of the tree of n elements. -/
def treeDepth (n : Nat) : Nat := bitLen (n - 1)

/-- The aligned subtrees that cover the first m elements, largest and lowest first: level and index (R131). -/
def cover (m : Nat) : Nat → Nat → List (Nat × Nat)
  | 0, start => if m - start = 0 then [] else [(0, start)]
  | l + 1, start =>
    if start + 2 ^ (l + 1) ≤ m then (l + 1, start / 2 ^ (l + 1)) :: cover m l (start + 2 ^ (l + 1)) else cover m l start

/-- One element of a scan (R131). -/
def scanOne (op : RedOp) (c : CFmt) (rm : RMode) (sr : Bool) (levels : List (List (Option Nat))) :
    List (Nat × Nat) → Option Nat → RAcc → Option Nat × RAcc
  | [], v, r => (v, r)
  | p :: ps, v, r =>
    let (v, r) := redNode op c rm sr v (((levels.getD p.1 []).getD p.2 none)) r
    scanOne op c rm sr levels ps v r

/-- The input leaves. -/
def State.leaves (s : State) (va : VSpec) (k : KReg) (f : Fmt) : List (Option Nat) :=
  let e := s.env
  (List.range (e.n f)).map fun i => if active (e.w f) (s.rk k) i then some (s.el va f i) else none

/-- The reduction rounds at its nodes. -/
def redRounds (op : RedOp) (f : Fmt) : Bool := op == .add && f.isFloat

/-- `vred` (R195). -/
def execVred (vd va : VSpec) (k : KReg) (f : Fmt) (op : RedOp) (e : Energy) (s : State) :=
  run (.vred vd va k f op e) s fun s =>
    let v := s.env
    let (ls, r) := redTree op (v.cf f) v.rm (v.sr && redRounds op f) (treeDepth (v.n f)) (s.leaves va k f) { lfsr := v.lfsr }
    let root := ((ls.getLast?.getD []).getD 0 none).getD (redIdentity op (v.cf f))
    .ok (s.vdone vd ⟨root, r.flags, r.lfsr⟩)

/-- The elements of a scan in order. -/
def scanAll (op : RedOp) (c : CFmt) (rm : RMode) (sr : Bool) (w : Nat) (levels : List (List (Option Nat))) (depth : Nat) :
    List Nat → VAcc → VAcc
  | [], a => a
  | i :: is_, a =>
    let (v, r) := scanOne op c rm sr levels (cover (i + 1) depth 0) none ⟨a.flags, a.lfsr⟩
    scanAll op c rm sr w levels depth is_ ⟨a.bits + v.getD (redIdentity op c) * 2 ^ (w * i), r.flags, r.lfsr⟩

/-- `vscan` (R195). -/
def execVscan (vd va : VSpec) (k : KReg) (f : Fmt) (op : RedOp) (e : Energy) (s : State) :=
  run (.vscan vd va k f op e) s fun s =>
    let v := s.env
    let sr := v.sr && redRounds op f
    let d := treeDepth (v.n f)
    let (ls, r) := redTree op (v.cf f) v.rm sr d (s.leaves va k f) { lfsr := v.lfsr }
    .ok (s.vdone vd (scanAll op (v.cf f) v.rm sr (v.w f) ls d (List.range (v.n f)) ⟨0, r.flags, r.lfsr⟩))

/-! ## Permutations and single elements -/

/-- `vperm` (R196). -/
def execVperm (vd va vb vc : VSpec) (k : KReg) (f : Fmt) (e : Energy) (s : State) :=
  run (.vperm vd va vb vc k f e) s fun s =>
    let n := s.env.n f
    s.vmap vd k f false fun i _ =>
      let j := s.el va f i % (2 * n)
      (if j < n then s.el vb f j else s.el vc f (j - n), fNone)

/-- The source index of a shuffle; none when the pattern does not fit n elements of width w (R197). -/
def shufIndex (p : Shuf) (w n i : Nat) : Option Nat :=
  match p with
  | .rot q => some ((i + q.toNat) % n)
  | .bc q => if q.toNat < n then some q.toNat else none
  | .rev q => if w = 6 ∨ n < 2 ^ (q.toNat + 1) then none else some (i ^^^ (2 ^ (q.toNat + 1) - 1))
  | .uzp => if w = 6 then none else some (if i < n / 2 then 2 * i else 2 * (i - n / 2) + 1)
  | .zip => if w = 6 then none else some (if i % 2 = 0 then i / 2 else n / 2 + (i - 1) / 2)
/-- `vshuf` (R197). -/
def execVshuf (vd va : VSpec) (k : KReg) (f : Fmt) (pat : Shuf) (e : Energy) (s : State) :=
  run (.vshuf vd va k f pat e) s fun s =>
    let v := s.env
    if (shufIndex pat (v.w f) (v.n f) 0).isNone then .error (bad .illegalOp)
    else s.vmap vd k f false fun i _ => (s.el va f ((shufIndex pat (v.w f) (v.n f) i).getD 0), fNone)

/-- `vbc` (R198). -/
def execVbc (vd : VSpec) (a : GSpec) (k : KReg) (f : Fmt) (e : Energy) (s : State) :=
  run (.vbc vd a k f e) s fun s =>
    let (x, s) := s.rd a
    s.vmap vd k f false fun _ _ => (x.toNat % 2 ^ s.env.w f, fNone)

/-- The general value of an element (R199). -/
def elemWord (c : CFmt) (w v : Nat) : Word :=
  match c with
  | .int sg _ => BitVec.ofInt 64 (ival sg w v)
  | .flt _ | .blk _ | .quad => word v
/-- `vext` (R199). -/
def execVext (d : GSpec) (va : VSpec) (f : Fmt) (idx : BitVec 6) (s : State) :=
  run (.vext d va f idx) s fun s =>
    let v := s.env
    if v.n f ≤ idx.toNat then .error (bad .illegalOp)
    else .ok (s.wr d (elemWord (v.cf f) (v.w f) (s.el va f idx.toNat)))
/-- `vins` (R199). -/
def execVins (vd : VSpec) (a : GSpec) (f : Fmt) (idx : BitVec 6) (s : State) :=
  run (.vins vd a f idx) s fun s =>
    let v := s.env
    if v.n f ≤ idx.toNat then .error (bad .illegalOp) else
    let (x, s) := s.rd a
    let old := s.rv vd
    let bits := (List.range (v.n f)).foldl (fun b i =>
      b + (if i = idx.toNat then x.toNat % 2 ^ v.w f else elemAt (v.w f) old i) * 2 ^ (v.w f * i)) 0
    .ok (s.wv vd (BitVec.ofNat 512 bits))

/-- `vqrecv` (R200): the whole entry under the mask's bytes. -/
def execVqrecv (vd : VSpec) (n : BitVec 3) (k : KReg) (e : Energy) (s : State) :=
  run (.vqrecv vd n k e) s fun s =>
    let (x, s) := s.popQ s.cur.core (s.qid n.toNat)
    .ok (s.wv vd (mergeBytes (s.rv vd) x (s.rk k)))
/-- `vqsend` (R200). -/
def execVqsend (n : BitVec 3) (va : VSpec) (s : State) :=
  run (.vqsend n va) s fun s => .ok (s.issuePush (s.qid n.toNat) (s.rv va))

/-! ## Lane masks -/

/-- `kand` (R201). -/
def execKand (d a b : KReg) (s : State) := run (.kand d a b) s fun s => .ok (s.wk d (s.rk a &&& s.rk b))
/-- `kor` (R201). -/
def execKor (d a b : KReg) (s : State) := run (.kor d a b) s fun s => .ok (s.wk d (s.rk a ||| s.rk b))
/-- `kxor` (R201). -/
def execKxor (d a b : KReg) (s : State) := run (.kxor d a b) s fun s => .ok (s.wk d (s.rk a ^^^ s.rk b))
/-- `knot` (R201). -/
def execKnot (d a : KReg) (s : State) := run (.knot d a) s fun s => .ok (s.wk d (~~~(s.rk a)))
/-- `kmov` (R201). -/
def execKmov (d a : KReg) (s : State) := run (.kmov d a) s fun s => .ok (s.wk d (s.rk a))
/-- `kpop` (R201). -/
def execKpop (d : GSpec) (a : KReg) (s : State) :=
  run (.kpop d a) s fun s =>
    .ok (s.wr d (word ((List.range 64).filter fun i => (s.rk a).getLsbD i).length))

end Sys2Proof.Machine
end

