-- ==== Sys2Proof/Machine/Special.lean ====
section
/-!
DEFINITION. The special functions (R192 to R194) and the loading of their coefficient tables (R172 to R174).
-/

namespace Sys2Proof.Machine

/-! ## Reductions -/

/-- What a reduction gives (R192): the segment, the offset, and the assembly of the polynomial's value. -/
structure Reduced where
  seg : Nat
  t : FV
  neg : Bool
  scale : Int
  plus : Int
  deriving DecidableEq, Repr

/-- What an input comes to: a special case's value with its flags (R193, R194), or a reduction. -/
inductive SpecialIn where
  | done (v : FV) (fl : Flags)
  | red (r : Reduced)
  deriving DecidableEq, Repr

/-- A nonzero magnitude m·2^e as a 24-bit significand and the exponent of its leading bit. -/
def normal24 (m : Nat) (e : Int) : Nat × Int :=
  let l := bitLen m
  (m * 2 ^ (24 - l), (l : Int) - 1 + e)

/-- A significand of exactly one. -/
def isOne24 (sig : Nat) : Bool := sig == 2 ^ 23

/-- The least exponent of a subnormal of a format. -/
def FFmt.minExp (f : FFmt) : Int := 1 - (f.bias : Int) - f.fw
/-- The exponent beyond which no finite value lies. -/
def FFmt.topExp (f : FFmt) : Int := (2 ^ f.ew : Nat) - 1 - (f.bias : Int)

/-- `vrcp`. -/
def redRcp (f : FFmt) (s : Bool) (sig : Nat) (e : Int) : SpecialIn :=
  if isOne24 sig && decide (f.minExp ≤ -e) && decide (-e < f.topExp) then .done (.fin s 1 (-e)) fNone
  else
    let seg := sig / 2 ^ 17 % 64
    .red ⟨seg, .fin false (sig % 2 ^ 17) (-23), s, -e, 0⟩

/-- The segment and offset of the roots: the significand of an even exponent. -/
def redRoot (sig : Nat) (e : Int) : Nat × FV × Int :=
  if e % 2 = 0 then (sig / 2 ^ 18 % 32, .fin false (sig % 2 ^ 18) (-23), e)
  else (32 + sig / 2 ^ 18 % 32, .fin false (sig % 2 ^ 18) (-22), e - 1)

/-- `vsqrt`, or `vrsq`. -/
def redSqrt (recip : Bool) (sig : Nat) (e : Int) : SpecialIn :=
  if !recip && isOne24 sig && e % 2 == 0 then .done (.fin false 1 (e / 2)) fNone
  else
    let (seg, t, e') := redRoot sig e
    .red ⟨seg, t, false, if recip then -(e' / 2) else e' / 2, 0⟩

/-- `vexp2`: overflow and underflow by the input, since 2^x is monotone. -/
def redExp2 (f : FFmt) (s : Bool) (sig : Nat) (e : Int) : SpecialIn :=
  if 11 ≤ e then (if s then .done (.fin false 0 0) fInexact else .done (.inf false) fInexact) else
  -- x in units of 2^-k
  let k := (23 - e).toNat
  let x : Int := smant s sig
  let n := x / 2 ^ k
  let fr := (x % 2 ^ k).toNat
  if f.topExp ≤ n then .done (.inf false) fInexact
  else if n < f.minExp then .done (.fin false 0 0) fInexact
  else if fr = 0 then .done (.fin false 1 n) fNone
  else
    let seg := fr * 64 / 2 ^ k
    .red ⟨seg, .fin false (fr * 64 - seg * 2 ^ k) (-(k : Int) - 6), false, n, 0⟩

/-- `vlog2`. -/
def redLog2 (sig : Nat) (e : Int) : SpecialIn :=
  if isOne24 sig then .done (.fin (decide (e < 0)) e.natAbs 0) fNone
  else .red ⟨sig / 2 ^ 17 % 64, .fin false (sig % 2 ^ 17) (-23), false, 0, e⟩

/-- π·2^400, rounded down: the precision to which the range reduction of R193 is carried out. -/
def pi400 : Nat :=
  0x3243F6A8885A308D313198A2E03707344A4093822299F31D0082EFA98EC4E6C89452821E638D01377BE5466CF34E90C6CC0AC

/-- The NaN of R193. -/
def rangeNan : FV := .nan false (0x7F0001 * 2 ^ 8)

/-- `vsin` and `vcos`: x = q·π/2 + g. -/
def redTrig (cos : Bool) (s : Bool) (sig : Nat) (e : Int) : SpecialIn :=
  -- |x| and π/2 in units of 2^-400
  let x := sig * pow2 (e - 23 + 400)
  let half := pi400 / 2
  if pi400 * 2 ^ 20 < x then .done rangeNan fRange else
  let q := (2 * x + half) / (2 * half)
  let g : Int := (x : Int) - q * half
  let qs := if s then (4 - q % 4) % 4 else q % 4
  let gneg := (decide (g < 0)) != s
  let (c, neg) := match cos, qs with
    | false, 0 => (false, gneg)
    | false, 1 => (true, false)
    | false, 2 => (false, !gneg)
    | false, _ => (true, true)
    | true, 0 => (true, false)
    | true, 1 => (false, !gneg)
    | true, 2 => (true, true)
    | true, _ => (false, gneg)
  let a := g.natAbs
  let j := min 31 (a * 64 / half)
  .red ⟨(if c then 32 else 0) + j, .fin false (64 * a - j * half) (-406), neg, 0, 0⟩

/-- `vtanh`. -/
def redTanh (s : Bool) (sig : Nat) (e : Int) : SpecialIn :=
  if 3 ≤ e then .done (.fin s 1 0) fInexact else
  let k := (23 - e).toNat
  let seg := 8 * sig / 2 ^ k
  .red ⟨seg, .fin false (8 * sig - seg * 2 ^ k) (-(k : Int) - 3), s, 0, 0⟩

/-- A special function of major 0xBA + n (R172). -/
def specialIn (n : Nat) (f : FFmt) (x : FV) : SpecialIn :=
  match x with
  | .nan s p => .done (.nan s p) fNone
  | .inf s => match n with
    | 0 => .done (.fin s 0 0) fNone
    | 1 => if s then .done .dnan fNan else .done (.fin false 0 0) fNone
    | 2 => if s then .done .dnan fNan else .done (.inf false) fNone
    | 3 => if s then .done (.fin false 0 0) fNone else .done (.inf false) fNone
    | 4 => if s then .done .dnan fNan else .done (.inf false) fNone
    | 5 | 6 => .done .dnan fNan
    | _ => .done (.fin s 1 0) fNone
  | .fin s m e =>
    if m = 0 then
      match n with
      | 0 | 1 => .done (.inf s) fDz
      | 2 => .done (.fin s 0 0) fNone
      | 3 => .done (.fin false 1 0) fNone
      | 4 => .done (.inf true) fDz
      | 5 => .done (.fin s 0 0) fNone
      | 6 => .done (.fin false 1 0) fNone
      | _ => .done (.fin s 0 0) fNone
    else
      let (sig, ex) := normal24 m e
      match n with
      | 0 => redRcp f s sig ex
      | 1 => if s then .done .dnan fNan else redSqrt true sig ex
      | 2 => if s then .done .dnan fNan else redSqrt false sig ex
      | 3 => redExp2 f s sig ex
      | 4 => if s then .done .dnan fNan else redLog2 sig ex
      | 5 => redTrig false s sig ex
      | 6 => redTrig true s sig ex
      | _ => redTanh s sig ex

/-! ## Evaluation -/

/-- Word i of a context's coefficient table (R172, R174). -/
def State.coeff (s : State) (core ctx t i : Nat) : Nat :=
  match FMap.find (16 * ctx + t) (s.core core).ctabs with
  | some ws => ws.getD i 0
  | none => (Config.factoryTable t i).toNat

/-- One step of the polynomial: an FP32 fused multiply-add by RNE. DESIGN CHOICE (log entry 130): the offset t takes part as it is, be it
no FP32 number. -/
def hornerStep (p t c : FV) : FV := fp32.value (fp32.round .rne 0 (fvFma 23 .rne p t c).1).1

/-- The value of a reduced input (R192): a NaN keeps its sign (R114, R115). -/
def evalReduced (coeff : Nat → Nat) (r : Reduced) : FV :=
  let c (j : Nat) : FV := fp32.value (coeff (4 * r.seg + j))
  let p := hornerStep (hornerStep (hornerStep (c 3) r.t (c 2)) r.t (c 1)) r.t (c 0)
  let p := if r.plus = 0 then p else (fvAdd 23 .rne p (.fin (decide (r.plus < 0)) r.plus.natAbs 0)).1
  let p := p.scale r.scale
  if r.neg && !p.isNan then p.flip else p

/-- One element of a special function: rounded to F by RNE, INEXACT unless a special case. DESIGN CHOICE (log entry 130): a step that is
invalid because loaded coefficients are infinite sets no NAN flag. -/
def specialEl (n : Nat) (f : FFmt) (coeff : Nat → Nat) (a : Nat) : Nat × Flags :=
  match specialIn n f (f.value a) with
  | .done v fl => ((f.round .rne 0 v).1, fl)
  | .red r => ((f.round .rne 0 (evalReduced coeff r)).1, fInexact)

/-- The issuing context's tables stand in its core, and no thread waits to put others there (R174). -/
def State.ownsTables (s : State) : Bool := s.srcCore.tabOwner == some s.thr.ctx && s.srcCore.tabWant.isNone

/-- A special function: the issuing context must own the core's tables (R174), and no load of its table be in flight (R173); the
result is written late (R192), its flags are set as it issues (R51, R193). -/
def special (n : Nat) (vd va : VSpec) (k : KReg) (f : Fmt) (l : Look) (s : State) : Res :=
  let c := s.cur.core
  let ctx := s.thr.ctx
  let t := if f = .fp32 then n else n + 8
  if !s.ownsTables || s.srcCore.tabInUse (.loads t) then .error .stall else
  let v := s.env
  let ff := match v.cf f with
    | .flt ff => ff
    | _ => fp32
  let a := eachElem (v.w f) (s.rk k) (s.rv vd) (fun _ => false)
    (fun i _ => specialEl n ff (s.coeff c ctx t) (s.el va f i)) (List.range (v.n f)) {}
  let (_, s) := s.openWindow l.toNat [.v vd.toNat] 0 [.v vd.toNat allBytes (BitVec.ofNat 512 a.bits)]
    (tab := some (.reads t))
  .ok (s.addFlags a.flags)

/-- `vrcp` (R192). -/
def execVrcp (vd va : VSpec) (k : KReg) (f : Fmt) (l : Look) (e : Energy) (s : State) :=
  run (.vrcp vd va k f l e) s (special 0 vd va k f l)
/-- `vrsq` (R192). -/
def execVrsq (vd va : VSpec) (k : KReg) (f : Fmt) (l : Look) (e : Energy) (s : State) :=
  run (.vrsq vd va k f l e) s (special 1 vd va k f l)
/-- `vsqrt` (R192). -/
def execVsqrt (vd va : VSpec) (k : KReg) (f : Fmt) (l : Look) (e : Energy) (s : State) :=
  run (.vsqrt vd va k f l e) s (special 2 vd va k f l)
/-- `vexp2` (R192). -/
def execVexp2 (vd va : VSpec) (k : KReg) (f : Fmt) (l : Look) (e : Energy) (s : State) :=
  run (.vexp2 vd va k f l e) s (special 3 vd va k f l)
/-- `vlog2` (R192). -/
def execVlog2 (vd va : VSpec) (k : KReg) (f : Fmt) (l : Look) (e : Energy) (s : State) :=
  run (.vlog2 vd va k f l e) s (special 4 vd va k f l)
/-- `vsin` (R192). -/
def execVsin (vd va : VSpec) (k : KReg) (f : Fmt) (l : Look) (e : Energy) (s : State) :=
  run (.vsin vd va k f l e) s (special 5 vd va k f l)
/-- `vcos` (R192). -/
def execVcos (vd va : VSpec) (k : KReg) (f : Fmt) (l : Look) (e : Energy) (s : State) :=
  run (.vcos vd va k f l e) s (special 6 vd va k f l)
/-- `vtanh` (R192). -/
def execVtanh (vd va : VSpec) (k : KReg) (f : Fmt) (l : Look) (e : Energy) (s : State) :=
  run (.vtanh vd va k f l e) s (special 7 vd va k f l)

/-- `ctab.load` (R172 to R175): the special functions in flight hold results computed from the old table; the table is written once
they have completed, and those that would use it meanwhile stall. -/
def execCtabLoad (a : GSpec) (t : BitVec 4) (l : Look) (s : State) :=
  run (.ctabLoad a t l) s fun s => do
    let ctx := s.thr.ctx
    let (ea, s) := s.rd a
    if ea.toNat % 64 ≠ 0 then .error (bad .misaligned ea) else
    if !s.ownsTables || s.srcCore.tabInUse (.loads t.toNat) then .error .stall else
    let (bs, s) ← s.bulk ea.toNat 16
    let ws := (List.range 256).map fun i => leNat ((bs.drop (4 * i)).take 4)
    .ok (s.openWindow l.toNat [] 0 [.ctab (16 * ctx + t.toNat) ws] (tab := some (.loads t.toNat))).2

end Sys2Proof.Machine
end

