-- ==== Sys2Proof/Machine/Matrix.lean ====
section
/-!
DEFINITION. The matrix unit, its B-store and feeder, and the quad transpose exchange (spec/08_matrix_instructions.md).
-/

namespace Sys2Proof.Machine

/-! ## Elements and sums -/

/-- An element as the unit reads it: its value, whether it is an integer, and whether its word carries poison (R470). -/
structure MElem where
  v : FV
  int : Bool
  bad : Bool
  deriving DecidableEq, Repr

/-- The value of a code of a matrix format under its scale byte (R218). -/
def matValue (f : Fmt) (sb code : Nat) : FV × Bool :=
  match cfmt true 4 f with
  | .int sg w => let v := ival sg w code; (.fin (decide (v < 0)) v.natAbs 0, true)
  | .flt ff => (ff.value code, false)
  | .blk ff => ((ff.value code).scaled sb, false)
  | .quad => ((quadValue (scaleType sb) code).scaled sb, scaleType sb == 0)

/-- Width of a matrix format (R205). -/
def matWidth (f : Fmt) : Nat := Fmt.width 4 f
/-- Elements in one entry of the A stream (R205). -/
def matPer (f : Fmt) : Nat := 512 / matWidth f

/-- A product (R128, R129): a NaN product says whether the sum makes it from elements that are not NaN. -/
inductive MProd where
  | nan (made : Bool)
  | inf (neg : Bool)
  | fin (neg : Bool) (m : Nat) (e : Int)
  deriving DecidableEq, Repr

/-- The product of two elements. Exact integers have no signed zero. -/
def mulElem (a b : MElem) : MProd :=
  if a.bad || b.bad then .nan true else
  match a.v, b.v with
  | .nan _ _, _ => .nan false
  | _, .nan _ _ => .nan false
  | .fin s m e, .fin t n d => .fin ((s != t) && !(a.int && b.int && m * n == 0)) (m * n) (e + d)
  | .inf s, y => if y.isZero then .nan true else .inf (s != y.neg)
  | x, .inf t => if x.isZero then .nan true else .inf (x.neg != t)

/-- The NaN of a core and a k index (R127). -/
def matNan (tile k : Nat) : FV := .nan false (2 ^ 30 + (tile % 2048 * 2 ^ 11 + k % 2 ^ 11) * 2 ^ 8)

/-- The sum of a group of products with their k (R128, R129). -/
def groupSum (tile : Nat) (ps : List (Nat × MProd)) : FV × Flags :=
  let nans : List (Nat × Bool) := ps.filterMap fun p => match p.2 with
    | .nan made => some (p.1, made)
    | .inf _ | .fin _ _ _ => none
  let infs : List (Nat × Bool) := ps.filterMap fun p => match p.2 with
    | .inf s => some (p.1, s)
    | .nan _ | .fin _ _ _ => none
  let cancel : Option Nat := match infs with
    | [] => none
    | (_, s) :: rest => (rest.find? fun (p : Nat × Bool) => p.2 != s).map Prod.fst
  let fl := if cancel.isSome || nans.any Prod.snd then fNan else fNone
  match (nans.map Prod.fst ++ cancel.toList).min? with
  | some k => (matNan tile k, fl)
  | none =>
    match infs with
    | (_, s) :: _ => (.inf s, fl)
    | [] => (sumFin .rne (ps.filterMap fun p => match p.2 with
        | .fin s m e => some (s, m, e)
        | .nan _ | .inf _ => none), fl)

/-- A group sum added to an accumulator element: k0 is the group's first k (R128, R129). A zero is −0 only when both were −0. -/
def accAdd (tile k0 code : Nat) (g : FV) : Nat × Flags :=
  let a := acc40.value code
  match pickNan 31 [a, g] with
  | some v => ((acc40.round .rne 0 v).1, fNone)
  | none =>
    match a, g with
    | .inf s, .inf t => if s = t then (code, fNone) else ((acc40.round .rne 0 (matNan tile k0)).1, fNan)
    | .inf _, _ => (code, fNone)
    | _, .inf t => (acc40.infCode t, fNone)
    | .fin s m e, .fin t n d =>
      let r := (acc40.round .rne 0 (sumFin .rne [(s, m, e), (t, n, d)])).1
      (if r = 2 ^ 39 ∧ ¬(s = true ∧ m = 0 ∧ t = true ∧ n = 0) then 0 else r, fNone)
    | _, _ => (code, fNone)

/-- One element of the product (R218): K values of k, from an accumulator element. -/
def mmaElem (tile kk : Nat) (a b : Nat → MElem) (code : Nat) : Nat × Flags :=
  (List.range ((kk + 15) / 16)).foldl (fun (c : Nat × Flags) g =>
    let (v, fl) := groupSum tile ((List.range (min 16 (kk - 16 * g))).map fun i =>
      (16 * g + i, mulElem (a (16 * g + i)) (b (16 * g + i))))
    let (r, fl') := accAdd tile (16 * g) c.1 v
    (r, c.2 ||| fl ||| fl')) (code, fNone)

/-! ## Accumulators -/

/-- An accumulator's element (R204). -/
def Core.accAt (k : Core) (n x : Nat) : Nat := FMap.get 0 k.acc (4096 * n + x)
/-- Replace the elements of an accumulator. -/
def accPut (m : FMap Nat) (n : Nat) (f : Nat → Nat) : FMap Nat :=
  (m.filter fun p => decide (p.1 < 4096 * n)) ++
  ((List.range 4096).filterMap fun x => if f x % 2 ^ 40 = 0 then none else some (4096 * n + x, f x % 2 ^ 40)) ++
  m.filter fun p => decide (4096 * n + 4096 ≤ p.1)

/-- The words of 8 bytes that bits lo to lo + w − 1 of a line touch, under a mask of words. -/
def touches (mask lo w : Nat) : Bool := mask.testBit (lo / 64) || mask.testBit ((lo + w - 1) / 64)

/-- The poisoned words of a line of slice or B-store (R470). -/
def State.badWords (s : State) (key : Nat) : Nat :=
  (List.range 8).foldl (fun m i => if s.poison.contains (key + 8 * i) then m + 2 ^ i else m) 0

/-- A B-store byte that the context does not hold reads zero (R209). -/
def State.bHeld (s : State) (ctx tile off : Nat) : Bool := s.grantee tile (64 + off / 2 ^ 16) == some ctx

/-- Where element k of a column stands: byte within the column of its line, bit within the line (R112, R209). -/
def colSpot (w k : Nat) : Nat × Nat :=
  if w = 6 then (64 * (k / 85), 6 * (k % 85)) else (w * k / 512 * 64, w * k % 512)

/-- Bytes of a column (R209). -/
def colBytes (w k : Nat) : Nat := if w = 6 then 64 * ((k + 84) / 85) else (k * w + 7) / 8

/-- The scale byte of block k div 32 of row or column i; 0x20 with none sampled (R208). -/
def scaleOf (sc : List Nat) (nb i k : Nat) : Nat := if sc = [] then 0x20 else sc.getD (i * nb + k / 32) 0

/-- A(i, k) of a staged stream (R213). -/
def MOp.elemA (o : MOp) (f : Fmt) (nb i k : Nat) : MElem :=
  let w := matWidth f
  let p := matPer f
  let e := 64 * (k / p) + i
  let (v, int) := matValue f (scaleOf o.sa nb i k) (elemAt w (o.staged.getD e 0) (k % p))
  ⟨v, int, touches (o.bad.getD e 0) (w * (k % p)) w⟩

/-- B(k, j) from bank j of the B-store (R209). -/
def State.elemB (s : State) (c : Nat) (o : MOp) (f : Fmt) (nb j k : Nat) : MElem :=
  let w := matWidth f
  let (line, bit) := colSpot w k
  let off := j * 2 ^ 17 + o.bptr + line
  let key := bstoreKey c off
  let held := s.bHeld o.ctx c off
  let code := if held then s.readN key 64 / 2 ^ bit % 2 ^ w else 0
  let (v, int) := matValue f (scaleOf o.sb nb j k) code
  ⟨v, int, held && touches (s.badWords key) bit w⟩

/-! ## Acceptance -/

/-- Entries that the queue of a core holds at most (R203). -/
def mqDepth : Nat := 4

/-- The queue ids of the A stream (R213), and of rows in each direction (R222). -/
def mmaQueue (id : Nat) : Bool := decide (id < 8) || id == 0x12 || id == 0x13 || id == 0x18
/-- `mrd` pushes. -/
def mrdQueue (id : Nat) : Bool := decide (id < 8) || id == 0x10 || id == 0x11 || id == 0x18 || id == 0x19
/-- `mwr` pops. -/
def mwrQueue (id : Nat) : Bool := decide (id < 8) || id == 0x12 || id == 0x13 || id == 0x18 || id == 0x19

/-- Enter an operation with its window (R203, R225): `late` holds the destinations of a result that comes at completion. -/
def State.enqueue (s : State) (kind : MKind) (acc : Nat) (l : Look) (late : Option (List Dest)) (f : MOp → MOp) : State :=
  let t := s.thr
  let (wid, s) := match late with
    | some ds => s.openWindow l.toNat ds 1 []
    | none => s.openWindow l.toNat [] 0 []
  let o : MOp := {
    kind := kind, acc := acc, slot := s.cur.slot, ctx := t.ctx, taskh := t.ctl.taskh, pc := s.ipc, row := 0, queue := none
    bptr := 0, sa := [], sb := [], round := 0, wid := late.map fun _ => wid, staged := [], range := false, bad := []
    at_ := s.cycle, started := false, flags := 0 }
  s.modHere fun k => { k with mq := k.mq ++ [f o] }

/-- The thread is stalled while the unit's queue is full (R203). -/
def State.room (s : State) : Res := if mqDepth ≤ s.here.mq.length then .error .stall else .ok s

/-- The granules of a slice range are held by the context; an operation that meets one that is not is out of range (R420). -/
def State.heldRange (s : State) (ctx tile lo n : Nat) : Bool :=
  n == 0 || (List.range ((lo + n - 1) / 2 ^ 16 - lo / 2 ^ 16 + 1)).all fun i =>
    s.grantee tile (lo / 2 ^ 16 + i) == some ctx

/-- The offset of a range that lies wholly in the local aperture; none elsewhere. -/
def State.localRange (s : State) (ea : Word) (n : Nat) : Option Nat :=
  let c := s.cur.core
  let base := 2 ^ 47 + c * 2 ^ 22
  if isTile c ∧ base ≤ ea.toNat ∧ ea.toNat + n ≤ base + 2 ^ 22 then some (ea.toNat - base) else none

/-- Scale bytes of an operand (R208): none when they are not enabled or the format takes none. -/
def State.sampleScales (s : State) (reg : Word) (f : Fmt) (kk : Nat) : Except Stop (List Nat) :=
  if !reg.getLsbD 63 || !(cfmt true 4 f).isBlock || kk = 0 then .ok [] else
  let c := s.cur.core
  let off := (reg.extractLsb' 0 22).toNat
  let stride := (reg.extractLsb' 32 16).toNat
  let nb := (kk + 31) / 32
  if 2 ^ 22 < off + 63 * stride + nb ∨ !isTile c ∨ !s.heldRange s.thr.ctx c off (63 * stride + nb) then
    .error (bad .matrixRange)
  else
    let ks := (List.range 64).flatMap fun i => (List.range nb).map fun b => sliceKey c (off + i * stride + b)
    match ks.find? fun k => s.poison.contains (poisonOf k) with
    | some k => .error (badAt .memError (2 ^ 47 + c * 2 ^ 22 + (k - sliceKey c 0)))
    | none => .ok (ks.map fun k => (s.byte k).toNat)

/-- A scale byte of a 6-bit or 8-bit block with a nonzero Type (R121). -/
def badType (f : Fmt) (sc : List Nat) : Bool := (cfmt true 4 f).narrow && sc.any fun b => scaleType b != 0

/-- The feature bit of an operand format (R205). -/
def matFeature (f : Fmt) : Nat :=
  match f with
  | .fp16 | .bf16 => 2
  | .e3m2 | .e2m3 => 4
  | .qc => 5
  | _ => 3

/-- A format code held in a control register. -/
def fmtOf (w : Word) (d : Fmt) : Fmt := (Fmt.ofBits (w.extractLsb' 0 5)).getD d

/-- The B range of some banks meets lines that a copy will yet write (R212). -/
def State.bLocked (s : State) (c off n : Nat) (banks : List Nat) : Bool :=
  banks.any fun b => (List.range ((off % 64 + n + 63) / 64)).any fun i =>
    s.rangeLocked (bstoreKey c (b * 2 ^ 17 + off + 64 * i)) false

/-- `mma` (R213 to R218): its operands are sampled and its faults decided at acceptance, in the order of R217. -/
def execMma (acc : BitVec 2) (src : BitVec 5) (k : GSpec) (fmts : FmtPair) (z : Bool) (l : Look) (e : Energy) (s : State) :=
  run (.mma acc src k fmts z l e) s fun s => do
    let s ← s.room
    let c := s.cur.core
    let ctl := s.src.ctl
    let kk := (s.rg k).toNat
    let (fa, fb) := match fmts with
      | .over fa fb => (fa, fb)
      | .regs => (fmtOf ctl.fmta .bf16, fmtOf ctl.fmtb .bf16)
    let need := 64 * ((kk + matPer fa - 1) / matPer fa)
    let queue := if src.toNat < 24 then none else some (s.qid (qNum src))
    let refused := match queue with
      | some id => !(qExists c s.cur.slot s.here.mode id && mmaQueue id)
      | none => s.here.mode != 2 || decide (matPer fa < kk) || decide (128 / s.here.mode < 4 * src.toNat + need)
    let bptr := FMap.get 0 s.here.bptr acc.toNat
    let nb := colBytes (matWidth fb) kk
    if refused || !s.cap (matFeature fa) || !s.cap (matFeature fb) then .error (bad .illegalOp)
    else if 2048 < kk ∨ 2 ^ 17 < bptr + nb then .error (bad .matrixRange)
    else
      let sa ← s.sampleScales ctl.scla fa kk
      let sb ← s.sampleScales ctl.sclb fb kk
      if badType fa sa || badType fb sb then .error (bad .illegalOp)
      else if s.bLocked c bptr nb (List.range 64) then .error (bad .rangeLock)
      else
        let rows := match queue with
          | some _ => []
          | none => (List.range need).map fun i => s.vreg (4 * src.toNat + i)
        .ok (s.enqueue (.mma kk fa fb z) acc.toNat l none fun o =>
          { o with queue := queue, bptr := bptr, sa := sa, sb := sb, staged := rows })

/-- `mzero` (R221). -/
def execMzero (acc : BitVec 2) (l : Look) (e : Energy) (s : State) :=
  run (.mzero acc l e) s fun s => do
    let s ← s.room
    .ok (s.enqueue .mzero acc.toNat l none id)

/-- Entries of one row (R222). -/
def rowEntries (f : Fmt) : Nat := if matWidth f = 32 then 4 else if matWidth f = 16 then 2 else 1

/-- The checks that `mrd` and `mwr` share (R222): the first row, the count, the format, the scale, the queue. -/
def State.rowCheck (s : State) (okQueue : Nat → Bool) (src : BitVec 5) (k : GSpec) (vec : VSpec) (row : BitVec 6) (rreg : Bool)
    (cnt : BitVec 6) (fc : FmtOpt) : Except Stop (Nat × Nat × Fmt × Nat × Option Nat) :=
  let fmtc := s.src.ctl.fmtc
  let f := match fc with
    | .over f => f
    | .regs => fmtOf fmtc .fp32
  let osc := (fmtc.extractLsb' 8 8).toNat
  let n := cnt.toNat + 1
  let queue := if src = 0 then none else some (s.qid (qNum src))
  let refused := match queue with
    | some id => !(qExists s.cur.core s.cur.slot s.here.mode id && okQueue id)
    | none => decide (128 / s.here.mode < vec.toNat + n * rowEntries f)
  let cf := cfmt true 4 f
  let first := row.toNat + if rreg then (s.rg k).toNat else 0
  if refused || (cf.isBlock && (scaleExp osc == 63 || (cf.narrow && scaleType osc != 0))) then .error (bad .illegalOp)
  else if 64 < first + n then .error (bad .matrixRange)
  else .ok (first, n, f, osc, queue)

/-- `mrd` (R222): its stochastic words are taken at acceptance, 64 for each row (R124). -/
def execMrd (acc : BitVec 2) (src : BitVec 5) (k : GSpec) (vec : VSpec) (row : BitVec 6) (rreg : Bool) (cnt : BitVec 6)
    (fc : FmtOpt) (l : Look) (e : Energy) (s : State) :=
  run (.mrd acc src k vec row rreg cnt fc l e) s fun s => do
    let s ← s.room
    let (first, n, f, osc, queue) ← s.rowCheck mrdQueue src k vec row rreg cnt fc
    let v := s.env
    let ds := (List.range (n * rowEntries f)).map fun i => Dest.v (vec.toNat + i)
    let round := s.src.ctl.round.toNat
    let s := if v.sr then s.setLfsr (Nat.iterate lfsrWord (64 * n) v.lfsr) else s
    .ok (s.enqueue (.mrd first n f osc) acc.toNat l (match queue with
        | some _ => none
        | none => some ds) fun o =>
      { o with queue := queue, row := vec.toNat, round := round })

/-- `mwr` (R222). -/
def execMwr (acc : BitVec 2) (src : BitVec 5) (k : GSpec) (vec : VSpec) (row : BitVec 6) (rreg : Bool) (cnt : BitVec 6)
    (fc : FmtOpt) (l : Look) (e : Energy) (s : State) :=
  run (.mwr acc src k vec row rreg cnt fc l e) s fun s => do
    let s ← s.room
    let (first, n, f, osc, queue) ← s.rowCheck mwrQueue src k vec row rreg cnt fc
    let rows := match queue with
      | some _ => []
      | none => (List.range (n * rowEntries f)).map fun i => s.vreg (vec.toNat + i)
    .ok (s.enqueue (.mwr first n f osc) acc.toNat l none fun o => { o with queue := queue, staged := rows })

/-- The image of `msave` and `mrest` (R223). -/
def State.accImage (s : State) (a : GSpec) : Except Stop Nat :=
  let ea := s.rg a
  if ea.toNat % 64 ≠ 0 then .error (bad .misaligned ea) else
  match s.localRange ea 20480 with
  | none => .error (bad .matrixRange ea)
  | some off => if s.heldRange s.thr.ctx s.cur.core off 20480 then .ok off else .error (bad .matrixRange ea)
/-- `msave` (R223). An ordered task first becomes irrevocable: the image cannot be buffered. -/
def execMsave (acc : BitVec 2) (a : GSpec) (l : Look) (s : State) :=
  run (.msave acc a l) s fun s => do
    let s ← s.room
    let off ← s.accImage a
    let s ← s.irrevocable
    .ok (s.enqueue (.msave off) acc.toNat l (some []) id)
/-- `mrest` (R223). -/
def execMrest (acc : BitVec 2) (a : GSpec) (l : Look) (s : State) :=
  run (.mrest acc a l) s fun s => do
    let s ← s.room
    let off ← s.accImage a
    let s ← s.irrevocable
    .ok (s.enqueue (.mrest off) acc.toNat l none id)

/-- `bld` (R211). -/
def execBld (a len : GSpec) (line : BitVec 11) (bank cnt : BitVec 6) (l : Look) (e : Energy) (s : State) :=
  run (.bld a len line bank cnt l e) s fun s => do
    let s ← s.room
    let c := s.cur.core
    let ctx := s.thr.ctx
    let n := cnt.toNat + 1
    let off := line.toNat * 64
    let len := (s.rg len).toNat
    if (s.rg a).toNat % 64 ≠ 0 ∨ len % 64 ≠ 0 then .error (bad .misaligned (s.rg a))
    else if len = 0 ∨ 2 ^ 17 < len ∨ 2 ^ 17 < off + len then .error (bad .matrixRange)
    else match s.localRange (s.rg a) (len * n) with
      | none => .error (bad .matrixRange)
      | some src =>
        let banks := (List.range n).map (bank.toNat + ·)
        if !s.heldRange ctx c src (len * n) || banks.any (fun b => (List.range ((len + 63) / 64)).any fun i =>
            !s.bHeld ctx c (b * 2 ^ 17 + off + 64 * i)) then .error (bad .matrixRange)
        else if s.bLocked c off len banks then .error (bad .rangeLock)
        else
          let s ← s.irrevocable
          .ok (s.enqueue (.bld src len (off / 64) bank.toNat n) 4 l none id)

/-- `bsel` (R210). -/
def execBsel (a : GSpec) (acc : BitVec 2) (s : State) :=
  run (.bsel a acc) s fun s =>
    let (v, s) := s.rd a
    if v.toNat % 64 ≠ 0 then .error (bad .misaligned)
    else if 2 ^ 17 ≤ v.toNat then .error (bad .matrixRange)
    else .ok (s.modHere fun k => { k with bptr := k.bptr.set acc.toNat v.toNat })

/-- `mwait` (R224). -/
def execMwait (acc : BitVec 2) (s : State) :=
  run (.mwait acc) s fun s =>
    let t := s.thr
    let mine (o : MOp) : Bool := o.slot == s.cur.slot && o.taskh == t.ctl.taskh && (o.acc == acc.toNat || match o.kind with
      | .bld _ _ _ _ _ | .msave _ => true
      | .mma _ _ _ _ | .mzero | .mrd _ _ _ _ | .mwr _ _ _ _ | .mrest _ => false)
    if s.here.mq.any mine || (s.here.mxp.any fun m => m.2.2.1 == s.cur.slot) then .error .stall else .ok s

/-! ## Execution -/

/-- Copy one line of slice or B-store with its poison (R470). -/
def State.moveLine (s : State) (src dst : Nat) : State :=
  let m := s.badWords src
  let s := s.storeTo dst 64 allBytes (s.readN src 64)
  { s with poison := ((List.range 8).filter m.testBit).map (fun i => dst + 8 * i) ++ s.poison }

/-- Convert an accumulator element for a row (R222). -/
def rowOut (cf : CFmt) (osc : Nat) (rm : RMode) (u code : Nat) : Nat × Flags :=
  let v := acc40.value code
  match cf with
  | .int sg w => toInt sg w rm u v
  | .flt f => f.round rm u v
  | .blk f => f.round rm u (v.scale (32 - (scaleExp osc : Int)))
  | .quad => toQuad (scaleType osc) rm u (v.scale (32 - (scaleExp osc : Int)))

/-- The entries of a row with flags and generator: columns in increasing order (R222, R124). -/
def rowBits (k : Core) (n row : Nat) (f : Fmt) (osc : Nat) (rm : RMode) (a : VAcc) : VAcc :=
  (List.range 64).foldl (fun (a : VAcc) j =>
    let l := takeWord (rm == .sr) a.lfsr
    let (v, fl) := rowOut (cfmt true 4 f) osc rm l (k.accAt n (64 * row + j))
    ⟨a.bits + v * 2 ^ (matWidth f * j), a.flags ||| fl, l⟩) { a with bits := 0 }

/-- The entries of `mrd` in order. -/
def mrdEntries (k : Core) (o : MOp) (row cnt : Nat) (f : Fmt) (osc : Nat) : List Line × Flags :=
  let v := vEnv (BitVec.ofNat 64 o.round) 0
  let (es, a) := (List.range cnt).foldl (fun (p : List Line × VAcc) r =>
    let a := rowBits k o.acc (row + r) f osc v.rm p.2
    (p.1 ++ (List.range (rowEntries f)).map fun q => BitVec.ofNat 512 (a.bits / 2 ^ (512 * q)), a)) ([], { lfsr := v.lfsr })
  (es, a.flags)

/-- The default accumulator NaN. -/
def accNan : Nat := 0x7FC0000000

/-- An element of a row as `mwr` writes it (R222): exact. -/
def rowIn (f : Fmt) (osc code : Nat) : Nat :=
  let v : FV := match cfmt true 4 f with
    | .int sg w => let x := ival sg w code; .fin (decide (x < 0)) x.natAbs 0
    | .flt ff => ff.value code
    | .blk ff => (ff.value code).scaled osc
    | .quad => (quadValue (scaleType osc) code).scaled osc
  (acc40.round .rne 0 v).1

/-- Entries that an operation takes from its stream. -/
def MOp.wants (o : MOp) : Nat :=
  match o.kind with
  | .mma kk fa _ _ => 64 * ((kk + matPer fa - 1) / matPer fa)
  | .mwr _ cnt f _ => cnt * rowEntries f
  | .mzero | .mrd _ _ _ _ | .msave _ | .mrest _ | .bld _ _ _ _ _ => 0

/-- The effect of an operation that has all it needs: its flags, beside the accumulators and bytes it writes. -/
def State.runOp (s : State) (c : Nat) (o : MOp) : State × Flags :=
  let k := s.core c
  let put (f : Nat → Nat) : State := s.modCore c fun k => { k with acc := accPut k.acc o.acc f }
  match o.kind with
  | .mma kk fa fb z =>
    let nb := (kk + 31) / 32
    let base (x : Nat) : Nat := if z then 0 else k.accAt o.acc x
    let rs := (List.range 4096).map fun x => mmaElem c kk (o.elemA fa nb (x / 64)) (s.elemB c o fb nb (x % 64)) (base x)
    (put fun x => (rs.map Prod.fst).getD x 0, rs.foldl (fun fl r => fl ||| r.2) fNone)
  | .mzero => (put fun _ => 0, fNone)
  | .mwr row cnt f osc =>
    let c' := rowEntries f
    let w := matWidth f
    let elem (x : Nat) : Nat :=
      let bit := w * (x % 64)
      let e := (x / 64 - row) * c' + bit / 512
      if touches (o.bad.getD e 0) (bit % 512) w then accNan
      else rowIn f osc ((o.staged.getD e 0).toNat / 2 ^ (bit % 512) % 2 ^ w)
    (put fun x => if row ≤ x / 64 ∧ x / 64 < row + cnt then elem x else k.accAt o.acc x,
      if (o.bad.take (cnt * c')).any (· != 0) then fNan else fNone)
  | .mrd _ _ _ _ => (s, fNone)
  | .msave off =>
    ((List.range 320).foldl (fun s i =>
      let bytes := (List.range 64).map fun j =>
        let b := 64 * i + j
        BitVec.ofNat 8 (k.accAt o.acc (b / 5) / 256 ^ (b % 5))
      s.storeTo (sliceKey c (off + 64 * i)) 64 allBytes (leNat bytes)) s, fNone)
  | .mrest off =>
    let hit (x : Nat) : Bool := (List.range 5).any fun b => s.poison.contains (poisonOf (sliceKey c (off + 5 * x + b)))
    (put fun x => if hit x then accNan else s.readN (sliceKey c (off + 5 * x)) 5,
      if (List.range 4096).any hit then fNan else fNone)
  | .bld src len line bank cnt =>
    ((List.range cnt).foldl (fun s b => (List.range (len / 64)).foldl (fun s i =>
      s.moveLine (sliceKey c (src + b * len + 64 * i)) (bstoreKey c ((bank + b) * 2 ^ 17 + 64 * line + 64 * i))) s) s, fNone)

/-- An operation completes (R220, R225): its flags reach its thread wherever it is, its registers are written and its window closes. -/
def State.endOp (s : State) (c : Nat) (o : MOp) (fl : Flags) (writes : List RegWrite) : State :=
  let fl := fl ||| (if o.range then fRange else fNone)
  let s := s.modCore c fun k => { k with mq := k.mq.tail }
  let s := s.modTask c o.slot o.taskh fun t =>
    let (st, trap) := applyFlags t.ctl.status fl
    { t with
      ctl := { t.ctl with status := st }, heldFlag := t.heldFlag || trap
      heldFlagPc := if trap then some o.pc else t.heldFlagPc
      heldFlagSecond := !trap && t.heldFlagSecond
      windows := t.windows.map fun w =>
        if some w.wid == o.wid then { w with need := w.need - 1, writes := w.writes ++ writes } else w }
  match o.wid with
  | some n => if (s.thrAt c o.slot).ctl.taskh = o.taskh then s.closeWindow c o.slot n else s
  | none => s.markSaved c o.slot o.taskh

/-- No atomic or store waits at a granule of some bytes (R287). -/
def State.bytesFree (s : State) (key n : Nat) : Bool :=
  s.gran.all fun p => p.2.isEmpty || decide (8 * p.1 + 8 ≤ key) || decide (key + n ≤ 8 * p.1)

/-- What an operation writes to memory is performed as it completes (R226): no atomic waits at a granule of it. -/
def State.opClear (s : State) (c : Nat) (o : MOp) : Bool :=
  match o.kind with
  | .msave off => s.bytesFree (sliceKey c off) 20480
  | .bld _ len line bank cnt => (List.range cnt).all fun b => s.bytesFree (bstoreKey c ((bank + b) * 2 ^ 17 + 64 * line)) len
  | .mma _ _ _ _ | .mzero | .mrd _ _ _ _ | .mwr _ _ _ _ | .mrest _ => true

/-- Replace the running operation. -/
def State.setOp (s : State) (c : Nat) (o : MOp) : State := s.modCore c fun k => { k with mq := o :: k.mq.tail }

/-- The running operation of a core goes on (R203, R214, R220): it takes one entry of its stream, or sends one, or completes, its writes
to memory performed (R226). -/
def execMatrixOpComplete (s : State) : Host.Outcome State Fault Refusal :=
  let c := s.arg 0
  match (s.core c).mq with
  | [] => .next s
  | o :: _ =>
    match o.kind with
    | .mrd row cnt f osc =>
      let (es, fl) := mrdEntries (s.core c) o row cnt f osc
      match o.queue with
      | none =>
        .next (s.endOp c o fl ((List.range es.length).map fun i => .v (o.row + i) allBytes (es.getD i 0)))
      | some id =>
        let o := if o.started then o else { o with started := true, staged := es, flags := fl }
        match o.staged with
        | [] => .next (s.endOp c o o.flags [])
        | v :: rest =>
          if s.qClosed c id || s.targetGated c id then .next (s.setOp c { o with staged := rest, range := true })
          else if s.qFree c id = 0 then .next (s.setOp c o)
          else .next ((s.pushQ c id v).setOp c { o with staged := rest })
    | _ =>
      if o.wants ≤ o.staged.length then
        if !s.opClear c o then .next s else
        let (s, fl) := s.runOp c o
        .next (s.endOp c o fl [])
      else match o.queue with
        | none => .next s
        | some id =>
          match (s.queue c id).items with
          | v :: _ =>
            let m := (s.queue c id).marks.getD 0 0
            .next ((s.popQ c id).2.setOp c { o with
              started := true, staged := o.staged ++ [v]
              bad := o.bad ++ List.replicate (o.staged.length - o.bad.length) 0 ++ [m] })
          | [] =>
            if s.qClosed c id && !s.qComing c id then
              .next (s.setOp c { o with
                staged := o.staged ++ List.replicate (o.wants - o.staged.length) 0, range := true })
            else .next s

/-! ## The feeder -/

/-- `mcfg.src` and `mcfg.stride` (R215). -/
def feedValue (s : State) (a : GSpec) : Except Stop (Nat × State) :=
  let (v, s) := s.rd a
  if v.toNat % 64 ≠ 0 then .error (bad .misaligned)
  else if 2 ^ 22 ≤ v.toNat then .error (bad .matrixRange)
  else .ok (v.toNat, s)
/-- `mcfg.src` (R215). -/
def execMcfgSrc (a : GSpec) (s : State) :=
  run (.mcfgSrc a) s fun s => do
    let (v, s) ← feedValue s a
    .ok (s.modHere fun k => { k with feeder := { k.feeder with src := v } })
/-- `mcfg.stride` (R215). -/
def execMcfgStride (a : GSpec) (s : State) :=
  run (.mcfgStride a) s fun s => do
    let (v, s) ← feedValue s a
    .ok (s.modHere fun k => { k with feeder := { k.feeder with stride := v } })
/-- A run of the feeder is under way, or one that a pre-emption stopped waits to start again (R215). -/
def Core.feedBusy (k : Core) : Bool := k.feeder.left != 0 || k.slots.any fun p => p.2.feed.isSome

/-- `mcfg.go` (R215): a run that would meet a granule that the context does not hold is out of range (R420). The run keeps the source
and stride with which it was accepted, so that it stays within the slice: DEDUCED (log entry 107). -/
def execMcfgGo (a : GSpec) (s : State) :=
  run (.mcfgGo a) s fun s => do
    if s.srcCore.feedBusy then .error .stall else
    let (v, s) := s.rd a
    let f := s.srcCore.feeder
    let n := v.toNat
    if n = 0 ∨ 4096 < n ∨ 2 ^ 22 ≤ f.src + 63 * f.stride + 64 * (n - 1) + 63 ∨
        !(List.range 64).all (fun i => s.heldRange s.thr.ctx s.cur.core (f.src + i * f.stride) (64 * n)) then
      .error (bad .matrixRange)
    else
      let s ← s.irrevocable
      .ok (s.modHere fun k => { k with feeder :=
        { k.feeder with left := n, panel := 0, row := 0, slot := s.cur.slot, ctx := s.thr.ctx, taskh := s.thr.ctl.taskh
                        runSrc := f.src, runStride := f.stride } })
/-- `mcfg.stop` (R215): it ends the run, and the thread's own that waits to start again. -/
def execMcfgStop (s : State) :=
  run .mcfgStop s fun s => .ok ((s.setThr { s.thr with feed := none }).modHere fun k => { k with feeder := { k.feeder with left := 0 } })

/-- The feeder meets a granule that its run's context no longer holds (R420): the run stops, and the thread that started it faults
with MATRIX_RANGE at its next instruction; while that thread is parked, the feeder waits. DEDUCED (log entry 108). -/
def State.feedLost (s : State) (c : Nat) : State :=
  let f := (s.core c).feeder
  let t := s.thrAt c f.slot
  let idle (s : State) : State := s.modCore c fun k => { k with feeder := { f with left := 0 } }
  if t.ctl.taskh ≠ f.taskh then idle s
  else match t.st with
    | .running | .stalled =>
      if t.ended ∨ t.fault.isSome then idle s else (idle s).deliver c f.slot { cause := .matrixRange } t.pc
    | .parked _ _ => s
    | .empty => idle s

/-- The feeder pushes one entry (R213, R215): it waits while queue 0x18 is full, and its entry is lost to a closed queue. -/
def execFeederPush (s : State) : Host.Outcome State Fault Refusal :=
  let c := s.arg 0
  let f := (s.core c).feeder
  if f.left = 0 then .next (match (s.core c).slots.find? fun p => p.2.feed.isSome with
    | some (i, _) => s.feedAgain c i
    | none => s) else
  let off := f.runSrc + f.row * f.runStride + 64 * f.panel
  let stop (s : State) (g : Feeder) : State := s.modCore c fun k => { k with feeder := g }
  let next : Feeder :=
    if f.row = 63 then { f with row := 0, panel := f.panel + 1, left := f.left - 1 } else { f with row := f.row + 1 }
  if !s.heldRange f.ctx c off 64 then .next (s.feedLost c)
  else if s.qClosed c 0x18 then .next (stop s next)
  else if s.qFree c 0x18 = 0 then .next s
  else
    let key := sliceKey c off
    let m := s.badWords key
    let s := s.modQueue c 0x18 fun q => { q with
      marks := if m = 0 then q.marks else q.marks ++ List.replicate (q.items.length - q.marks.length) 0 ++ [m] }
    .next (stop (s.pushQ c 0x18 (BitVec.ofNat 512 (s.readN key 64))) next)

/-! ## The quad transpose exchange -/

/-- An exchange table of a core, as its 64 bytes (R228). -/
def State.xtab (s : State) (c ctx : Nat) : List Byte := FMap.get (List.replicate 64 0) (s.core c).xtabs ctx
/-- A 32-bit word of a table. -/
def tabWord (t : List Byte) (off : Nat) : Nat := leNat ((t.drop off).take 4)
/-- A step entry. -/
def tabStep (t : List Byte) (i : Nat) : Nat := leNat ((t.drop (2 * i)).take 2)

/-- The checks of `mxp.tab` (R228): alignment, then range. -/
def tabFault (t : List Byte) : Option Cause :=
  let src := tabWord t 32
  let dst := tabWord t 36
  let n := tabWord t 40
  if src % 64 ≠ 0 ∨ dst % 64 ≠ 0 then some .misaligned
  else if (List.range 16).any (fun i => tabStep t i % 64 != 0) ∨ ((t.drop 44).any (· != 0)) ∨ n % 64 ≠ 0 ∨ n = 0 ∨ 65536 < n ∨
      2 ^ 22 < src + 4 * n ∨ 2 ^ 22 < dst + 4 * n then some .matrixRange
  else none

/-- `mxp.tab` (R228). -/
def execMxpTab (a : GSpec) (l : Look) (s : State) :=
  run (.mxpTab a l) s fun s => do
    let ctx := s.thr.ctx
    let (ea, s) := s.rd a
    if ea.toNat % 64 ≠ 0 then .error (bad .misaligned ea)
    else if !s.ownsTables || s.srcCore.mxp.isSome || s.srcCore.tabInUse (.loads 16) then .error .stall
    else match s.localRange ea 64 with
      | none => .error (bad .matrixRange ea)
      | some _ =>
        let (t, s) ← s.bulk ea.toNat 1
        match tabFault t with
        | some c => .error (bad c ea)
        | none =>
          let s := s.modHere fun k => { k with xtabs := k.xtabs.set ctx t }
          .ok (s.openWindow l.toNat [] 0 [] (tab := some (.loads 16))).2

/-- `mxp` (R229): it waits in its core for the other three of the quad. -/
def execMxp (n : BitVec 4) (l : Look) (e : Energy) (s : State) :=
  run (.mxp n l e) s fun s => do
    let ctx := s.thr.ctx
    if !s.ownsTables || s.srcCore.mxp.isSome || s.srcCore.tabInUse (.loads 16) then .error .stall
    else if tabWord (s.xtab s.cur.core ctx) 40 = 0 then .error (bad .matrixRange)
    else
      let s ← s.irrevocable
      let (wid, s) := s.openWindow l.toNat [] 1 []
      .ok (s.modHere fun k => { k with
        mxp := some (k.mxpCount, n.toNat + 1, s.cur.slot, wid, s.cycle), mxpCount := k.mxpCount + 1 })

/-- An `mxp` of a core is complete. -/
def State.endMxp (s : State) (c : Nat) (fl : Flags) : State :=
  match (s.core c).mxp with
  | none => s
  | some (_, _, slot, wid, _) =>
    let s := s.modCore c fun k => { k with mxp := none }
    let t := s.thrAt c slot
    s.setThrAt c slot { t with windows := t.windows.map fun w =>
      if w.wid == wid then { w with need := 0, flags := w.flags ||| fl } else w }

/-- Copy a fragment within a slice, line by line. -/
def State.copyFrag (s : State) (c src dst : Nat) : Nat → State
  | 0 => s
  | n + 1 => (s.copyFrag c src dst n).storeTo (sliceKey c (dst + 64 * n)) 64 allBytes (s.readN (sliceKey c (src + 64 * n)) 64)

/-- The lines of a fragment. -/
def State.fragLines (s : State) (c off lines : Nat) : List Nat :=
  (List.range lines).map fun i => s.readN (sliceKey c (off + 64 * i)) 64
/-- Write lines to a slot. -/
def State.putFrag (s : State) (c off : Nat) (ls : List Nat) : State :=
  (List.range ls.length).foldl (fun s i => s.storeTo (sliceKey c (off + 64 * i)) 64 allBytes (ls.getD i 0)) s

/-- What core i of a quad sends in a step: its port and the lines, under its table (R228, R230). -/
def sendOf (s : State) (c : Nat) (t : List Byte) (held : List Nat) (step : Nat) : Option (Nat × List Nat) :=
  let e := tabStep t step
  let lines := tabWord t 40 / 64
  if !e.testBit 15 then none else
  some (if e.testBit 14 then 1 else 0,
    if e.testBit 13 then (if held = [] then List.replicate lines 0 else held)
    else s.fragLines c (tabWord t 32 + e / 2 ^ 11 % 4 * (64 * lines)) lines)

/-- One step of an exchange (R229): all fragments are sent, then all are received. -/
def State.mxpStep (s : State) (q : Nat) (tabs : List (List Byte)) (held : List (List Nat)) (step : Nat) :
    State × List (List Nat) :=
  let sends := (List.range 4).map fun i => sendOf s (quadTile q i) (tabs.getD i []) (held.getD i []) step
  (List.range 4).foldl (fun (p : State × List (List Nat)) i =>
    let t := tabs.getD i []
    let e := tabStep t step
    let port := if e.testBit 9 then 1 else 0
    match sends.getD (i ^^^ (port + 1)) none with
    | some (sp, ls) =>
      if e.testBit 10 && sp == port then
        let n := tabWord t 40
        if e.testBit 8 then (p.1.putFrag (quadTile q i) (tabWord t 36 + e / 2 ^ 6 % 4 * n) (ls.take (n / 64)), p.2)
        else (p.1, p.2.set i ls)
      else p
    | none => p) (s, held)

/-- The cores of a quad have all issued their `mxp` of a number within 65,536 cycles of the first (R229); before the last has, the
time that has passed decides. -/
def State.mxpInTime (s : State) (q m : Nat) : Bool :=
  let ats := (quadCores q).filterMap fun c => (s.core c).mxp.bind fun x => if x.1 = m then some x.2.2.2.2 else none
  let first := ats.min?.getD s.cycle
  if ats.length = 4 then decide ((ats.max?.getD 0) ≤ first + 65536) else decide (s.cycle ≤ first + 65536)

/-- The exchange of a quad begins (R229): its four cores wait with the same number at a cycle divisible by 8, their earlier
`msave`s complete (R226), and no atomic waiting where it writes (R287). It runs to its end. -/
def execMxpExchangeStart (s : State) : Host.Outcome State Fault Refusal :=
  let q := s.arg 0
  let ws := (quadCores q).filterMap fun c => (s.core c).mxp.map fun m => (c, m)
  match ws with
  | [(c0, m0), (c1, m1), (c2, m2), (c3, m3)] =>
    let same := m1.1 == m0.1 && m2.1 == m0.1 && m3.1 == m0.1
    let saves (c at_ : Nat) : Bool := (s.core c).mq.any fun o => decide (o.at_ ≤ at_) && match o.kind with
      | .msave _ => true
      | .mma _ _ _ _ | .mzero | .mrd _ _ _ _ | .mwr _ _ _ _ | .mrest _ | .bld _ _ _ _ _ => false
    let cycleOf (m : Nat × Nat × Nat × Nat × Nat) : Nat := m.2.2.2.2
    let busy := saves c0 (cycleOf m0) || saves c1 (cycleOf m1) || saves c2 (cycleOf m2) || saves c3 (cycleOf m3)
    let clear := ws.all fun p =>
      let t := s.xtab p.1 (s.thrAt p.1 p.2.2.2.1).ctx
      s.bytesFree (sliceKey p.1 (tabWord t 36)) (4 * tabWord t 40)
    if !same || busy || !clear || !s.mxpInTime q m0.1 || (s.quad q).mxpLost.contains m0.1 || s.cycle % 8 != 0 then .next s else
    let tabs := ws.map fun p => s.xtab p.1 (s.thrAt p.1 p.2.2.2.1).ctx
    let s := (List.range 4).foldl (fun s i =>
      let t := tabs.getD i []
      let n := tabWord t 40
      s.copyFrag (quadTile q i) (tabWord t 32 + i * n) (tabWord t 36 + i * n) (n / 64)) s
    let steps := ((ws.map fun p => p.2.2.1).max?).getD 0
    let runs (i step : Nat) : Bool := decide (step < ((ws.map fun p => p.2.2.1).getD i 0))
    let cut (step : Nat) : List (List Byte) := (List.range 4).map fun i =>
      let t := tabs.getD i []
      if runs i step then t else (t.take (2 * step)) ++ [0, 0] ++ t.drop (2 * step + 2)
    let (s, _) := (List.range steps).foldl (fun (p : State × List (List Nat)) step =>
      p.1.mxpStep q (cut step) p.2 step) (s, [[], [], [], []])
    .next ((quadCores q).foldl (fun s c => s.endMxp c fNone) s)
  | _ => .next s

/-- A core's `mxp` belongs to an exchange that came too late, or its thread is being pre-empted (R229). -/
def State.mxpLate (s : State) (c : Nat) : Option Nat :=
  match (s.core c).mxp with
  | none => none
  | some (m, _, slot, _, _) =>
    if !s.mxpInTime (quadOf c) m ∨ (s.core c).out.contains (s.thrAt c slot).ctx then some m else none

/-- An exchange is abandoned (R229): every core's `mxp` of its number completes with RANGE, moving nothing. -/
def execMxpAbandon (s : State) : Host.Outcome State Fault Refusal :=
  let q := s.arg 0
  let s := s.modQuad q fun r => { r with mxpLost := ((quadCores q).filterMap s.mxpLate ++ r.mxpLost).dedup }
  let s := (quadCores q).foldl (fun s c =>
    match (s.core c).mxp with
    | some m => if (s.quad q).mxpLost.contains m.1 then s.endMxp c fRange else s
    | none => s) s
  let open_ (m : Nat) : Bool := (quadCores q).any fun c => decide ((s.core c).mxpCount ≤ m)
  .next (s.modQuad q fun r => { r with mxpLost := r.mxpLost.filter open_ })

end Sys2Proof.Machine
end

