-- ==== Sys2Proof/Machine/Copies.lean ====
section
/-!
DEFINITION. Copy engines: requests, their acceptance, locks, deliveries and completion (spec/16, R373 to R388; R464).
-/

namespace Sys2Proof.Machine

/-! ## Gauges -/

/-- A gauge record of 32 bytes (R378). -/
def gaugeOf (bs : List Byte) : Gauge :=
  { ext := (List.range 4).map fun j => field bs (8 * j) 4
    str := (List.range 4).map fun j => sval 32 (field bs (8 * j + 4) 4) }
/-- The gauge of a linear range. -/
def linear (n : Nat) : Gauge := ⟨[n], [1]⟩
/-- Positions of a gauge. -/
def Gauge.total (g : Gauge) : Nat := g.ext.foldl (· * ·) 1
/-- Bytes of a run. -/
def Gauge.run (g : Gauge) : Nat := g.ext.headD 0
/-- The address of a position, modulo 2^64 (R378). -/
def gaugeAt (base : Nat) : Nat → List Nat → List Int → Nat
  | _, [], _ => base % 2 ^ 64
  | _, _, [] => base % 2 ^ 64
  | i, e :: es, d :: ds => gaugeAt (((base : Int) + (i % e : Nat) * d) % 2 ^ 64).toNat (i / e) es ds
/-- The address of a position. -/
def Gauge.at_ (g : Gauge) (base : Word) (i : Nat) : Nat := gaugeAt base.toNat i g.ext g.str

/-- A range of positions within one run and one 64-byte line: first position, address, length. -/
structure Piece where
  pos : Nat
  addr : Nat
  len : Nat
  deriving DecidableEq, Repr

/-- The pieces of a range (R382): each run, cut at lines. -/
def Gauge.pieces (g : Gauge) (base : Word) : List Piece :=
  if g.total = 0 then [] else
  (List.range (g.total / g.run)).flatMap fun r =>
    let a := g.at_ base (r * g.run)
    (List.range ((a % 64 + g.run + 63) / 64)).map fun k =>
      let lo := max a (a / 64 * 64 + 64 * k)
      let hi := min (a + g.run) (a / 64 * 64 + 64 * (k + 1))
      ⟨r * g.run + (lo - a), lo, hi - lo⟩

/-! ## What an engine reaches -/

/-- The engine of a core (R373). -/
def engineOf (c : Nat) : Nat := if isTile c then 2 * tileZ c + tileX c / 8 else 16 + 2 * ((c - 2048) / 128) + c % 2

/-- Check 5 of R379 for an address of a range: `write` says a destination, `pod` that the operation may name another cube. -/
def State.rangeOk (s : State) (ea : Nat) (pod : Bool) : Bool :=
  match whereIs ea with
  | none => false
  | some (.pod cube va) => s.cubeOk cube && decide (va < 2 ^ 47) && (pod || cube == s.selfCube)
  | some (.global _) | some (.slice _ _) | some (.bstore _ _) => true

/-- An engine's translation (R383, R420, R425, R439): a location, or none in another cube. The operation, when there is one, and its
core say which remap entries and which cached translations it meets. A granule whose image has not been copied back yet is the image's
still (R426). -/
def State.engKey (s : State) (ctx ea : Nat) (write : Bool) (by_ : Option (Nat × Nat) := none) : Except FaultInfo (Option Nat) :=
  let fail (c : Cause) (aux : Nat := 0) : Except FaultInfo (Option Nat) := .error { cause := c, addr := word ea, aux := aux }
  let global (va : Nat) : Except FaultInfo (Option Nat) :=
    let leaf : Except (Cause × Nat) Leaf := match by_ with
      | none => s.anyLeaf ctx va
      | some (core, n) => (match s.staleLeaf core ctx va with
        | some old => if Config.engineStale s.cycle n ea then old else s.walkFrom va 4 1 (s.ctxRoot ctx)
        | none => s.walkFrom va 4 1 (s.ctxRoot ctx)).map Prod.fst
    match leaf with
    | .error (c, aux) => fail c aux
    | .ok l =>
      let pa := l.pa + va % 2 ^ l.bits
      if 2 ^ 40 ≤ pa then fail .pageAbsent 1
      else if write && !l.w then fail .pageProt else .ok (some (s.hbmLoc pa).key)
  let held (tile gran off key : Nat) : Except FaultInfo (Option Nat) :=
    let evicted := (FMap.find (imageKey ctx tile gran) s.images).isSome
    if s.grantee tile gran = some ctx && !evicted then (if s.shutAt tile then fail .gated else .ok (some key)) else
    match by_.bind fun b => (FMap.get [] s.evict tile).find? fun e => e.ctx == ctx && e.gran == gran && decide (b.2 < e.upto) with
    | none => fail .granule
    | some e =>
      match s.areaKey ctx (e.image.toNat + off) with
      | some k => .ok (some k)
      | none => fail .pageAbsent 2
  match whereIs ea with
  | none => fail .badAperture
  | some (.global va) => global va
  | some (.slice t off) => held t (off / 2 ^ 16) (off % 2 ^ 16) (sliceKey t off)
  | some (.bstore t off) => held t (64 + off / 2 ^ 16) (off % 2 ^ 16) (bstoreKey t off)
  | some (.pod cube va) =>
    if !s.cubeOk cube || decide (2 ^ 47 ≤ va) then fail .badAperture else if cube = s.selfCube then global va else .ok none

/-- An engine's walk for an address is counted where the second-level TLB of its core holds no translation (R439, R440). -/
def State.engWalk (s : State) (core ctx ea : Nat) : State :=
  match whereIs ea with
  | some (.global va) =>
    if (tlbFind (s.quad (l2Of core)).tlb ctx va).isSome then s else
    let (lvl, t) := (s.cachedTable core ctx va).getD (1, s.ctxRoot ctx)
    s.countWalk va lvl t
  | some (.slice _ _) | some (.bstore _ _) | some (.pod _ _) | none => s

/-- The operation as one that reaches memory. -/
def Xfer.self (x : Xfer) : Option (Nat × Nat) := some (x.core, x.seq)

/-- Bytes that an engine reads for a request: each as a load of its context would find it (R379). -/
def State.engBytes (s : State) (ctx ea n : Nat) : Except FaultInfo (List Byte) :=
  (List.range n).mapM fun i =>
    match s.engKey ctx (ea + i) false with
    | .error f => .error f
    | .ok none => .error { cause := .badAperture, addr := word (ea + i) }
    | .ok (some k) =>
      if s.rangeLocked k false then .error { cause := .rangeLock, addr := word (ea + i) }
      else if s.poison.contains (poisonOf k) then .error { cause := .memError, addr := word (ea + i) } else .ok (s.byte k)

/-- The key by which a range in another cube is compared: none of this package's. -/
def podKey : Nat := 2 ^ 70

/-- The parts of a range that have a place now: position, key and length. -/
def State.footprint (s : State) (ctx : Nat) (g : Gauge) (base : Word) (by_ : Option (Nat × Nat) := none) :
    List (Nat × Nat × Nat) :=
  (g.pieces base).filterMap fun p =>
    match s.engKey ctx p.addr false by_ with
    | .ok (some k) => some (p.pos, k, p.len)
    | .ok none => some (p.pos, podKey + p.addr, p.len)
    | .error _ => none

/-- Two footprints share a byte (R379). -/
def overlaps (a b : List (Nat × Nat × Nat)) : Bool :=
  a.any fun x => b.any fun y => decide (x.2.1 < y.2.1 + y.2.2) && decide (y.2.1 < x.2.1 + x.2.2)

/-! ## Acceptance -/

/-- Who asks for a copy. -/
structure Asker where
  core : Nat
  slot : Nat
  ctx : Nat
  taskh : Word
  launch : Nat
  light : Bool
  deriving DecidableEq, Repr

/-- Check 1 of R379. -/
def requestBad (w0 w2 w3 : Word) (light : Bool) : Bool :=
  let op := bitsOf w0 32 8
  let gauge := w0.getLsbD 41
  bitsOf w0 48 16 != 0 || bitsOf w0 42 6 != 0 || bitsOf w0 26 6 != 0 || decide (4 ≤ op) ||
  (op == 2 && !gauge) || (op == 3 && (gauge || w2 != 0 || decide (4096 < w3.toNat))) || (w0.getLsbD 40 && (!gauge || light))

/-- A record of a core by context and XferId. -/
def State.xfer (s : State) (core ctx xid : Nat) : Option Xfer :=
  s.xfers.find? fun x => x.core == core && x.ctx == ctx && x.xid == xid

/-- A gauge of a parameter block (R377): the inline one, or an entry of the launch's table. An engine that meets the lock of another
operation there waits (R293). -/
def State.gaugeOf (s : State) (u : Asker) (bs : List Byte) (idx inl : Nat) : Except Stop Gauge :=
  if idx = 0xFFFF then .ok (Machine.gaugeOf ((bs.drop inl).take 32)) else
  let l := s.launch u.launch
  if l.gaugeCnt ≤ idx then .error (bad .xferBad) else
  match s.engBytes u.ctx (l.image.toNat + l.gaugeOff + 32 * idx) 32 with
  | .ok b => .ok (Machine.gaugeOf b)
  | .error f => if f.cause = .rangeLock then .error .stall else .error (.fault f)

/-- A parameter block breaks R377. -/
def blockBad (bs : List Byte) (op : Nat) : Bool :=
  field bs 4 4 != 0 || field bs 96 32 != 0 || (op != 2 && (field bs 16 8 != 0 || field bs 24 8 != 0)) ||
  (op == 1 && (field bs 0 2 != 0xFFFF || field bs 32 32 != 0))

/-- The checks of R379 from the fifth on, and the operation (R380, R382). -/
def State.accepted (s : State) (u : Asker) (w0 w1 w2 w3 : Word) (src dst : Gauge) (bs : List Byte) : Except Stop State := do
  let op := bitsOf w0 32 8
  let srcs := if op = 1 then [] else src.pieces w1
  let dsts := if op = 3 then [] else dst.pieces w2
  match (srcs.filter fun p => !s.rangeOk p.addr (op == 0 || op == 2)) ++ dsts.filter fun p => !s.rangeOk p.addr (op == 0 || op == 1) with
  | p :: _ => .error (badAt .badAperture p.addr)
  | [] =>
    let fs := if op = 1 then [] else s.footprint u.ctx src w1
    let fd := if op = 3 then [] else s.footprint u.ctx dst w2
    if (op = 0 ∨ op = 2) ∧ overlaps fs fd then .error (bad .xferBad) else
    let id := bitsOf w0 16 9
    let bar := if w0.getLsbD 25 && op != 3 then some id else none
    if bar.isSome && barBusy (s.bar u.core id) id u.ctx false then .error (bad .barBusy) else
    let n := if op = 3 then 8 * w3.toNat else dst.total
    let x : Xfer := {
      core := u.core, slot := u.slot, ctx := u.ctx, taskh := u.taskh, launch := u.launch, xid := bitsOf w0 0 16
      op := op, w1 := w1, w2 := w2, src := src, dst := dst, total := n
      status := if n = 0 then .done else .queued, intr := w0.getLsbD 40, handler := word (field bs 8 8), bar := bar
      verAddr := word (field bs 16 8), stamp := word (field bs 24 8), eng := engineOf u.core
      rlocks := if op = 0 ∨ op = 2 then ((fs.filter fun p => decide (p.2.1 < podKey)).map fun p => p.2.1 / 64).dedup else []
      wlocks := if op = 3 then [] else (fd.filter fun p => decide (p.2.1 < podKey)).map fun p => (p.2.1 / 64, p.1 + p.2.2 - 1)
      live := n != 0, seq := s.xseq, at_ := s.cycle }
    .ok { s with xfers := s.xfers ++ [x], xseq := s.xseq + 1 }

/-- A request is checked in the order of R379 and becomes an operation; `block` reads the parameter block. -/
def State.request (s : State) (u : Asker) (w0 w1 w2 w3 : Word) (block : State → Nat → Except Stop (List Byte × State)) :
    Except Stop State := do
  let op := bitsOf w0 32 8
  if requestBad w0 w2 w3 u.light then .error (bad .xferBad) else
  match s.xfer u.core u.ctx (bitsOf w0 0 16) with
  | some x => if x.live then .error (bad .xferId) else pure ()
  | none => pure ()
  if !w0.getLsbD 41 then
    let n := if op = 3 then 8 * w3.toNat else w3.toNat
    s.accepted u w0 w1 w2 w3 (linear n) (linear n) []
  else if w3.toNat % 64 ≠ 0 then .error (badAt .misaligned w3.toNat)
  else
    let (bs, s) ← block s w3.toNat
    if blockBad bs op then .error (bad .xferBad) else
    let dst ← s.gaugeOf u bs (field bs 2 2) 64
    let src ← if op = 1 then .ok dst else s.gaugeOf u bs (field bs 0 2) 32
    if dst.str.headD 0 ≠ 1 ∨ src.str.headD 0 ≠ 1 ∨ src.ext ≠ dst.ext then .error (bad .xferBad) else
    s.accepted u w0 w1 w2 w3 src dst bs

/-- A record can be made (R380). -/
def State.recFree (s : State) (core : Nat) : Bool := decide ((s.xfers.filter fun x => x.core == core && x.live).length < 64)

/-- A place for the record of an XferId (R380): its completed one goes, or else the oldest completed of a full core. -/
def State.makeRoom (s : State) (core ctx xid : Nat) : State :=
  let xs := s.xfers.filter fun x => !(x.core == core && x.ctx == ctx && x.xid == xid && !x.live)
  let xs := if (xs.filter fun x => x.core == core).length < 64 then xs
    else match xs.find? fun x => x.core == core && !x.live with
      | some x => xs.erase x
      | none => xs
  { s with xfers := xs }

/-- The status word (R385). -/
def Xfer.statusWord (x : Xfer) : Word :=
  word (x.wp * 2 ^ 16 + match x.status with
    | .queued => 1
    | .running => 2
    | .done => 3
    | .fault => 4
    | .stale => 5
    | .parked => 6)

/-- The completion interrupt of an operation, held for its thread (R384), and marked in its save record when it is out (R424). -/
def State.raise (s : State) (x : Xfer) : State :=
  if x.intr then
    (s.modTask x.core x.slot x.taskh fun t => { t with heldXfer := t.heldXfer ++ [(x.xid, x.statusWord, x.handler)] }).markSaved
      x.core x.slot x.taskh
  else s

/-- The record of a request just made, when it completed at acceptance, interrupts (R385). -/
def State.raiseEmpty (s : State) : State :=
  match s.xfers.getLast? with
  | some x => if x.live then s else s.raise x
  | none => s

/-- The operation just accepted takes its place among the records, and interrupts if it is complete already (R380, R385). -/
def State.keep (s : State) : State :=
  match s.xfers.getLast? with
  | none => s
  | some x =>
    let s := { s with xfers := s.xfers.dropLast }.makeRoom x.core x.ctx x.xid
    { s with xfers := s.xfers ++ [x] }.raiseEmpty

/-- The issuing thread as one that asks. -/
def State.asker (s : State) : Asker :=
  ⟨s.cur.core, s.cur.slot, s.thr.ctx, s.thr.ctl.taskh, s.thr.launch, s.thr.light⟩

/-- The thread that pushed a word of a request. -/
def askerOf (core n : Nat) : Asker :=
  { core := core, ctx := n % 64, slot := n / 64 % 8, light := n / 512 % 2 == 1, launch := n / 1024 % 4096
    taskh := word (n / 2 ^ 22) }

/-- A block as an engine reads it for a request that came by the queue. -/
def engBlock (ctx : Nat) (s : State) (ea : Nat) : Except Stop (List Byte × State) :=
  match s.engBytes ctx ea 128 with
  | .ok bs => .ok (bs, s)
  | .error f => .error (.fault f)

/-- The record of a request by the queue that was refused (R385): its interrupt only when its block could be read. -/
def State.refuseRequest (s : State) (u : Asker) (w0 w3 : Word) (one : Bool) : State :=
  let blk := if one && w0.getLsbD 40 && w0.getLsbD 41 && !u.light && w3.toNat % 64 == 0 then (s.engBytes u.ctx w3.toNat 128).toOption else none
  let s := s.makeRoom u.core u.ctx (bitsOf w0 0 16)
  let x : Xfer := {
    core := u.core, slot := u.slot, ctx := u.ctx, taskh := u.taskh, launch := u.launch, xid := bitsOf w0 0 16
    op := bitsOf w0 32 8, w1 := 0, w2 := 0, src := linear 0, dst := linear 0, total := 0, status := .fault
    intr := blk.isSome, handler := word (field (blk.getD []) 8 8), bar := none, verAddr := 0, stamp := 0
    eng := engineOf u.core, live := false, seq := s.xseq, at_ := s.cycle }
  ({ s with xfers := s.xfers ++ [x], xseq := s.xseq + 1 }).raise x

/-- Four words at the head of FIFO 0x1A of a core leave it as a request (R374, R385), when a record is free. One that fails makes a
record with FAULT, unless it fails because its XferId is that of a live one. Where a gauge of it lies under a lock, it waits. -/
def State.takeRequest (s : State) (c : Nat) : State :=
  let q := s.queue c 0x1A
  if q.items.length < 4 || !s.recFree c then s else
  let w (i : Nat) : Word := (q.items.getD i 0).setWidth 64
  let u := askerOf c (q.srcs.getD 0 0)
  let one := ((q.srcs.take 4).all fun n => n % 64 == u.ctx) && (q.marks.take 4).all (· == 0)
  let s' := (s.modQueue c 0x1A fun q => { q with items := q.items.drop 4, srcs := q.srcs.drop 4, marks := q.marks.drop 4 }).settle c 0x1A
  match if one then s'.request u (w 0) (w 1) (w 2) (w 3) (engBlock u.ctx) else .error (bad .xferBad) with
  | .ok s => s.keep
  | .error (.fault f) => if f.cause = .xferId then s' else s'.refuseRequest u (w 0) (w 3) one
  | .error .stall => s
  | .error _ => s'.refuseRequest u (w 0) (w 3) one

/-- The cores that feed an engine and have a whole request waiting, with a record free for it (R373, R380). -/
def State.askers (s : State) (eng : Nat) : List Nat :=
  (s.cores.filter fun p => engineOf p.1 == eng && decide (4 ≤ (s.queue p.1 0x1A).items.length) && s.recFree p.1).map Prod.fst

/-- An engine's next core in round robin (R373): in the order of core numbers, after the one it served last; `also` is a core whose
thread submits a request now. -/
def State.nextAsker (s : State) (eng : Nat) (also : List Nat := []) : Option Nat :=
  let far (c : Nat) : Nat := (c + 4095 - FMap.get 4095 s.engLast eng) % 4096
  let cs := s.askers eng ++ also
  cs.find? fun c => cs.all fun d => decide (far c ≤ far d)

/-- An engine takes the next request that was pushed into 0x1A (R373, R374): a core of the engine. Another core of it may have the
turn. -/
def execCopyQueueRequest (s : State) : Host.Outcome State Fault Refusal :=
  let e := engineOf (s.arg 0)
  match s.nextAsker e with
  | none => .next s
  | some c => .next { s.takeRequest c with engLast := s.engLast.set e c }

/-- FIFO 0x1A has room for a request, and a record is free (R374). -/
def State.xferRoom (s : State) : Bool := decide (4 ≤ s.srcFree 0x1A) && s.recFree s.cur.core

/-- Submit a request (R374): it goes behind those that stand in the FIFO, takes its core's turn at the engine (R373), and its result comes
once the engine has taken it. -/
def State.submit (s : State) (a : GSpec) : Res := do
  if s.held || !performedAt s.cur.core s.thr .pkg then .error .stall else
  let s ← s.irrevocable
  let c := s.cur.core
  let e := engineOf c
  if 4 ≤ (s.queue c 0x1A).items.length ∨ !s.recFree c ∨ s.nextAsker e [c] ≠ some c then .error .stall else
  let s : State := { s with engLast := s.engLast.set e c }
  let w (i : Nat) : Word := s.src.gr (a.toNat + i)
  let u := s.asker
  (s.request u (w 0) (w 1) (w 2) (w 3) fun s ea => s.bulk ea 2).map State.keep

/-- `xfer` (R374). -/
def execXfer (a : GSpec) (s : State) :=
  run (.xfer a) s fun s => if !s.xferRoom then .error .stall else s.submit a

/-- `xfer.try` (R374). -/
def execXferTry (a : GSpec) (p : PReg) (s : State) :=
  run (.xferTry a p) s fun s => do
    let done (s : State) (busy : Bool) : Res := .ok (s.openWindow 0 [.p p.toNat] 0 [.p p.toNat busy]).2
    let s ← s.irrevocable
    if !s.xferRoom then done s true else
    let s ← s.submit a
    done s false

/-- `xfer.wp` (R387). -/
def execXferWp (d a : GSpec) (s : State) :=
  run (.xferWp d a) s fun s => do
    let (v, s) := s.rd a
    let s ← s.irrevocable
    .ok (s.longG d 0 (match s.xfer s.cur.core s.thr.ctx (v.toNat % 2 ^ 16) with
      | some x => word x.wp
      | none => BitVec.allOnes 64))

/-- `xfer.st` (R387). -/
def execXferSt (d a : GSpec) (s : State) :=
  run (.xferSt d a) s fun s => do
    let (v, s) := s.rd a
    let s ← s.irrevocable
    .ok (s.longG d 0 (match s.xfer s.cur.core s.thr.ctx (v.toNat % 2 ^ 16) with
      | some x => x.statusWord
      | none => 0))

/-! ## Running -/

/-- A write lock conflicts with any lock (R382): those that an operation has not yet released. -/
def Xfer.writes (x : Xfer) : List Nat := (x.wlocks.filter fun l => decide (x.wp ≤ l.2)).map Prod.fst
/-- Two operations conflict. -/
def Xfer.clash (x y : Xfer) : Bool :=
  (x.writes.any fun l => y.writes.contains l || y.rlocks.contains l) || x.rlocks.any fun l => y.writes.contains l

/-- An operation by its acceptance number. -/
def State.op (s : State) (seq : Nat) : Option Xfer := s.xfers.find? fun x => x.seq == seq && x.live
/-- Replace it. -/
def State.setOpx (s : State) (x : Xfer) : State := { s with xfers := s.xfers.map fun y => if y.seq == x.seq then x else y }

/-- A queued operation takes a channel, in acceptance order, and starts once no earlier live one conflicts (R373, R382): its
number. -/
def execCopyChannelStart (s : State) : Host.Outcome State Fault Refusal :=
  match s.op (s.arg 0) with
  | none => .next s
  | some x =>
    if x.status != .queued then .next s else
    let mine := s.xfers.filter fun y => y.live && y.eng == x.eng
    let first := mine.all fun y => y.chan || decide (x.seq ≤ y.seq)
    if !x.chan && !(first && decide ((mine.filter fun y => y.chan).length < 16)) then .next s else
    let free := s.xfers.all fun y => !(y.live && decide (y.seq < x.seq) && x.clash y)
    .next (s.setOpx { x with chan := true, status := if free then .running else .queued })

/-- A fault of a running operation (R383): a translation fault parks it, any other stops it. -/
def Xfer.failed (x : Xfer) (f : FaultInfo) : Xfer :=
  match f.cause with
  | .pageAbsent | .pageProt | .pageBad => { x with status := .parked, pend := some f }
  | _ => { x with fin := some .fault }

/-- The record of a parked operation (R383, R429): replayable, and none of a thread. -/
def Xfer.faultRec (x : Xfer) (f : FaultInfo) : List Word :=
  [word (f.cause.code + 2 ^ 8 * f.aux + 2 ^ 16 + 2 ^ 24 * x.slot + 2 ^ 32 * x.core + 2 ^ 48 * x.ctx), 0, f.addr, 0, 0, 0, x.taskh, 0]

/-- A parked operation takes a record, when one is free, and sends it to the fault queue (R383, R419). -/
def State.parkRec (s : State) (x : Xfer) : State :=
  match x.pend with
  | none => s
  | some f =>
    match s.takeFree x.ctx 8 with
    | none => s
    | some (r, s) => ((s.putWords x.ctx r (x.faultRec f)).setOpx { x with pend := none, frec := word r }).toFaultQ x.ctx (word r)

/-- Bytes delivered against the barrier of an operation, which apply at the end of the cycle (R330, R331). -/
def State.delivered (s : State) (x : Xfer) (n : Nat) : State :=
  match x.bar with
  | none => s
  | some id => let b := s.bar x.core id; s.setBar x.core id { b with got := b.got + n }

/-- The piece at a position: within its run, one source line and one destination line (R381). -/
def Xfer.next (x : Xfer) : Nat :=
  let i := x.sent
  let d := x.dst.at_ x.w2 i
  let n := min (x.dst.run - i % x.dst.run) (64 - d % 64)
  if x.op = 1 then n else min n (64 - x.src.at_ x.w1 i % 64)

/-- The operation has sent everything, and read its version a second time (R388). -/
def Xfer.spent (x : Xfer) : Bool := decide (x.total ≤ x.sent) && (x.op != 2 || x.ver == 2)

/-- A mask of the low n bytes. -/
def lowBytes (n : Nat) : BitVec 64 := allBytes >>> (64 - n)

/-- A line of memory that was not locked at acceptance is judged when it is reached (R379, R382): a fault, a wait, or the
operation with its lock. -/
def State.lateLine (s : State) (x : Xfer) (key last : Nat) (write : Bool) : Except (Option FaultInfo) Xfer :=
  let line := key / 64
  if (if write then x.wlocks.any fun l => l.1 == line && decide (last ≤ l.2) else x.rlocks.contains line) then .ok x else
  if (x.op = 0 ∨ x.op = 2) ∧ overlaps (s.footprint x.ctx x.src x.w1 x.self) (s.footprint x.ctx x.dst x.w2 x.self) then
    .error (some { cause := .xferBad })
  else
    let y := if write then { x with wlocks := x.wlocks ++ [(line, last)] } else { x with rlocks := x.rlocks ++ [line] }
    if s.xfers.any fun z => z.live && decide (z.seq < x.seq) && y.clash z then .error none else .ok y

/-- An `mma` accepted before the copy has yet to read a line of the B-store (R212). -/
def State.mmaReads (s : State) (x : Xfer) (key : Nat) : Bool :=
  decide (bstoreBase ≤ key) &&
  let tile := (key - bstoreBase) / 2 ^ 23
  let off := (key - bstoreBase) % 2 ^ 17
  (s.opsOf tile).any fun o => match o.kind with
    | .mma k _ fb _ => decide (o.at_ ≤ x.at_) && decide (o.bptr / 64 ≤ off / 64) && decide (off < o.bptr + colBytes (matWidth fb) k)
    | .mzero | .mrd _ _ _ _ | .mwr _ _ _ _ | .msave _ | .mrest _ | .bld _ _ _ _ _ => false

/-- A request to read or write on another cube for a copy: kind, context, length, operation, position, address, data. -/
def podCopy (kind : Nat) (x : Xfer) (pos ea n : Nat) (data : List Byte) : List Byte :=
  [BitVec.ofNat 8 kind, BitVec.ofNat 8 x.ctx] ++ leBytes n 2 ++ leBytes x.seq 8 ++ leBytes pos 8 ++ leBytes ea 8 ++ data

/-- What an engine reads: its bytes and the operation with its lock, a wait, or a fault. -/
inductive Got where
  | bytes (s : State) (x : Xfer) (bs : List Byte)
  | wait (s : State)
  | fault (f : FaultInfo)
  deriving DecidableEq, Repr

/-- The first bytes of a location that carry no error mark, up to n (R470). -/
def State.clean (s : State) (key n : Nat) : Nat :=
  ((List.range n).find? fun i => s.poison.contains (poisonOf (key + i))).getD n

/-- The owner of a location (R267). -/
def State.keyOwner (s : State) (key : Nat) : Nat :=
  if bstoreBase ≤ key then (key - bstoreBase) / 2 ^ 23
  else if sliceBase ≤ key then (key - sliceBase) / 2 ^ 22
  else 2048 + s.channelOf (key / 2 ^ 31)

/-- An operation's messages can go to a line's owner and come back: from the router of the core that issued it (R497), with code 0
(R452). -/
def Xfer.reaches (x : Xfer) (s : State) (key : Nat) : Bool :=
  let o := s.keyOwner key
  s.pathUp 0 x.core o && s.pathUp 0 o x.core

/-- A read of an engine (R381, R464): here at once, of another cube by a message and its answer. One that takes no lock of its own still
waits for what an operation accepted earlier has locked for writing (R293, R382). -/
def State.engRead (s : State) (x : Xfer) (ea n : Nat) (lock : Bool) : Got :=
  match s.engKey x.ctx ea false x.self with
  | .error f => .fault f
  | .ok none =>
    match x.got with
    | some (0, bs) => .bytes s { x with got := none, asked := false } bs
    | some (c, _) => .fault { cause := farCause (c % 256), addr := word ea, aux := c / 256 }
    | none =>
      if x.asked then .wait s else
      .wait ((s.toPod (ea / 2 ^ 48 % 4096) 0 (podCopy 5 x x.sent ea n [])).setOpx { x with asked := true })
  | .ok (some k) =>
    if !x.reaches s k then .wait s else
    let held := s.xfers.any fun z => z.live && decide (z.seq < x.seq) && z.writes.contains (k / 64)
    match if lock then s.lateLine x k 0 false else if held then .error none else .ok x with
    | .error (some f) => .fault f
    | .error none => .wait s
    | .ok x =>
      let m := s.clean k n
      if m = 0 then .fault { cause := .memError, addr := word ea } else .bytes ((s.engWalk x.core x.ctx ea).countLine k) x (s.bytesAt k m)

/-- The source bytes of the next piece. -/
def State.source (s : State) (x : Xfer) (n : Nat) : Got :=
  if x.op = 1 then .bytes s x ((List.range n).map fun i => BitVec.ofNat 8 (x.w1.toNat / 256 ^ ((x.sent + i) % 8)))
  else s.engRead x (x.src.at_ x.w1 x.sent) n true

/-- Positions below which every byte has been performed. -/
def Xfer.front (x : Xfer) : Nat := x.owed.foldl (fun m p => min m p.1) x.sent

/-- The delivery of bytes at the position reached (R381): here at once, with what a store does; to another cube by a message. -/
def State.deliverTo (s : State) (x : Xfer) (bs : List Byte) : State :=
  let d := x.dst.at_ x.w2 x.sent
  let n := bs.length
  match s.engKey x.ctx d true x.self with
  | .error f => s.setOpx (x.failed f)
  | .ok none =>
    let y := { x with sent := x.sent + n, owed := x.owed ++ [(x.sent, n)] }
    (s.setOpx y).toPod (d / 2 ^ 48 % 4096) 0 (podCopy 3 x x.sent d n bs)
  | .ok (some k) =>
    match s.lateLine x k (x.sent + n - 1) true with
    | .error (some f) => s.setOpx (x.failed f)
    | .error none => s
    | .ok x =>
      if (s.poisonHit k n (lowBytes n) true).isSome then s.setOpx (x.failed { cause := .memError, addr := word d })
      else if ((granulesOf k n (lowBytes n)).any fun g => !(s.granQ g).isEmpty) || s.mmaReads x k || !x.reaches s k then s
      else
        let s := (s.engWalk x.core x.ctx d).storeTo k n (lowBytes n) (leNat bs)
        let y := { x with sent := x.sent + n }
        (s.setOpx { y with wp := y.front }).delivered x n

/-- The version word of a VCOPY is read (R388): once before the first source read, once after the last. -/
def State.readVersion (s : State) (x : Xfer) : State :=
  let ea := x.verAddr.toNat
  if ea % 8 ≠ 0 then s.setOpx (x.failed { cause := .misaligned, addr := x.verAddr }) else
  match s.engRead x ea 8 false with
  | .wait s => s
  | .fault f => s.setOpx (x.failed f)
  | .bytes s x bs =>
    if bs.length < 8 then s.setOpx (x.failed { cause := .memError, addr := x.verAddr }) else
    let same := word (leNat bs) == x.stamp
    if x.ver = 0 then s.setOpx { x with ver := 1, fin := if same then none else some .stale }
    else s.setOpx { x with ver := 2, stale := !same }

/-- An engine goes on with a running operation by one step (R381, R388): its number. A parked one takes its record. -/
def execCopyDelivery (s : State) : Host.Outcome State Fault Refusal :=
  match s.op (s.arg 0) with
  | none => .next s
  | some x =>
    if x.status == .parked then .next (s.parkRec x)
    else if x.status != .running || x.op == 3 || x.fin.isSome || x.spent then .next s
    else if x.op = 2 ∧ (x.ver = 0 ∨ x.total ≤ x.sent) then .next (s.readVersion x)
    else
      match s.source x x.next with
      | .wait s => .next s
      | .fault f => .next (s.setOpx (x.failed f))
      | .bytes s x bs => .next (s.deliverTo x bs)

/-- Another cube has performed bytes of a delivery (R464): the operation, the position, and the status that came back. -/
def State.podAck (s : State) (seq pos status : Nat) : State :=
  match s.op seq with
  | none => s
  | some x =>
    match x.owed.find? fun p => p.1 == pos with
    | none => s
    | some (_, n) =>
      let y := { x with owed := x.owed.filter fun p => p.1 != pos }
      if status = 0 then
        (if pos < x.sent then (s.setOpx { y with wp := y.front }).delivered x n else s.setOpx y)
      else
        let f : FaultInfo := { cause := farCause (status % 256), addr := word (x.dst.at_ x.w2 pos), aux := status / 256 }
        s.setOpx ({ y with sent := min y.sent pos }.failed f)

/-- An acknowledgement of bytes performed on another cube arrives (R464): the operation, the position, the status. -/
def execPodDeliveryAck (s : State) : Host.Outcome State Fault Refusal := .next (s.podAck (s.arg 0) (s.arg 1) (s.arg 2))

/-- A parked operation resumes at its write pointer once its page is present, and its record returns (R383, R434): its
number. -/
def execCopyResume (s : State) : Host.Outcome State Fault Refusal :=
  match s.op (s.arg 0) with
  | none => .next s
  | some x =>
    if x.status != .parked || !x.owed.isEmpty then .next s else
    let s := if x.frec = 0 then s else s.giveFree x.ctx 8 x.frec.toNat
    .next (s.setOpx { x with status := .running, sent := x.wp, frec := 0, pend := none, asked := false, got := none })

/-! ## Writing trees -/

/-- The context owns a group (R389). -/
def State.ownsGroup (s : State) (ctx grp : Nat) : Bool :=
  match FMap.find grp s.groupLaunch with
  | some l => (s.launch l).active && (s.launch l).ctx == ctx
  | none => false

/-- The number of the screed unit among the nodes of a tree. -/
def screedNode : Nat := 4095

/-- The topology version of the package's tables (R455). -/
def State.topVersion (s : State) : Nat := (s.cwGet 0x88).toNat % 2 ^ 16

/-- A record of R390 that does not stop a TREE (R395): the node, the group, and its entry unless it clears it. -/
def State.treeRecord (s : State) (ctx : Nat) (w : Word) : Option (Nat × Nat × Option GroupEntry) :=
  let node := bitsOf w 52 12
  let grp := bitsOf w 44 8
  let e : GroupEntry :=
    if node = screedNode then
      { parent := 7, op := bitsOf w 40 3, sat := w.getLsbD 39, mark := w.getLsbD 38, layers := bitsOf w 30 8, pod := w.getLsbD 29
        ctx := ctx, version := s.topVersion }
    else
      { parent := bitsOf w 40 3, children := bitsOf w 32 8, op := bitsOf w 29 3, sat := w.getLsbD 28, mark := w.getLsbD 27
        ctx := ctx, version := s.topVersion }
  let reserved := if node = screedNode then bitsOf w 0 29 else bitsOf w 0 27
  if !s.ownsGroup ctx grp || reserved != 0 || (node != screedNode && !isTile node) ||
    (node != screedNode && (e.children.testBit 7 != (e.parent == 6))) || e.op == 7 || (e.mark && e.op != 0) then none
  else some (node, grp, if w.getLsbD 43 then some e else none)

/-- A core has a group in Put (R393, R395). -/
def State.someInPut (s : State) (grp : Nat) : Bool := s.collSt.any fun p => p.1 / 64 % 256 == grp && p.2.st == 1

/-- A TREE applies its next record (R395): its number. -/
def execTreeRecordApply (s : State) : Host.Outcome State Fault Refusal :=
  match s.op (s.arg 0) with
  | none => .next s
  | some x =>
    if x.status != .running || x.op != 3 || x.fin.isSome || x.total ≤ x.wp then .next s else
    let ea := (x.w1.toNat + x.wp) % 2 ^ 64
    if ea % 8 ≠ 0 then .next (s.setOpx (x.failed { cause := .misaligned, addr := word ea })) else
    match s.engRead x ea 8 true with
    | .wait s => .next s
    | .fault f => .next (s.setOpx (x.failed f))
    | .bytes s' _ bs =>
      match if bs.length < 8 then none else s.treeRecord x.ctx (word (leNat bs)) with
      | none => .next (s'.setOpx { x with fin := some .fault })
      | some (node, grp, e) =>
        if s.someInPut grp then .next s else
        let k := 256 * node + grp
        let launch := FMap.get 0 s.groupLaunch grp
        let s := { s' with
          groups := match e with
            | some e => s'.groups.set k e
            | none => FMap.del k s'.groups
          launches := s'.launches.set launch { s'.launch launch with treed := ((s'.launch launch).treed ++ [grp]).dedup } }
        .next (s.setOpx { x with wp := x.wp + 8, sent := x.wp + 8 })

/-! ## Completion -/

/-- The final status of an operation that has nothing left to do (R384, R388). -/
def Xfer.outcome (x : Xfer) : Option XStatus :=
  if !x.owed.isEmpty || x.status != .running then none
  else match x.fin with
    | some st => some st
    | none => if !x.spent then none else some (if x.stale then .stale else .done)

/-- A live copy refers to a granule's image (R425): its tile and entry. -/
def Xfer.inImage (z : Xfer) (s : State) (tile : Nat) (e : EvEntry) : Bool :=
  z.live && z.ctx == e.ctx && (z.readsIn tile e.gran || (List.range 1024).any fun n =>
    match s.areaKey e.ctx (e.image.toNat + 64 * n) with
    | some k => (z.rlocks ++ z.wlocks.map Prod.fst).contains (k / 64)
    | none => false)

/-- An operation completes (R384): its locks go, its record is marked, and its interrupt is raised. Its number. -/
def execCopyCompletion (s : State) : Host.Outcome State Fault Refusal :=
  match s.op (s.arg 0) with
  | none => .next s
  | some x =>
    match x.outcome with
    | none => .next s
    | some st =>
      let y := { x with status := st, live := false, chan := false, rlocks := [], wlocks := [] }
      let s := { s with xfers := (s.xfers.filter fun (z : Xfer) => z.seq != x.seq) ++ [y] }
      let ev := s.evict.map fun (p : Nat × List EvEntry) => (p.1, p.2.filter fun e => s.xfers.any fun (z : Xfer) => z.inImage s p.1 e)
      let s := { s with evict := ev }
      .next (s.raise y)

end Sys2Proof.Machine
end

