-- ==== Sys2Proof/Machine/Collectives.lean ====
section
/-!
DEFINITION. The collective network (spec/16, R389 to R394; R456, R466).
-/

namespace Sys2Proof.Machine

/-! ## Groups -/

/-- The entry of a node for a group. -/
def State.groupAt (s : State) (node grp : Nat) : Option GroupEntry := FMap.find (256 * node + grp) s.groups
/-- The state of a group at a core for a context (R393). -/
def State.collAt (s : State) (core grp ctx : Nat) : CollState := FMap.get {} s.collSt ((core * 256 + grp) * 64 + ctx)
/-- Replace it; Idle is not listed. -/
def State.setColl (s : State) (core grp ctx : Nat) (c : CollState) : State :=
  let k := (core * 256 + grp) * 64 + ctx
  { s with collSt := if c.st = 0 then FMap.del k s.collSt else s.collSt.set k c }

/-- The STALECNT of a node (R445, R456). -/
def staleOff (node : Nat) : Nat := if node = screedNode then 0x28000 else 0x24000 + 8 * node
/-- One more drop, saturating (R456). -/
def State.countStale (s : State) (node : Nat) : State :=
  s.cwSet (staleOff node) (word (min (2 ^ 32 - 1) ((s.cwGet (staleOff node)).toNat + 1)))

/-! ## Operators -/

/-- A lane of a 64-bit contribution. -/
def lane32 (w : Word) (i : Nat) : Nat := w.toNat / 2 ^ (32 * i) % 2 ^ 32

/-- A contribution as a round carries it (R392). -/
def contribution (op : Nat) (mark : Bool) (w : Word) : CollVal :=
  match op with
  | 0 =>
    let nan (i : Nat) : Bool := mark && lane32 w i == 0x80000000
    let v (i : Nat) : Int := if nan i then 0 else sval 32 (lane32 w i)
    { lo := v 0, hi := v 1, nanLo := nan 0, nanHi := nan 1 }
  | 1 => { lo := lane32 w 0, hi := lane32 w 1 }
  | 2 | 3 => { lo := w.toInt }
  | _ => { lo := w.toNat }

/-- One RNE addition of FP32 codes (R392). -/
def fadd32 (a b : Int) : Int × Flags :=
  let (c, f) := fp32.round .rne 0 (fvAdd 23 .rne (fp32.value a.toNat) (fp32.value b.toNat)).1
  ((c : Int), f ||| (fvAdd 23 .rne (fp32.value a.toNat) (fp32.value b.toNat)).2)

/-- Two values combined (R392, R394). -/
def combine2 (op : Nat) (a b : CollVal) : CollVal :=
  let base : CollVal := {
    nanLo := a.nanLo || b.nanLo, nanHi := a.nanHi || b.nanHi, flags := a.flags ||| b.flags, stale := a.stale || b.stale }
  match op with
  | 0 => { base with lo := a.lo + b.lo, hi := a.hi + b.hi }
  | 1 =>
    let (l, f) := fadd32 a.lo b.lo
    let (h, g) := fadd32 a.hi b.hi
    { base with lo := l, hi := h, flags := base.flags ||| f ||| g }
  | 3 => { base with lo := min a.lo b.lo }
  | 4 => { base with lo := (a.lo.toNat &&& b.lo.toNat : Nat) }
  | 5 => { base with lo := (a.lo.toNat ||| b.lo.toNat : Nat) }
  | _ => { base with lo := max a.lo b.lo }

/-- Values combined in order (R391). -/
def combine (op : Nat) : List CollVal → CollVal
  | [] => {}
  | v :: vs => vs.foldl (combine2 op) v

/-- A lane of an integer sum at the root (R392). -/
def rootLane (sat nan : Bool) (v : Int) : Nat × Flags :=
  if nan then (0x80000000, 0)
  else if sat then clampI true 32 v
  else ((v % 2 ^ 32).toNat, 0)

/-- The result that the root forms: its 64 bits stand in `lo` (R391, R392). -/
def rootForm (op : Nat) (sat : Bool) (v : CollVal) : CollVal :=
  match op with
  | 0 =>
    let (l, f) := rootLane sat v.nanLo v.lo
    let (h, g) := rootLane sat v.nanHi v.hi
    { lo := (l + 2 ^ 32 * h : Nat), flags := v.flags ||| f ||| g, stale := v.stale }
  | 1 => { lo := v.lo + 2 ^ 32 * v.hi, flags := v.flags, stale := v.stale }
  | _ => { lo := v.lo % 2 ^ 64, flags := v.flags, stale := v.stale }

/-! ## Rounds -/

/-- The key of an input of a node. -/
def inKey (node grp port : Nat) : Nat := (node * 256 + grp) * 8 + port

/-- The ports that a node waits for, in combining order (R391). -/
def GroupEntry.ports (e : GroupEntry) (node : Nat) : List Nat :=
  if node = screedNode then (List.range 8).filter fun z => e.layers.testBit z
  else [6, 0, 1, 2, 3, 4, 5].filter fun p => e.children.testBit p

/-- The routers of a layer whose parent is the screed (R390). -/
def State.layerRoots (s : State) (z grp : Nat) : List Nat :=
  ((List.range 256).map fun i => 256 * z + i).filter fun t => match s.groupAt t grp with
    | some e => e.parent == 6
    | none => false

/-- A result reaches a member (R391): a core in Put is then Ready. -/
def State.memberResult (s : State) (core grp ctx : Nat) (v : CollVal) : State :=
  if (s.collAt core grp ctx).st = 1 then s.setColl core grp ctx ⟨2, v⟩ else s

/-- A result goes down from a node to its members and branches (R391). -/
def State.sendDown (s : State) (node grp : Nat) (e : GroupEntry) (v : CollVal) : State :=
  if node = screedNode then
    (e.ports node).foldl (fun s z => (s.layerRoots z grp).foldl (fun s t => s.send (.collRes t grp e.version v)) s) s
  else
    (e.ports node).foldl (fun s p =>
      if p = 6 then s.memberResult node grp e.ctx v else s.send (.collRes (portTile node p) grp e.version v)) s

/-- A collective value as bytes between cubes. -/
def collBytes (kind grp ver : Nat) (v : CollVal) : List Byte :=
  [BitVec.ofNat 8 kind, BitVec.ofNat 8 grp] ++ leBytes ver 2 ++
  [BitVec.ofNat 8 (v.flags.toNat + (if v.stale then 32 else 0) + (if v.nanLo then 64 else 0) + (if v.nanHi then 128 else 0))] ++
  leBytes (v.lo % 2 ^ 64).toNat 8 ++ leBytes (v.hi % 2 ^ 64).toNat 8
/-- And back, under an operator: lanes of the bitwise ones are no numbers with a sign. -/
def collOf (op : Nat) (bs : List Byte) : CollVal :=
  let f := field bs 4 1
  { lo := if op < 4 then sval 64 (field bs 5 8) else field bs 5 8, hi := sval 64 (field bs 13 8), flags := BitVec.ofNat 5 f, stale := f.testBit 5
    nanLo := f.testBit 6, nanHi := f.testBit 7 }

/-- A node that has an input from every child combines them and sends the value on, or forms the result (R391): the screed
unit of a group with Pod set joins the pod's tree (R390), by a class 3 message to the cube that forms its result. -/
def State.tryCombine (s : State) (node grp : Nat) : State :=
  match s.groupAt node grp with
  | none => s
  | some e =>
    let ps := e.ports node
    let vs := ps.filterMap fun p => FMap.find (inKey node grp p) s.collIn
    if ps = [] ∨ vs.length < ps.length then s else
    let s := { s with collIn := ps.foldl (fun m p => FMap.del (inKey node grp p) m) s.collIn }
    let v := combine e.op vs
    if node = screedNode then
      (if e.pod then s.toPod (Config.podRoot grp) 3 (collBytes 7 grp e.version v) else s.sendDown node grp e (rootForm e.op e.sat v))
    else if e.parent = 7 then s.sendDown node grp e (rootForm e.op e.sat v)
    else if e.parent = 6 then s.send (.coll screedNode (tileZ node) grp e.version v)
    else s.send (.coll (portTile node e.parent) (e.parent ^^^ 1) grp e.version v)

/-- The message is not current at a node (R394, R456). -/
def State.notCurrent (s : State) (node grp ver : Nat) : Bool :=
  match s.groupAt node grp with
  | none => true
  | some e => ver != s.topVersion || ver != e.version

/-- The round of a core that is in Put ends stale, no entry of its router leading there (R394). -/
def State.endLocal (s : State) (node grp : Nat) : State :=
  (s.collSt.filter fun (p : Nat × CollState) => p.1 / 64 == node * 256 + grp && p.2.st == 1).foldl
    (fun s p => s.memberResult node grp (p.1 % 64) { stale := true }) s

/-- A NACK for a message that a node has dropped goes to its sender (R394, R456). Where the node has no place for the input, so that no
result will come down, the NACK `ends` the sender's round; elsewhere the stale result of the round does, and the NACK changes nothing
more: DESIGN CHOICE (log entry 128). -/
def State.nack (s : State) (node port grp : Nat) (ends : Bool) : State :=
  if node = screedNode then (s.layerRoots port grp).foldl (fun s t => s.send (.nack t node grp ends)) s
  else if port = 6 then (if ends then s.endLocal node grp else s)
  else s.send (.nack (portTile node port) node grp ends)

/-- A NACK can reach its node (R472): over one link between tiles, or from the screed down the layer root's column. -/
def State.nackUp (s : State) (node from_ : Nat) : Bool :=
  if from_ = screedNode then s.pathUp 0 2560 node
  else if node = screedNode then s.pathUp 0 from_ 2560
  else match (List.range 6).find? fun p => portTile from_ p == node with
    | some p => s.portUp from_ p
    | none => true

/-- An input can reach its node (R472): over one link between tiles, and from a layer root down its column to the screed (R390). -/
def State.inputUp (s : State) (node port grp : Nat) : Bool :=
  if node = screedNode then (s.layerRoots port grp).all fun t => s.pathUp 0 t 2560
  else port == 6 || s.portUp (portTile node port) (port ^^^ 1)

/-- A result can come down to its node: from its parent, or up the down link by which its layer's value came (R390, R497). -/
def State.resultUp (s : State) (node grp : Nat) : Bool :=
  match s.groupAt node grp with
  | none => true
  | some e =>
    if e.parent = 6 then s.pathUp 0 2560 node
    else e.parent == 7 || s.portUp (portTile node e.parent) (e.parent ^^^ 1)

/-- A round input reaches a router or the screed unit (R391, R394): the message. Inputs of one port follow one another. A stale one
is dropped with a NACK, and marks the round where the present entry names its port. -/
def execCollRoundInput (s : State) : Host.Outcome State Fault Refusal :=
  match s.msg (s.arg 0) with
  | some (.coll node port grp ver v) =>
    if (FMap.find (inKey node grp port) s.collIn).isSome || !s.inputUp node port grp then .next s else
    let stale := s.notCurrent node grp ver
    let s := s.unsend (s.arg 0)
    let s := if stale then s.countStale node else s
    let named := match s.groupAt node grp with
      | some e => !stale || (e.ports node).contains port
      | none => false
    let s := if stale || !named then s.nack node port grp (!named) else s
    if !named then .next s else
    .next ({ s with collIn := s.collIn.set (inKey node grp port) { v with stale := v.stale || stale } }.tryCombine node grp)
  | _ => .next s

/-- A NACK for a result goes back to the parent that sent it. -/
def State.nackParent (s : State) (node : Nat) (e : GroupEntry) (grp : Nat) : State :=
  if e.parent < 6 then s.send (.nack (portTile node e.parent) node grp false)
  else if e.parent = 6 then s.send (.nack screedNode node grp false) else s

/-- A result comes down to a router (R391, R394), or a NACK comes back to the sender of what was dropped (R456): the message. -/
def execCollResultReturn (s : State) : Host.Outcome State Fault Refusal :=
  match s.msg (s.arg 0) with
  | some (.collRes node grp ver v) =>
    if !s.resultUp node grp then .next s else
    let stale := s.notCurrent node grp ver
    let s := s.unsend (s.arg 0)
    let v := { v with stale := v.stale || stale }
    match s.groupAt node grp with
    | some e => .next ((if stale then (s.countStale node).nackParent node e grp else s).sendDown node grp e v)
    | none => .next ((s.countStale node).endLocal node grp)
  | some (.nack node from_ grp ends) =>
    if !s.nackUp node from_ then .next s else
    let s := s.unsend (s.arg 0)
    if !ends then .next s else
    match s.groupAt node grp with
    | some e => .next (s.sendDown node grp e { stale := true })
    | none => .next (s.endLocal node grp)
  | _ => .next s

/-! ## The pod's tree -/

/-- The root of a group's pod tree combines the values of its cubes and sends the result to each of them (R390, R391). The spec gives
neither the root, nor the cubes, nor their order (log entry 128). -/
def State.tryPod (s : State) (grp : Nat) (e : GroupEntry) : State :=
  let ms := Config.podMembers grp
  let vs := ms.filterMap fun c => FMap.find (4096 * grp + c) s.podIn
  if ms = [] ∨ vs.length < ms.length then s else
  let s := { s with podIn := s.podIn.filter fun p => p.1 / 4096 != grp }
  let v := rootForm e.op e.sat (combine e.op vs)
  ms.foldl (fun s c => s.toPod c 3 (collBytes 8 grp e.version v)) s

/-- A cube's value reaches the root of its group's pod tree (R390, R456): none while that holds one of the cube for an earlier round. -/
def State.podRound (s : State) (src ver : Nat) (bs : List Byte) : Option State :=
  let grp := field bs 1 1
  if (FMap.find (4096 * grp + src) s.podIn).isSome then none else
  let stale := s.notCurrent screedNode grp ver
  let s := if stale then s.countStale screedNode else s
  match if (Config.podMembers grp).contains src then s.groupAt screedNode grp else none with
  | none => some (s.toPod src 3 [15, BitVec.ofNat 8 grp, 1])
  | some e =>
    let v := collOf e.op bs
    let s := if stale then s.toPod src 3 [15, BitVec.ofNat 8 grp, 0] else s
    some (({ s with podIn := s.podIn.set (4096 * grp + src) { v with stale := v.stale || stale } } : State).tryPod grp e)

/-! ## Instructions -/

/-- A TREE of the context is live (R395). -/
def State.treeLive (s : State) (ctx : Nat) : Bool := s.xfers.any fun x => x.live && x.op == 3 && x.ctx == ctx

/-- The checks of R393 before the group's state. What contributes (`put`) stalls while a TREE of the context is live, and is judged by the
entries that this leaves (R395). -/
def State.collCheck (s : State) (grp : Nat) (agree put : Bool) : Except Stop GroupEntry :=
  let c := s.cur.core
  let e := s.groupAt c grp
  if s.thr.light || !isTile c then .error (bad .illegalOp)
  else if put && s.treeLive s.thr.ctx then .error .stall
  else if agree && match e with
      | some e => e.op != 6
      | none => false then .error (bad .illegalOp)
  else match e with
    | none => .error (bad .collGroup)
    | some e => if s.ownsGroup s.thr.ctx grp && e.children.testBit 6 then .ok e else .error (bad .collGroup)

/-- A contribution goes to the core's router, which judges it as a message (R393, R466). -/
def State.contribute (s : State) (grp : Nat) (e : GroupEntry) (v : Word) : State :=
  let c := s.cur.core
  (s.setColl c grp s.thr.ctx ⟨1, {}⟩).send (.coll c 6 grp e.version (contribution e.op e.mark v))

/-- `coll.put` (R393). -/
def execCollPut (a : GSpec) (grp : BitVec 8) (l : Look) (s : State) :=
  run (.collPut a grp l) s fun s => do
    let e ← s.collCheck grp.toNat false true
    if (s.collAt s.cur.core grp.toNat s.thr.ctx).st ≠ 0 then .error (bad .collOrder)
    else
      let (v, s) := s.rd a
      let s ← s.irrevocable
      .ok ((s.contribute grp.toNat e v).openWindow l.toNat [] 0 []).2

/-- The result of a round is taken (R393, R394): its value and flags, or COLL_STALE. -/
def State.takeResult (s : State) (grp : Nat) (d : GSpec) : Res :=
  let c := s.cur.core
  let r := s.collAt c grp s.thr.ctx
  if r.st ≠ 2 then .error .stall else
  let s := s.setColl c grp s.thr.ctx {}
  if r.res.stale then .error (.part (s.setThr { s.thr with latch := none }) { cause := .collStale })
  else .ok ((s.wr d (BitVec.ofInt 64 r.res.lo)).addFlags r.res.flags)

/-- `coll.get` (R393). -/
def execCollGet (d : GSpec) (grp : BitVec 8) (l : Look) (s : State) :=
  run (.collGet d grp l) s fun s => do
    let _ ← s.collCheck grp.toNat false false
    if (s.collAt s.cur.core grp.toNat s.thr.ctx).st = 0 then .error (bad .collOrder) else
    let s ← s.irrevocable
    s.takeResult grp.toNat d

/-- `coll.agree` (R393): its contribution is made once, when it first reaches issue. -/
def execCollAgree (d a : GSpec) (grp : BitVec 8) (l : Look) (s : State) :=
  run (.collAgree d a grp l) s fun s => do
    match s.thr.latch with
    | some _ => s.takeResult grp.toNat d
    | none =>
      let e ← s.collCheck grp.toNat true true
      if (s.collAt s.cur.core grp.toNat s.thr.ctx).st ≠ 0 then .error (bad .collOrder)
      else
        let (v, s) := s.rd a
        let s ← s.irrevocable
        let s := s.contribute grp.toNat e v
        .error (.again (s.setThr { s.thr with st := .stalled, latch := some 1 }))

end Sys2Proof.Machine
end

