-- ==== Sys2Proof/Machine/Rings.lean ====
section
/-!
DEFINITION. Pole and perch rings (spec/15_rings.md).
-/

namespace Sys2Proof.Machine

/-! ## Geometry and words -/

/-- The kind of a ring by its key. -/
def kindOf (r : Nat) : Nat := r / 4096
/-- Length of a ring (R358). -/
def ringLen (r : Nat) : Nat := if kindOf r = 2 then 8 else 16
/-- The tile at a position of a ring. -/
def ringTile (r p : Nat) : Nat :=
  let k := r % 4096
  match kindOf r with
  | 0 => tileAt p (k % 16) (k / 16)
  | 1 => tileAt (k % 16) p (k / 16)
  | _ => tileAt (k % 16) (k / 16) p
/-- The ring that an instruction names, through a core. -/
def RingKind.code (k : RingKind) : Nat := k.toBits.toNat
/-- Change a ring. -/
def State.modRing (s : State) (r : Nat) (f : Ring → Ring) : State := { s with rings := s.rings.set r (f (s.ring r)) }

/-- A thread belongs to a ring (R360). -/
def Ring.has (g : Ring) (t : Thread) : Bool := g.enabled && g.ctx == t.ctx && g.launch == t.launch

/-- The delivered word of a tile (R361). -/
def Carried.word (t : Carried) : Word :=
  Sys2Proof.word (t.key % 2 ^ 24 + t.remaining % 2 ^ 8 * 2 ^ 24 + t.lapLimit % 16 * 2 ^ 32 + t.laps % 16 * 2 ^ 36 +
    (if t.perch then 2 ^ 40 else 0) + t.home % 2 ^ 12 * 2 ^ 48)

/-- The buffers of a family. -/
def Ring.buf (g : Ring) (perch : Bool) : FMap (Carried × Nat × Nat × Nat) := if perch then g.bufPerch else g.bufPole
/-- The tiles of a family. -/
def Ring.tiles (g : Ring) (perch : Bool) : FMap Carried := if perch then g.perches else g.poles
/-- Replace the tiles of a family. -/
def Ring.setTiles (g : Ring) (perch : Bool) (m : FMap Carried) : Ring :=
  if perch then { g with perches := m } else { g with poles := m }
/-- Replace the buffers of a family. -/
def Ring.setBuf (g : Ring) (perch : Bool) (m : FMap (Carried × Nat × Nat × Nat)) : Ring :=
  if perch then { g with bufPerch := m } else { g with bufPole := m }

/-! ## Instructions -/

/-- A ring instruction on a channel core is refused (R358). -/
def State.onTile (s : State) : Except Stop Unit := if isTile s.cur.core then .ok () else .error (bad .illegalOp)

/-- Read n bytes within one line as an instruction's own operand, as `bulk` reads lines. -/
def State.operand (s : State) (ea n : Nat) : Except Stop (List Byte × State) := do
  if s.held || !performedAt s.cur.core s.thr .core then .error .stall else
  let w ← s.check13 .ldv n ea
  let (sp, s) ← s.check45 s.cur.core s.thr.ctx ea w false false
  s.check6 sp ea n allBytes false false
  if s.lineBusy s.cur.core (sp.loc.key / 64) || !s.reaches s.cur.core sp.loc.owner then .error .stall else
  let (v, s) := s.loadN sp.loc.key n
  .ok (leBytes v n, s)

/-- `ring.match` (R363): its entry is loaded at the next step boundary. -/
def execRingMatch (a : GSpec) (e : BitVec 6) (l : Look) (s : State) :=
  run (.ringMatch a e l) s fun s => do
    s.onTile
    let (ea, s) := s.rd a
    if ea.toNat % 16 ≠ 0 then .error (bad .misaligned ea)
    else if (s.localRange ea 16).isNone then .error (bad .badAperture ea)
    else
      let s ← s.irrevocable
      let (bs, s) ← s.operand ea.toNat 16
      let st := field bs 14 1
      let rs := field bs 15 1
      if st.testBit 6 || decide (8 ≤ rs) || (st.testBit 7 && rs == 0) then .error (bad .illegalOp) else
      let m : MatchEntry := {
        valid := st.testBit 7, pole := field bs 8 3, perch := field bs 11 3, entry := word (field bs 0 8), stage := st % 64
        rings := rs, ctx := s.thr.ctx, launch := s.thr.launch }
      let (wid, s) := s.openWindow l.toNat [] 1 []
      .ok { s with ringWrites := s.ringWrites ++ [(s.cur.core, s.cur.slot, wid, .match_ s.cur.core e.toNat m)] }

/-- `ring.put` (R362). -/
def execRingPut (a b : GSpec) (perch : Bool) (r : RingKind) (l : Look) (s : State) :=
  run (.ringPut a b perch r l) s fun s => do
    s.onTile
    let c := s.cur.core
    let t := s.thr
    let key := ringKey (RingKind.code r) c
    let pos := ringPos (RingKind.code r) c
    let g := s.ring key
    let (ea, tag) := (s.rg a, (s.rg b).toNat)
    if !g.has t then .error (bad .ringOff)
    else if tag / 2 ^ 36 ≠ 0 ∨ tag / 2 ^ 24 % 256 = 0 ∨ tag / 2 ^ 32 = 0 then .error (bad .ringTag)
    else if ea.toNat % 64 ≠ 0 then .error (bad .misaligned ea)
    else if (s.localRange ea 512).isNone then .error (bad .badAperture ea)
    else if (FMap.find pos (g.buf perch)).isSome then .error .stall
    else
      let s ← s.irrevocable
      let (bs, s) ← s.bulk ea.toNat 8
      let s ← s.countStall (stageOf t.ctl) t.ctl.ltime 1
      let tile : Carried := {
        perch := perch, key := tag % 2 ^ 24, stage := stageOf t.ctl, time := t.ctl.ltime, remaining := tag / 2 ^ 24 % 256
        laps := 0, lapLimit := tag / 2 ^ 32, home := c, ctx := t.ctx, launch := t.launch, data := bs }
      let (wid, s) := s.openWindow l.toNat [] 1 []
      .ok (s.modRing key fun g => g.setBuf perch (FMap.set (g.buf perch) pos (tile, c, s.cur.slot, wid)))

/-- Store the held entries of a family (R369): each as a store of the thread's, under one window. -/
def State.storeEntries (s : State) (wid ea : Nat) (t : Carried) : List Nat → Res
  | [] => .ok s
  | i :: is_ => do
    let (sp, s) ← s.reach .stv 64 64 (ea + 64 * i) allBytes true true
    let s ← s.doAccess wid sp 64 (.store allBytes (t.entry i)) .none
    s.storeEntries wid ea t is_

/-- `ring.take` (R369). -/
def execRingTake (d a : GSpec) (perch : Bool) (r : RingKind) (l : Look) (s : State) :=
  run (.ringTake d a perch r l) s fun s => do
    s.onTile
    let c := s.cur.core
    let ea := s.rg a
    match s.myPair c with
    | none => .error (bad .ringEmpty)
    | some p =>
      if p.ring ≠ ringKey (RingKind.code r) c ∨ (if perch then p.perchTaken else p.poleTaken) then .error (bad .ringEmpty)
      else if ea.toNat % 64 ≠ 0 then .error (bad .misaligned ea)
      else if (s.localRange ea 512).isNone then .error (bad .badAperture ea)
      else
        let s ← s.irrevocable
        let t := if perch then p.perch else p.pole
        let left := if perch then p.perchLeft else p.poleLeft
        let (ds, s) := s.longDest d
        let (wid, s) := s.openWindow l.toNat ds 0 [s.longWrite d t.word]
        let s ← s.storeEntries wid ea.toNat t left
        .ok (s.setPair c (if perch then { p with perchLeft := [], perchTaken := true }
          else { p with poleLeft := [], poleTaken := true }))

/-- The status word of a ring through a core (R370). -/
def Ring.status (g : Ring) (t : Thread) (pos : Nat) : Word :=
  let b (x : Bool) (n : Nat) : Nat := if x then 2 ^ n else 0
  if !g.has t then word (b g.enabled 11) else
  word (FMap.get 0 g.deferred pos % 2 ^ 32 * 2 ^ 32 + min 255 g.missed * 2 ^ 24 + g.liveShown % 64 * 2 ^ 12 + b g.enabled 11 +
    b (FMap.find pos g.bufPerch).isSome 10 + b (FMap.find pos g.bufPole).isSome 9 + b (FMap.find pos g.perches).isSome 8 +
    b (FMap.find pos g.poles).isSome 7 + g.ctx % 64)
/-- `ring.st` (R370). -/
def execRingSt (d : GSpec) (r : RingKind) (s : State) :=
  run (.ringSt d r) s fun s => do
    s.onTile
    let c := s.cur.core
    let s ← s.irrevocable
    .ok (s.wr d ((s.ring (ringKey (RingKind.code r) c)).status s.thr (ringPos (RingKind.code r) c)))

/-- The ring holds a live tile, or a buffer of it is busy (R360, R367). -/
def Ring.holds (g : Ring) : Bool :=
  (g.poles ++ g.perches).any (fun p => p.2.remaining != 0) || !g.bufPole.isEmpty || !g.bufPerch.isEmpty

/-- Live is 0 as `ring.st` shows it, and no injection buffer is busy (R370, R371). -/
def Ring.idle (g : Ring) : Bool := g.liveShown == 0 && g.bufPole.isEmpty && g.bufPerch.isEmpty

/-- `ring.drain` (R371). -/
def execRingDrain (r : RingKind) (s : State) :=
  run (.ringDrain r) s fun s => do
    s.onTile
    let s ← s.irrevocable
    let key := ringKey (RingKind.code r) s.cur.core
    let g := s.ring key
    if !g.enabled then .ok s
    else if !g.has s.thr then .error (bad .ringOff)
    else
      .ok (if g.idle then s else s.park (.ringDrain key))

/-- `ring.cfg` (R360): a ring whose path is broken may be disabled with live tiles (R372); a z-column waits
for all eight layers (R482). -/
def execRingCfg (a : GSpec) (r : RingKind) (l : Look) (s : State) :=
  run (.ringCfg a r l) s fun s => do
    s.onTile
    let (ea, s) := s.rd a
    if ea.toNat % 64 ≠ 0 then .error (bad .misaligned ea) else
    let s ← s.irrevocable
    let (bs, s) ← s.bulk ea.toNat 1
    let en := field bs 0 1
    let ctx := field bs 1 1
    let launch := field bs 2 2
    if 2 ≤ en ∨ 64 ≤ ctx ∨ field bs 16 48 ≠ 0 then .error (bad .illegalOp) else
    let key := ringKey (RingKind.code r) s.cur.core
    let g := s.ring key
    if (kindOf key = 2 ∧ !(List.range 8).all s.joined) ∨ (en = 1 ∧ g.enabled ∧ g.launch ≠ launch) ∨ (en = 0 ∧ g.holds ∧ !g.halted) then .error (bad .ringBusy) else
    let (wid, s) := s.openWindow l.toNat [] 1 []
    .ok { s with ringWrites := s.ringWrites ++ [(s.cur.core, s.cur.slot, wid,
      .cfg key (en == 1) ctx launch (field bs 4 4) (word (field bs 8 8)))] }

/-! ## A step -/

/-- A window that a ring closes owes nothing more. -/
def State.ringDone (s : State) (c slot wid : Nat) : State :=
  let t := s.thrAt c slot
  s.setThrAt c slot { t with windows := t.windows.map fun w => if w.wid == wid then { w with need := 0 } else w }

/-- Entries of a core that name a ring are no longer valid (R363). -/
def Core.dropEntries (k : Core) (kind : Nat) : Core :=
  { k with matches_ := k.matches_.map fun p => (p.1, if p.2.rings.testBit kind then { p.2 with valid := false } else p.2) }

/-- A tile leaves a ring as a missed encounter (R368): its slot in the miss area is written when there is one and the write
does not fault; its handler waits for a record. -/
def State.miss (s : State) (r : Nat) (t : Carried) : State :=
  let g := s.ring r
  let c := t.home
  let base := g.missBase.toNat + 576 * g.missSlot
  let lines := (List.range 8).map (fun i => (t.entry i).toNat) ++
    [t.word.toNat + 2 ^ 64 * t.time.toNat + 2 ^ 128 * t.stage]
  let spot (i : Nat) : Except Stop Nat :=
    match whereIs (base + 64 * i) with
    | none => .error .stall
    | some w =>
      if (base + 64 * i) % 64 ≠ 0 || !w.allows .stv then .error .stall else
      (s.check45 c t.ctx (base + 64 * i) w true false).map fun p => p.1.loc.key
  let keys : Except Stop (List Nat) := if g.missSlots ≤ g.missSlot then .error .stall else (List.range 9).mapM spot
  let (s, addr) : State × Word := match keys with
    | .ok ks => ((List.range 9).foldl (fun (s : State) i => s.storeTo (ks.getD i 0) 64 allBytes (lines.getD i 0)) s, word base)
    | .error _ => (s, BitVec.allOnes 64)
  let kept := match keys with
    | .ok _ => 1
    | .error _ => 0
  s.modRing r fun g => { g with
    missed := min 255 (g.missed + 1), missSlot := g.missSlot + kept, lost := g.lost ++ [(c, t, addr)] }

/-- The handlers of missed tiles take their records (R368, R430): the increment before the tile's decrement. -/
def State.missHandler (s : State) (c : Nat) (t : Carried) (addr : Word) : Option State :=
  match s.takeFree t.ctx 8 with
  | none => none
  | some (frec, s) =>
    let s := s.roomFor c t.launch t.stage t.time
    let u : Thread := { ctx := t.ctx, launch := t.launch, ctl := { ltime := t.time, stage := word t.stage } }
    let s := s.putWords t.ctx frec (faultWords u c 0 0 { cause := .missedEncounter, addr := addr } false)
    let s := if s.ctxHandler t.ctx = 0 then s.toFaultQ t.ctx (word frec) else s.makeHandler c 8 u (word frec) t.word none
    some (s.count c t.launch t.stage t.time (-1))
/-- Those of one ring. -/
def State.missHandlers (s : State) (r : Nat) : State :=
  (s.ring r).lost.foldl (fun s p =>
    match s.missHandler p.1 p.2.1 p.2.2 with
    | some s => s.modRing r fun g => { g with lost := g.lost.erase p }
    | none => s) s

/-- Every live tile of a ring that is disabled leaves it as missed, a retired one with its count, and the entries that name it become
invalid (R363, R367, R372). -/
def State.disableRing (s : State) (r : Nat) : State :=
  let g := s.ring r
  let all := (g.poles ++ g.perches).map (fun p => (p.2, ringTile r p.1)) ++ (g.bufPole ++ g.bufPerch).map fun p => (p.2.1, p.2.2.1)
  let s := (g.bufPole ++ g.bufPerch).foldl (fun s p => s.ringDone p.2.2.1 p.2.2.2.1 p.2.2.2.2) s
  let s := s.modRing r fun g => { g with poles := [], perches := [], bufPole := [], bufPerch := [] }
  let s := all.foldl (fun s t =>
    if t.1.remaining = 0 then (s.roomFor t.2 t.1.launch t.1.stage t.1.time).count t.2 t.1.launch t.1.stage t.1.time (-1)
    else s.miss r t.1) s
  let s := (List.range (ringLen r)).foldl (fun s p => s.modCore (ringTile r p) fun k => k.dropEntries (kindOf r)) s
  s.modRing r fun g => { g with enabled := false, halted := g.halted }

/-- A ring is enabled for a launch, its counters cleared (R360). -/
def State.enableRing (s : State) (r ctx launch slots : Nat) (base : Word) : State :=
  s.modRing r fun g => { g with
    enabled := true, ctx := ctx, launch := launch, missSlots := slots, missBase := base, missed := 0, missSlot := 0, deferred := [] }

/-- A ring or match write takes effect (R360, R363). -/
def State.ringWrite (s : State) (w : RingWrite) : State :=
  match w with
  | .cfg r en ctx launch slots base => if en then s.enableRing r ctx launch slots base else s.disableRing r
  | .match_ c i e => s.modCore c fun k => { k with matches_ := k.matches_.set i e }

/-- The end of a step on one ring (R359, R367): retired tiles leave with their counts, the others move on. -/
def State.ringMove (s : State) (r : Nat) (perch : Bool) : State :=
  let g := s.ring r
  let n := ringLen r
  let gone := (g.tiles perch).filter fun p => p.2.remaining == 0
  let s := gone.foldl (fun s p => (s.roomFor (ringTile r p.1) p.2.launch p.2.stage p.2.time).count (ringTile r p.1) p.2.launch p.2.stage
    p.2.time (-1)) s
  let stay := (g.tiles perch).filter fun p => p.2.remaining != 0
  s.modRing r fun g => g.setTiles perch (stay.foldl (fun (m : FMap Carried) p =>
    FMap.set m ((p.1 + if perch then n - 1 else 1) % n) { p.2 with still := false }) [])

/-- Tiles enter a ring where their slot is empty (R362). -/
def State.ringInject (s : State) (r : Nat) (perch : Bool) : State :=
  ((s.ring r).buf perch).foldl (fun s p =>
    let g := s.ring r
    if (FMap.find p.1 (g.tiles perch)).isSome then s else
    let s := s.modRing r fun g => (g.setBuf perch (FMap.del p.1 (g.buf perch))).setTiles perch
      (FMap.set (g.tiles perch) p.1 { p.2.1 with still := true })
    s.ringDone p.2.2.1 p.2.2.2.1 p.2.2.2.2) s

/-- The lowest entry of a core that matches a pair on a ring (R366). -/
def State.matchFor (s : State) (r c : Nat) (a b : Carried) : Option (Nat × MatchEntry) :=
  let g := s.ring r
  (s.core c).matches_.find? fun p =>
    let e := p.2
    e.valid && e.rings.testBit (kindOf r) && e.pole == a.key && e.perch == b.key && e.ctx == g.ctx && e.launch == g.launch &&
    a.stage == e.stage && b.stage == e.stage

/-- A candidate pair at a core (R366): the pole at one position and the perch at another. -/
def State.encounter (s : State) (r c pp qp : Nat) : State :=
  let g := s.ring r
  match FMap.find pp g.poles, FMap.find qp g.perches with
  | some a, some b =>
    if a.remaining = 0 ∨ b.remaining = 0 then s else
    match s.matchFor r c a b with
    | none => s
    | some (i, e) =>
      let pos := ringPos (kindOf r) c
      if 8 ≤ (FMap.get [] s.deliveries c).length then
        s.modRing r fun g => { g with deferred := FMap.set g.deferred pos (FMap.get 0 g.deferred pos + 1) }
      else
        let a := { a with remaining := a.remaining - 1 }
        let b := { b with remaining := b.remaining - 1 }
        let t := if a.time.ult b.time then b.time else a.time
        let s := (s.roomFor c e.launch e.stage t).count c e.launch e.stage t 1
        let (id, s) := s.nextFree
        let d : Delivery := {
          id := id, ring := r, task := none, pole := a, perch := b, poleLeft := List.range 8, perchLeft := List.range 8
          poleTaken := false, perchTaken := false }
        let task : Task := {
          ctx := e.ctx, launch := e.launch, entry := e.entry, args := [a.word, b.word], stage := e.stage, time := t
          place := { kind := 1, num := c }, origin := some c, pair := some id }
        let s := { s with spawned := s.spawned ++ [task], deliveries := s.deliveries.set c (FMap.get [] s.deliveries c ++ [d]) }
        let s := s.modCore c fun k => { k with matches_ := k.matches_.set i { e with valid := false } }
        s.modRing r fun g => { g with poles := FMap.set g.poles pp a, perches := FMap.set g.perches qp b }
  | _, _ => s

/-- The crossing that a core detects (R365): its perch came over the link as the pole left it. -/
def State.crossing (s : State) (r p : Nat) : State :=
  let g := s.ring r
  let q := (p + 1) % ringLen r
  let moved (m : FMap Carried) (i : Nat) : Bool := match FMap.find i m with
    | some t => !t.still
    | none => false
  if moved g.perches p && moved g.poles q then s.encounter r (ringTile r p) q p else s

/-- Tiles that are home again and still live (R368). -/
def State.ringHome (s : State) (r : Nat) (perch : Bool) : State :=
  ((s.ring r).tiles perch).foldl (fun s p =>
    let t := p.2
    if t.still || t.remaining == 0 || ringTile r p.1 != t.home then s else
    let t := { t with laps := t.laps + 1 }
    if t.laps < t.lapLimit then s.modRing r fun g => g.setTiles perch (FMap.set (g.tiles perch) p.1 t)
    else (s.modRing r fun g => g.setTiles perch (FMap.del p.1 (g.tiles perch))).miss r t) s

/-- The rings that step. -/
def State.turning (s : State) : List Nat := (s.rings.filter fun p => p.2.enabled && !p.2.halted).map Prod.fst

/-- The tiles of a ring that have not retired (R370): one whose Remaining has come to 0 has, though on a halted ring it still stands. -/
def Ring.live (g : Ring) : Nat := ((g.poles ++ g.perches).filter fun p => p.2.remaining != 0).length

/-- A ring whose Live is not what its tiles are, or which owes a handler (R368, R370). -/
def State.ringsOwe (s : State) : Bool := s.rings.any fun p => p.2.liveShown != p.2.live || p.2.lost != []

/-- A step boundary (R359): the step that ends, the writes that wait for it, and the checks of the step that begins. Live shows the
tiles of each ring as the step starts, whether it turns or not (R370). -/
def execRingStep (s : State) : Host.Outcome State Fault Refusal :=
  if s.cycle % 32 ≠ 0 then .next s else
  let s := s.turning.foldl (fun s r => (s.ringMove r false).ringMove r true) s
  let ws := s.ringWrites
  let s := { s with ringWrites := [] }
  let s := ws.foldl (fun s w => (s.ringWrite w.2.2.2).ringDone w.1 w.2.1 w.2.2.1) s
  let s := s.turning.foldl (fun s r => (s.ringInject r false).ringInject r true) s
  let s := { s with rings := s.rings.map fun (p : Nat × Ring) => (p.1, { p.2 with liveShown := p.2.live }) }
  let s := s.turning.foldl (fun s r =>
    let ps := List.range (ringLen r)
    let s := ps.foldl (fun s p => s.encounter r (ringTile r p) p p) s
    let s := ps.foldl (fun s p => s.crossing r p) s
    (s.ringHome r false).ringHome r true) s
  .next (s.rings.foldl (fun s p => s.missHandlers p.1) s)

end Sys2Proof.Machine
end

