-- ==== Sys2Proof/Machine/Launches.lean ====
section
/-!
DEFINITION. Work queues, launch packets, arbitration, the checks of an image, the start, end, abort and retirement of launches
(spec/18, R397 to R405, R415 to R417; R92, R340, R364, R389, R498).
-/

namespace Sys2Proof.Machine

/-! ## Requests of the host -/

/-- The service core that serves a request of the host (R447). -/
def serviceOf (e : Instr × List Nat) : Nat :=
  match e.1 with
  | .wqWindowWrite => e.2.getD 0 0 % 4
  | .bar4MemoryAccess => e.2.getD 2 0 % 4
  | _ => 0
/-- The port in host mode carries no traffic: it is in a full retrain (R31, R442). -/
def State.hostShut (s : State) : Bool :=
  s.groupSlot == 0 && (List.range 12).any fun p => bitsOf (s.cwGet (8 * p)) 4 2 == 3 && !(s.cwGet (8 * p)).getLsbD 3
/-- A request of the host cannot be served yet: its port carries none, or an earlier one of its service core waits (R31, R447). -/
def State.hostWaits (s : State) (i : Instr) : Bool :=
  s.hostShut || s.hostIn.any fun e => serviceOf e == serviceOf (i, s.args)
/-- The request that is being made waits behind those of its service core. -/
def State.holdHost (s : State) (i : Instr) : State := { s with hostIn := s.hostIn ++ [(i, s.args)] }

/-- The cube of a slot of the group (R443, R444). -/
def State.slotCube (s : State) (slot : Nat) : Option Nat := FMap.find slot s.slotCubes
/-- Bits of a doubleword of configuration space are set. -/
def State.pciSet (s : State) (off bits : Nat) (old : Nat := 0) : State :=
  { s with pci := s.pci.set off (FMap.get (word old) s.pci off ||| word bits) }
/-- An error that a request of the host met is logged (R443): 20 an Unsupported Request, 15 a Completer Abort, and whether the request
was a posted one. PRESUMED of PCI Express (log entry 110): what Status, Device Status and the two registers of Advanced Error Reporting
show of it. -/
def State.pciError (s : State) (bit : Nat) (posted : Bool) : State :=
  let fatal := (FMap.get 0x00462030 s.pci 0x10C).getLsbD bit
  let advisory := !fatal && !posted
  let s := s.pciSet 0x104 (2 ^ bit)
  let s := if advisory then s.pciSet 0x110 (2 ^ 13) else s
  let s := s.pciSet 0x78 (2 ^ (if fatal then 18 else if advisory then 16 else 17) + if bit = 20 then 2 ^ 19 else 0) 0x2000
  if bit = 15 then s.pciSet 0x04 (2 ^ 27) else s
/-- A posted request that nothing supports is logged and dropped; another cube of the group tells the bridge. -/
def State.badPost (s : State) : State :=
  if s.groupSlot = 0 then s.pciError 20 true else s.toPod s.bridge 1 [16]

/-- The part of a write to another slot of the group, as the bridge's service core sends it on (R447): the slot, the code of its step and its
operands. A slot that holds no cube supports no request. -/
def State.forwardPost (s : State) (slot code : Nat) (ops : List Nat) : State :=
  match s.slotCube slot with
  | some cube => s.toPod cube 0 ([9, BitVec.ofNat 8 code] ++ ops.flatMap fun n => leBytes n 8)
  | none => s.badPost

/-! ## Work queues -/

/-- Offset of a work queue's state (R446). -/
def wqOff (q : Nat) : Nat := 0x200000 + 32 * q
/-- RingBase. -/
def State.wqRing (s : State) (q : Nat) : Nat := (s.cwGet (wqOff q)).toNat
/-- DoneBase. -/
def State.wqDone (s : State) (q : Nat) : Nat := (s.cwGet (wqOff q + 8)).toNat
/-- The word of RingLog2, DoneLog2, Ctl, Context and Dropped. -/
def State.wqCfg (s : State) (q : Nat) : Word := s.cwGet (wqOff q + 16)
/-- RingEntries. -/
def State.wqEntries (s : State) (q : Nat) : Nat := 2 ^ bitsOf (s.wqCfg q) 0 5
/-- DoneEntries. -/
def State.wqDoneEntries (s : State) (q : Nat) : Nat := 2 ^ bitsOf (s.wqCfg q) 8 5
/-- Enable. -/
def State.wqEnabled (s : State) (q : Nat) : Bool := (s.wqCfg q).getLsbD 23
/-- Priority. -/
def State.wqPrio (s : State) (q : Nat) : Nat := bitsOf (s.wqCfg q) 16 3
/-- The owning context. -/
def State.wqCtx (s : State) (q : Nat) : Nat := bitsOf (s.wqCfg q) 24 6
/-- DoneTail. -/
def State.wqDoneTail (s : State) (q : Nat) : Nat := bitsOf (s.cwGet (wqOff q + 24)) 0 32
/-- DoneHead. -/
def State.wqDoneHead (s : State) (q : Nat) : Nat := bitsOf (s.cwGet (wqOff q + 24)) 32 32
/-- The window and ring of a queue. -/
def State.wq (s : State) (q : Nat) : WorkQ := FMap.get {} s.workQ q
/-- Change them. -/
def State.modWq (s : State) (q : Nat) (f : WorkQ → WorkQ) : State := { s with workQ := s.workQ.set q (f (s.wq q)) }

/-- A packet is discarded and counted (R398). -/
def State.wqDrop (s : State) (q : Nat) : State :=
  let n := min (2 ^ 32 - 1) (bitsOf (s.wqCfg q) 32 32 + 1)
  s.cwSet (wqOff q + 16) (word (bitsOf (s.wqCfg q) 0 32 + n * 2 ^ 32))

/-- Replace bytes of a window from an offset; those past its end are none of it. -/
def putBuf (buf : List Byte) (off : Nat) (bs : List Byte) : List Byte :=
  (List.range 64).map fun i => if off ≤ i ∧ i < off + bs.length then bs.getD (i - off) 0 else buf.getD i 0

/-- The location at which the next packet of a queue is stored. -/
def State.wqKey (s : State) (q : Nat) : Nat := (s.hbmLoc (s.wqRing q + 64 * ((s.wq q).tail % s.wqEntries q))).key
/-- A write of n bytes at an offset of a window covers its byte 63 (R398). -/
def wqEnds (off n : Nat) : Bool := decide (off ≤ 63) && decide (63 < off + n)
/-- A write that enqueues a packet waits while an atomic holds a granule of its place (R287, R297). -/
def State.wqHeld (s : State) (q off n : Nat) : Bool :=
  s.wqEnabled q && wqEnds off n && decide ((s.wq q).tail - (s.wq q).head < s.wqEntries q) &&
  (granulesOf (s.wqKey q) 64 allBytes).any fun g => !(s.granQ g).isEmpty
/-- A host write into a work-queue window (R398): the queue, the offset and the bytes. -/
def State.wqWrite (s : State) (q off : Nat) (bs : List Byte) : State :=
  let ends := wqEnds off bs.length
  if !s.wqEnabled q then (if ends then s.wqDrop q else s) else
  let w := s.wq q
  let buf := putBuf w.buf off bs
  if !ends then s.modWq q fun w => { w with buf := buf } else
  let s := s.modWq q fun w => { w with buf := List.replicate 64 0 }
  if s.wqEntries q ≤ w.tail - w.head then s.wqDrop q else
  (s.storeTo (s.wqKey q) 64 allBytes (leNat buf)).modWq q fun w => { w with tail := w.tail + 1, since := w.since ++ [s.screedNow] }
/-- `WQ_WINDOW_WRITE` (R398, R444, R447): the window's number in BAR2, 65,536 to a slot, the offset and at most 512 bytes. On the bridge
a write to another slot goes to its cube. It waits for the host port, for its turn at its service core, and for an atomic that holds
a granule of the packet's place. -/
def execWqWindowWrite (s : State) : Host.Outcome State Fault Refusal :=
  let slot := s.arg 0 / 65536
  let q := s.arg 0 % 65536
  if s.hostWaits .wqWindowWrite then .next (s.holdHost .wqWindowWrite)
  else if !s.barOpen || !s.bring.screed then .next s
  else if 514 < s.args.length then .next s.badPost
  else if s.groupSlot = 0 ∧ slot ≠ 0 then .next (s.forwardPost slot 3 (q :: s.args.drop 1))
  else if s.wqHeld q (s.arg 1) (s.args.length - 2) then .next (s.holdHost .wqWindowWrite)
  else .next (s.wqWrite q (s.arg 1) ((s.args.drop 2).map fun n => BitVec.ofNat 8 n))

/-- DoneHead moves forward, to no more than DoneTail (R446). -/
def State.doneHead (s : State) (q v : Nat) : State :=
  let d (n : Nat) : Nat := (n + 2 ^ 32 - s.wqDoneHead q) % 2 ^ 32
  if d (v % 2 ^ 32) ≤ d (s.wqDoneTail q) then s.cwSet (wqOff q + 24) (word (s.wqDoneTail q + v % 2 ^ 32 * 2 ^ 32)) else s
/-- A host write of DoneHead (R446, R447): the queue, 65,536 to a slot, and the value. -/
def execDoneHeadWrite (s : State) : Host.Outcome State Fault Refusal :=
  let slot := s.arg 0 / 65536
  if s.hostWaits .doneHeadWrite then .next (s.holdHost .doneHeadWrite)
  else if !s.barOpen || !s.bring.screed then .next s
  else if s.groupSlot = 0 ∧ slot ≠ 0 then .next (s.forwardPost slot 4 [s.arg 0 % 65536, s.arg 1])
  else .next (s.doneHead (s.arg 0 % 65536) (s.arg 1))

/-! ## The device queue -/

/-- Overflow entries move back in order as room appears, with the bytes that the region holds (R403). -/
def execDeviceOverflowRefill (s : State) : Host.Outcome State Fault Refusal :=
  match s.ovf with
  | [] => .next s
  | p :: rest =>
    .next (if s.devQ.length < 4096 then { s with devQ := s.devQ ++ [{ p with bytes := s.bytesAt (s.hbmLoc p.spill).key 64 }], ovf := rest }
      else s)

/-! ## Checks of a packet and its image -/

/-- The statuses of a completion record (R402). -/
inductive LStat where
  | done | header | feature | packet | image | place | aborted
  deriving DecidableEq, Repr
/-- Their codes. -/
def LStat.code (x : LStat) : Nat :=
  match x with
  | .done => 0
  | .header => 1
  | .feature => 2
  | .packet => 3
  | .image => 4
  | .place => 5
  | .aborted => 6

/-- Check 1 of R401. -/
def launchBad (bs : List Byte) : Bool :=
  let pk := field bs 6 1
  field bs 0 1 != 1 || decide (4 ≤ field bs 1 1) || decide (2048 ≤ field bs 2 2) || decide (8 ≤ field bs 4 1) ||
  field bs 5 1 == 0 || (decide (4 < pk) && pk != 0xFF) || ((pk == 0 || pk == 0xFF) && field bs 16 8 != 0) || field bs 60 4 != 0 ||
  ((field bs 4 1).testBit 2 && field bs 5 1 != 0xFF)

/-- Every byte of a range reads without fault in a context. -/
def State.readable (s : State) (ctx ea n : Nat) : Bool :=
  n == 0 || (List.range ((ea % 64 + n + 63) / 64)).all fun i =>
    match s.engKey ctx (ea / 64 * 64 + 64 * i) false with
    | .ok (some k) => (s.clean (k / 64 * 64) 64) == 64
    | .ok none => false
    | .error _ => false

/-- Bytes of an image that reads without fault. -/
def State.image (s : State) (ctx ea n : Nat) : List Byte :=
  match s.engBytes ctx ea n with
  | .ok bs => bs
  | .error _ => []

/-- The table entries of a header: stage, edge, gauge, group, match, with their entry sizes (R90, R496). -/
def tablesOf (h : List Byte) : List (Nat × Nat × Nat) :=
  ([8, 8, 32, 8, 16].zipIdx).map fun p => (field h (32 + 8 * p.2) 4, field h (36 + 8 * p.2) 4, p.1)

/-- The ranges that a header names (R401). -/
def rangesOf (h : List Byte) : List (Nat × Nat) :=
  (field h 96 4, field h 100 4) :: (field h 104 4, field h 108 4) ::
  (tablesOf h).map fun t => (t.1, t.2.1 * t.2.2)

/-- The header breaks R90 or R92's first check. DESIGN CHOICE (log entry 129): no field gives the image's extent, so that an offset or
size lies within the image is judged by its alignment here and by the reading of its bytes, which R401 asks first; and a PlaceNum or
PlaceAddr that R90 says is otherwise zero fails as a reserved byte does. -/
def headerBad (h : List Byte) : Bool :=
  let zero (at_ n : Nat) : Bool := field h at_ n == 0
  let pk := field h 80 1
  field h 0 4 != 0x4B534E4C || field h 4 2 != 1 || decide (2 < field h 6 1) ||
  !(zero 7 1 && zero 28 4 && zero 75 1 && zero 81 1 && zero 84 4 && zero 116 140) ||
  ((List.range 4).any fun i => decide (5 < field h (76 + i) 1) && field h (76 + i) 1 != 0xFF) ||
  decide (4 < pk) || (!(pk == 1 || pk == 2 || pk == 3) && !zero 82 2) || (pk != 4 && !zero 88 8) ||
  field h 96 4 % 64 != 0 || field h 100 4 % 64 != 0 || field h 104 4 % 64 != 0 || (tablesOf h).any fun t => t.1 % 8 != 0

/-- One step of a search along edges. -/
def grow (es : List (Nat × Nat)) (seen : List Nat) : List Nat :=
  (seen ++ (es.filter fun e => seen.contains e.1).map Prod.snd).dedup
/-- What a stage reaches by n edges or fewer. -/
def reaches (es : List (Nat × Nat)) : Nat → List Nat → List Nat
  | 0, seen => seen
  | n + 1, seen => reaches es n (grow es seen)

/-- Some cycle holds no `add` below the least depth of its stages (R340): one whose least depth is m lies among stages of at
least that depth, without any such `add`, and passes through a stage of depth m. -/
def Launch.badCycle (l : Launch) : Bool :=
  [1, 2, 3, 4].any fun m =>
    let es := (l.edges.filter fun e => decide (m ≤ l.depth e.1) && decide (m ≤ l.depth e.2.1) &&
      !(e.2.2.1 == 0 && decide (e.2.2.2 < m))).map fun e => (e.1, e.2.1)
    (List.range l.stages.length).any fun v => l.depth v == m &&
      (reaches es l.stages.length ((es.filter fun e => e.1 == v).map Prod.snd)).contains v

/-- The stage and edge checks of R340. -/
def Launch.tablesOk (l : Launch) (st ed : List Byte) : Bool :=
  (l.stages.all fun d => decide (1 ≤ d) && decide (d ≤ 4)) &&
  ((List.range (st.length / 8)).all fun i => field st (8 * i + 1) 7 == 0) &&
  ((List.range (ed.length / 8)).all fun i => field ed (8 * i + 4) 4 == 0) &&
  (l.edges.all fun e =>
    let n := l.stages.length
    decide (e.1 < n) && decide (e.2.1 < n) && match e.2.2.1 with
      | 0 => l.depth e.1 == l.depth e.2.1 && decide (e.2.2.2 < l.depth e.1)
      | 1 => l.depth e.2.1 == l.depth e.1 + 1 && e.2.2.2 == 0
      | 2 => l.depth e.2.1 + 1 == l.depth e.1 && e.2.2.2 == 0
      | _ => false) &&
  !l.badCycle

/-- The match and group tables are well formed (R389, R496). R496 says that a bad match entry fails the launch with HEADER; that a
group entry which R389 does not allow fails it in the same way is the model's choice: DESIGN CHOICE (log entry 105). -/
def Launch.entriesOk (l : Launch) (ms gs : List Byte) : Bool :=
  ((List.range (ms.length / 16)).all fun i =>
    let b := field ms (16 * i + 14) 1
    field ms (16 * i + 15) 1 == 0 && !b.testBit 6 && decide (b % 64 < l.stages.length)) &&
  (List.range (gs.length / 8)).all fun i =>
    field gs (8 * i + 3) 5 == 0 && decide (field gs (8 * i + 1) 1 < 7) && decide (field gs (8 * i + 2) 1 < 4) &&
    (!(field gs (8 * i + 2) 1).testBit 1 || field gs (8 * i + 1) 1 == 0)

/-- A line of a code segment as halfwords. -/
def halves (bs : List Byte) : List (BitVec 16) := (List.range 32).map fun i => BitVec.ofNat 16 (field bs (2 * i) 2)

/-- EntryOff names a slot of a well-formed line of the code segment (R92). -/
def State.entryOk (s : State) (ctx img : Nat) (h : List Byte) : Bool :=
  let off := field h 24 4
  let slot := off / 2 % 32
  let hs := halves (s.image ctx (img + field h 96 4 + off / 64 * 64) 64)
  off % 2 == 0 && decide (off < field h 100 4) && lineOk hs && decide (1 ≤ slot) && decide (slot ≤ lineCount hs)

/-- CAPLO and CAPHI hold every feature that a header asks for (R91, R92). -/
def State.features (s : State) (h : List Byte) : Bool :=
  (word (field h 8 8) &&& ~~~s.capLo) == 0 && field h 16 8 == 0

/-- The owner core of a launch's address (R408). -/
def State.launchOwner (s : State) (ctx ea : Nat) : Option Nat :=
  match whereIs ea with
  | none | some (.pod _ _) => none
  | some (.slice t _) | some (.bstore t _) => some t
  | some (.global va) =>
    match s.walkFrom va 4 1 (s.ctxRoot ctx) with
    | .ok (l, _) => let pa := l.pa + va % 2 ^ l.bits; if pa < 2 ^ 40 then some (s.hbmLoc pa).owner else none
    | .error _ => none

/-- The placement of a launch (R401, R408); none when it is bad. -/
def State.launchPlace (s : State) (ctx span kind num ea : Nat) : Option Place :=
  let ok (b : Bool) : Option Place := if b then some { kind := kind, num := num } else none
  match kind with
  | 0 => ok true
  | 1 => ok (decide (num ≤ 2559) && inSpan span num)
  | 2 => ok (isTile num && tileX num % 2 == 0 && tileY num % 2 == 0 && inSpan span num)
  | 3 => ok (decide (num ≤ 7) && span.testBit num)
  | _ =>
    match s.launchOwner ctx ea with
    | some c => if inSpan span c then some { kind := 4, addr := word ea, owner := c } else none
    | none => none

/-- The launch that a packet and its header describe. -/
def State.launchOf (s : State) (p : Packet) (h : List Byte) (img : Nat) : Launch :=
  let tab (i : Nat) : List Byte :=
    let t := (tablesOf h).getD i (0, 0, 0)
    s.image p.ctx (img + t.1) (t.2.1 * t.2.2)
  let st := tab 0
  let ed := tab 1
  { active := true, ctx := p.ctx, prio := p.prio, queue := p.queue, device := p.device, intr := (field p.bytes 1 1).testBit 0
    serial := (field p.bytes 1 1).testBit 1, vector := field p.bytes 2 2, tag := field p.bytes 56 4, image := word img
    stages := if field h 32 8 = 0 then [1] else (List.range (st.length / 8)).map fun i => field st (8 * i) 1
    edges := (List.range (ed.length / 8)).map fun i =>
      (field ed (8 * i) 1, field ed (8 * i + 1) 1, field ed (8 * i + 2) 1, field ed (8 * i + 3) 1)
    classOrder := (List.range 4).map fun i => field h (76 + i) 1
    gaugeOff := field h 48 4, gaugeCnt := field h 52 4, span := field p.bytes 5 1, ringMask := field p.bytes 4 1
    partMode := 8 / 2 ^ field h 6 1, roles := [field h 72 1, field h 73 1, field h 74 1], final := word (field p.bytes 32 8)
    groups := (List.range ((tab 3).length / 8)).map fun i => field (tab 3) (8 * i) 1 }

/-- The checks of R401, R418 and R482 on a kind-1 packet: the status with which it fails, or the launch and its entry task. -/
def State.checkLaunch (s : State) (p : Packet) : Except LStat (Launch × Task) :=
  let bs := p.bytes
  let img := field bs 8 8
  let h := s.image p.ctx img 256
  if launchBad bs || !s.ctxValid p.ctx then .error .packet
  else if img % 64 ≠ 0 ∨ !s.readable p.ctx img 256 then .error .image
  else if (rangesOf h).any fun r => !s.readable p.ctx (img + r.1) r.2 then .error .image
  else if headerBad h then .error .header
  else if !s.features h then .error .feature
  else
    let l := s.launchOf p h img
    let tab (i : Nat) : List Byte :=
      let t := (tablesOf h).getD i (0, 0, 0)
      s.image p.ctx (img + t.1) (t.2.1 * t.2.2)
    let st := field bs 7 1
    let tm := word (field bs 24 8)
    if !s.entryOk p.ctx img h || !l.tablesOk (tab 0) (tab 1) || !l.entriesOk (tab 4) (tab 3) then .error .header
    else if l.stages.length ≤ st ∨ tm = noTime ∨ !fitsDepth tm (l.depth st) then .error .packet
    else
      let own := field bs 6 1 == 0xFF
      let kind := if own then field h 80 1 else field bs 6 1
      let num := if own then field h 82 2 else field bs 16 8
      let ea := if own then field h 88 8 else field bs 16 8
      match s.launchPlace p.ctx l.span kind num ea, (List.range 8).any fun z => l.span.testBit z && !s.joined z with
      | none, _ | _, true => .error .place
      | some pl, false => .ok (l, {
          ctx := p.ctx, entry := word (img + field h 96 4 + field h 24 4), args := argWords bs 40 2, stage := st, time := tm
          place := pl, origin := if p.device then some p.origin else none, first := true })

/-! ## Completion -/

/-- The 16 bytes of a completion record (R402). -/
def recordBytes (tag queue status num : Nat) : List Byte :=
  leBytes tag 4 ++ leBytes queue 2 ++ [BitVec.ofNat 8 status, 0] ++ leBytes num 2 ++ List.replicate 6 0

/-- A completion record is made; it waits for room in its ring. -/
def State.complete (s : State) (queue : Nat) (device : Bool) (tag num : Nat) (st : LStat) (intr : Bool) (vec : Nat) : State :=
  let c : Completion := { queue := queue, bytes := recordBytes tag (if device then 0xFFFF else queue) st.code num, intr := intr, vector := vec }
  { s with completions := s.completions ++ [c] }

/-- A completion record has left the bridge's host port (R416, R446): DoneTail rises, and then its interrupt is sent. -/
def State.recordLeft (s : State) (c : Completion) : State :=
  let s := { s with completions := s.completions.erase c }
  let s := s.cwSet (wqOff c.queue + 24) (word ((s.wqDoneTail c.queue + 1) % 2 ^ 32 + s.wqDoneHead c.queue * 2 ^ 32))
  if c.intr then s.sendMsix c.vector else s
/-- The bridge says that a queue's record has left it. -/
def State.recordAcked (s : State) (q : Nat) : State :=
  match s.completions.find? fun c => c.queue == q && c.sent with
  | some c => s.recordLeft c
  | none => s
/-- The completion ring of a queue is full (R402, R446). -/
def State.doneFull (s : State) (q : Nat) : Bool := (s.wqDoneTail q + 2 ^ 32 - s.wqDoneHead q) % 2 ^ 32 == s.wqDoneEntries q

/-- The oldest completion record of a queue is written when its ring has room and the write can leave by the host port (R402, R446,
R31), and then its interrupt is sent: the queue. A cube that is no bridge sends the write to the bridge, and its DoneTail and interrupt
wait until the bridge says that it has left (R446, R448). -/
def execCompletionRecordWrite (s : State) : Host.Outcome State Fault Refusal :=
  let q := s.arg 0
  match s.completions.find? fun c => c.queue == q with
  | none => .next s
  | some c =>
    if c.sent || s.doneFull q || !s.hostWrites then .next s else
    let at_ := s.wqDone q + 16 * (s.wqDoneTail q % s.wqDoneEntries q)
    if s.groupSlot = 0 then
      .next (({ s with outputs := .hostWrite (q % 4) at_ c.bytes :: s.outputs } : State).recordLeft c)
    else
      .next (({ s with completions := { c with sent := true } :: s.completions.erase c } : State).toPod s.bridge 0
        ([13, BitVec.ofNat 8 (q % 4)] ++ leBytes (q + 1) 4 ++ leBytes at_ 8 ++ c.bytes))

/-! ## Arbitration -/

/-- The source number of the device queue (R405). -/
def devSource : Nat := 65536
/-- AgeLimit, in screed cycles (R405). -/
def State.ageLimit (s : State) : Nat := 2 ^ bitsOf (s.cwGet 0xA8) 0 5
/-- The effective priority of a source (R405). -/
def State.effective (s : State) (prio since : Nat) : Nat := min 7 (prio + (s.screedNow - since) / 4 / s.ageLimit)

/-- The head packet of a host queue that may be considered now (R399, R401, R402). -/
def State.hostHead (s : State) (q : Nat) : Option (List Byte × Nat) :=
  let w := s.wq q
  if w.tail ≤ w.head || (s.waiting.any fun x => !x.pkt.device && x.pkt.queue == q) ||
    (s.completions.any fun c => c.queue == q) then none else
  let bs := s.bytesAt (s.hbmLoc (s.wqRing q + 64 * (w.head % s.wqEntries q))).key 64
  if (field bs 1 1).testBit 1 && w.prev.isSome then none else some (bs, w.since.headD 0)

/-- The device queue's head at a priority. -/
def State.devHead (s : State) (prio : Nat) : Option Packet :=
  if s.waiting.any fun x => x.pkt.device && x.pkt.prio == prio then none else s.devQ.find? fun p => p.prio == prio

/-- What a source offers: its number, effective priority and packet. -/
def State.offers (s : State) : List (Nat × Nat × Packet) :=
  (s.workQ.filterMap fun p => (s.hostHead p.1).map fun h =>
    (p.1, s.effective (s.wqPrio p.1) h.2, {
      bytes := h.1, device := false, queue := p.1, ctx := s.wqCtx p.1, prio := s.wqPrio p.1, parent := 0, origin := 0
      since := h.2, owner := 0 })) ++
  (List.range 8).filterMap fun n => (s.devHead n).map fun p => (devSource, s.effective n p.since, p)

/-- The best offer: the highest effective priority, then the next source in turn (R405). -/
def State.bestOffer (s : State) : Option (Nat × Nat × Packet) :=
  let turn (n : Nat) : Nat := (n + 65537 - s.rrNext) % 65537
  s.offers.foldl (fun best (o : Nat × Nat × Packet) => match best with
    | none => some o
    | some b => if b.2.1 < o.2.1 ∨ (b.2.1 = o.2.1 ∧ turn o.1 < turn b.1) then some o else some b) none

/-- A packet leaves its source. -/
def State.takePacket (s : State) (p : Packet) : State :=
  if p.device then { s with devQ := s.devQ.erase p }
  else s.modWq p.queue fun w => { w with head := w.head + 1, since := w.since.drop 1 }

/-- A kind-2 packet becomes a task of its parent's launch (R404). -/
def State.childTask (s : State) (p : Packet) : State :=
  let bs := p.bytes
  if (s.launch p.parent).aborted || !(s.launch p.parent).active then s
  else if !s.ctxValid p.ctx then
    (s.roomFor p.origin p.parent (field bs 7 1) (word (field bs 24 8))).count p.origin p.parent (field bs 7 1) (word (field bs 24 8)) (-1)
  else
  let pk := field bs 6 1
  let t : Task := {
    ctx := p.ctx, launch := p.parent, entry := word (field bs 8 8), args := argWords bs 40 2, stage := field bs 7 1
    time := word (field bs 24 8), place := { kind := pk, num := field bs 16 8, addr := word (field bs 16 8), owner := p.owner }
    origin := some p.origin }
  { s with spawned := s.spawned ++ [t] }

/-- A packet whose turn has come (R401): a child task, a failing record, or a launch that waits for its number. -/
def State.startPacket (s : State) (p : Packet) (eff : Nat) : State :=
  if p.device && field p.bytes 0 1 == 2 then s.childTask p else
  match s.checkLaunch p with
  | .error st =>
    let v := field p.bytes 2 2
    let s := if p.device then s else s.modWq p.queue fun q => { q with prev := none }
    s.complete p.queue p.device (field p.bytes 56 4) 0xFFFF st ((field p.bytes 1 1).testBit 0 && decide (v < 2048)) v
  | .ok (l, t) => { s with waiting := s.waiting ++ [⟨p, { l with eff := eff, first := (t.stage, t.time) }, t⟩] }

/-- The time table that takes the decrement of a child whose context is gone has room for it, if need be after its flush (R344). -/
def State.childRoom (s : State) (p : Packet) : Bool :=
  let st := field p.bytes 7 1
  let tm := word (field p.bytes 24 8)
  !(p.device && field p.bytes 0 1 == 2) || s.ctxValid p.ctx || (s.roomFor p.origin p.parent st tm).countRoom p.origin p.parent st tm

/-- The launch scheduler takes one packet (R405). -/
def execLaunchArbitration (s : State) : Host.Outcome State Fault Refusal :=
  match s.bestOffer with
  | none => .next s
  | some (n, eff, p) =>
    .next (if s.childRoom p then { s.takePacket p with rrNext := (n + 1) % 65537 }.startPacket p eff else s)

/-! ## The start of a launch -/

/-- The rings that a launch needs (R498). -/
def Launch.ringsOf (l : Launch) : List Nat :=
  let zs := (List.range 8).filter fun z => l.span.testBit z
  (if l.ringMask.testBit 0 then zs.flatMap fun z => (List.range 16).map fun y => z * 16 + y else []) ++
  (if l.ringMask.testBit 1 then zs.flatMap fun z => (List.range 16).map fun x => 4096 + z * 16 + x else []) ++
  if l.ringMask.testBit 2 then (List.range 256).map fun i => 8192 + i else []

/-- The basic entry of a tile for a group (R389). -/
def basicEntry (op flags ctx ver t : Nat) : GroupEntry :=
  let x := tileX t
  let y := tileY t
  { parent := if 0 < y then 3 else if 0 < x then 1 else 6
    children := 64 + (if y < 15 then 4 else 0) + (if y = 0 ∧ x < 15 then 1 else 0) + if y = 0 ∧ x = 0 then 128 else 0
    op := op, sat := flags.testBit 0, mark := flags.testBit 1, ctx := ctx, version := ver }

/-- A group loses its entries, its rounds and its states. -/
def State.dropGroup (s : State) (grp : Nat) : State :=
  { s with
    groups := s.groups.filter fun (p : Nat × GroupEntry) => p.1 % 256 != grp
    collIn := s.collIn.filter fun (p : Nat × CollVal) => p.1 / 8 % 256 != grp
    collSt := s.collSt.filter fun (p : Nat × CollState) => p.1 / 64 % 256 != grp
    podIn := s.podIn.filter fun (p : Nat × CollVal) => p.1 / 4096 != grp
    groupLaunch := FMap.del grp s.groupLaunch
    net := s.net.filter fun (m : Nat × Msg) => match m.2 with
      | .coll _ _ g _ _ => g != grp
      | .collRes _ g _ _ => g != grp
      | .nack _ _ g _ => g != grp
      | _ => true }

/-- The runtime writes a group's basic trees (R389, R394). -/
def State.basicTree (s : State) (grp op flags ctx : Nat) : State :=
  let ver := s.topVersion
  let s := (List.range 2048).foldl (fun s t =>
    { s with groups := s.groups.set (256 * t + grp) (basicEntry op flags ctx ver t) }) s
  { s with groups := s.groups.set (256 * screedNode + grp) {
      parent := 7, op := op, sat := flags.testBit 0, mark := flags.testBit 1, layers := 0xFF, ctx := ctx, version := ver } }

/-- The group table of a launch: id, operator and flags (R389). -/
def State.groupTable (s : State) (l : Launch) : List (Nat × Nat × Nat) :=
  let h := s.image l.ctx l.image.toNat 256
  let bs := s.image l.ctx (l.image.toNat + field h 56 4) (8 * field h 60 4)
  (List.range (bs.length / 8)).map fun i => (field bs (8 * i) 1, field bs (8 * i + 1) 1, field bs (8 * i + 2) 1)

/-- The groups of a launch are given to it. -/
def State.giveGroups (s : State) (n : Nat) (l : Launch) : State :=
  (s.groupTable l).foldl (fun s g =>
    let s := s.dropGroup g.1
    ({ s with groupLaunch := s.groupLaunch.set g.1 n }).basicTree g.1 g.2.1 g.2.2 l.ctx) s

/-- The match entries of a kernel in a core (R364, R496). DESIGN CHOICE (log entry 129): entry i takes index i, in an image table beyond
the 64 entries of R89 too, whose outcome the spec does not state. -/
def State.loadMatches (s : State) (n : Nat) (l : Launch) (c : Nat) (bs : List Byte) : State :=
  (List.range (bs.length / 16)).foldl (fun s i =>
    let b (at_ k : Nat) : Nat := field bs (16 * i + at_) k
    let m : MatchEntry := {
      valid := true, pole := b 8 3, perch := b 11 3, entry := l.image + word (b 0 8), stage := b 14 1 % 64, rings := 7
      ctx := l.ctx, launch := n }
    s.modCore c fun k => { k with matches_ := k.matches_.set i m }) s

/-- The rings of a launch are enabled, with a miss area where the runtime names one (ring, slots, base), and its match
entries loaded into their cores (R364, R498). -/
def State.giveRings (s : State) (n : Nat) (l : Launch) (areas : List (Nat × Nat × Nat)) : State :=
  let s := l.ringsOf.foldl (fun s r =>
    match areas.find? fun (a : Nat × Nat × Nat) => a.1 == r with
    | some a => s.enableRing r l.ctx n a.2.1 (word a.2.2)
    | none => s.enableRing r l.ctx n 0 0) s
  let h := s.image l.ctx l.image.toNat 256
  let bs := s.image l.ctx (l.image.toNat + field h 64 4) (16 * field h 68 4)
  if bs = [] then s else
  ((l.ringsOf.flatMap fun r => (List.range (ringLen r)).map (ringTile r)).dedup).foldl (fun s c => s.loadMatches n l c bs) s

/-- Triples of a list. -/
def triples : List Nat → List (Nat × Nat × Nat)
  | a :: b :: c :: r => (a, b, c) :: triples r
  | _ => []

/-- The numbers that no launch holds (R401). -/
def State.freeNumbers (s : State) : List Nat := (List.range 4096).filter fun n => !(s.launch n).active

/-- A waiting launch can start (R401): its rings are free of other launches, and the screed's table has room for its count. -/
def State.canStart (s : State) (w : Waiting) : Bool :=
  (w.l.ringsOf.all fun r => !(s.ring r).enabled) && s.countRoom 2048 0 64 0

/-- A waiting launch takes a free number, gets its groups and rings, and starts its entry task (R401, R498): its place among
those that wait, then the miss areas that the runtime gives its rings. -/
def execLaunchNumberTaken (s : State) : Host.Outcome State Fault Refusal :=
  match s.waiting[s.arg 0]?, s.freeNumbers with
  | some w, f :: fs =>
    if !s.canStart w then .next s else
    let (c, s) := s.nextFree
    let n := (f :: fs).getD (Config.choice c % (fs.length + 1)) f
    let s := { s with
      waiting := s.waiting.eraseIdx (s.arg 0), launches := s.launches.set n w.l
      cores := s.cores.map fun (p : Nat × Core) => (p.1, { p.2 with views := p.2.views.filter fun (v : Nat × Word) => v.1 / 64 != n }) }
    let s := if w.l.device then s else s.modWq w.l.queue fun q => { q with prev := some n }
    let s := (s.giveGroups n w.l).giveRings n w.l (triples (s.args.drop 1))
    let s := s.count 2048 n w.entry.stage w.entry.time 1
    .next { s with spawned := s.spawned ++ [{ w.entry with launch := n }] }
  | _, _ => .next s

/-! ## The end of a launch -/

/-- Change a launch. -/
def State.modLaunch (s : State) (n : Nat) (f : Launch → Launch) : State :=
  { s with launches := s.launches.set n (f (s.launch n)) }

/-- A table holds an entry of a launch that reaches some stage at a time not beyond FinalTime (R415). -/
def State.early (s : State) (n : Nat) (table : List Delta) : Bool :=
  let l := s.launch n
  table.any fun d => d.launch == n && (l.final == noTime || (List.range l.stages.length).any fun st =>
    match l.reach d.stage d.time st with
    | some r => r.ule l.final
    | none => false)

/-- Every batch that a table has begun has been accepted (R415). -/
def State.accepted? (s : State) (src : Nat) : Bool := s.net.all fun m => match m.2 with
  | .batch src' _ _ => src' != src
  | _ => true

/-- What a quad would report to its die, and a die to the package (R415): a report stands as long as its condition. -/
def State.quadReports (s : State) (n q : Nat) : Bool := !s.early n (s.quad q).times && s.accepted? (16 + q)
/-- A die reports once its own table and its quads let it; 8 is the screed's. -/
def State.dieReports (s : State) (n z : Nat) : Bool :=
  !s.early n (FMap.get [] s.dieTimes z) && s.accepted? z && s.quads.all fun p => p.1 / 64 != z || s.quadReports n p.1

/-- The completion tree finds the end of a launch (R415): every die has reported, and the package table agrees. -/
def State.passed (s : State) (n : Nat) : Bool :=
  (List.range 9).all (s.dieReports n) && !s.early n s.pkgTimes

/-- A launch ends with a status: its record, and its queue goes on (R399, R416). -/
def State.endLaunch (s : State) (n : Nat) (st : LStat) : State :=
  let l := s.launch n
  let s := s.modLaunch n fun l => { l with ended := true, recorded := true }
  let s := if l.device then s else s.modWq l.queue fun q => { q with prev := if q.prev = some n then none else q.prev }
  s.complete l.queue l.device l.tag n st l.intr l.vector

/-- A launch ends (R415, R416): its number. -/
def execLaunchEnd (s : State) : Host.Outcome State Fault Refusal :=
  let n := s.arg 0
  let l := s.launch n
  .next (if l.active && !l.ended && !l.aborted && s.passed n then s.endLaunch n .done else s)

/-- A launch retires once no pointstamp of it remains (R417): its number. -/
def execLaunchRetire (s : State) : Host.Outcome State Fault Refusal :=
  let n := s.arg 0
  let l := s.launch n
  if !l.active || !l.ended || !(s.stamps n).isEmpty then .next s else
  let s := { s with cores := s.cores.map fun (p : Nat × Core) =>
    (p.1, { p.2 with pins := p.2.pins.filter fun (q : Nat × Nat × Nat) => q.2.1 != n }) }
  let mine := (s.rings.filter fun (p : Nat × Ring) => p.2.enabled && p.2.launch == n).map Prod.fst
  let s := mine.foldl (fun s r => s.disableRing r) s
  let s := (s.groupLaunch.filter fun (p : Nat × Nat) => p.2 == n).foldl (fun s p => s.dropGroup p.1) s
  .next (s.modLaunch n fun _ => {})

/-! ## Abort -/

/-- The fault record of a parked thread (R427, R434); 0 for none. -/
def Thread.parkRecord (t : Thread) : Word :=
  match t.st with
  | .parked (.suspended f) _ | .parked (.replay f) _ => f
  | _ => 0

/-- The records of a task that goes return to their lists (R419): its save record, that of the fault it waits for, which also leaves
its queue, and that of the notice it serves. -/
def State.freeRecords (s : State) (ctx : Nat) (save fault own : Word) : State :=
  let give (s : State) (head : Nat) (e : Word) : State := if e = 0 then s else s.giveFree ctx head e.toNat
  let s := give (give (give s 0 save) 8 fault) 8 own
  if fault = 0 then s else { s with faultQ := s.faultQ.map fun (p : Nat × List Word) => (p.1, p.2.filter (· != fault)) }

/-- What a thread of an aborted launch holds is given up (R417): its reservation, its buffer and matrix operations, its home record, its
bindings and reserved push slots (R320, R324), and its records. -/
def State.dropTraces (s : State) (c i : Nat) (t : Thread) (save : Word) : State :=
  let h := t.ctl.taskh
  let s := s.unreserve h.toNat
  let s := s.modCore c fun k => { k with
    spec := k.spec.filter (fun e => e.task != h.toNat), mq := k.mq.filter fun o => !(o.slot == i && o.taskh == h) }
  let s := s.modCore (h.extractLsb' 52 12).toNat fun k => { k with homes := k.homes.filter fun r => r.taskh != h }
  let s := (s.unbind c t.ctl.qmap).dropResv c h.toNat
  s.freeRecords t.ctx save t.parkRecord (if t.serves.isSome then 0 else t.ctl.faultrec)

/-- A thread of an aborted launch is at a boundary (R417): its accesses have been performed, and it is not within an instruction that
waits for an answer or that replays. An access that has parked has no effect. -/
def Thread.atBoundary (t : Thread) : Bool :=
  t.pend.isEmpty && t.homeAns.isNone && t.podAns.isNone && (t.mid.isNone || match t.st with
    | .parked _ _ => true
    | .empty | .running | .stalled => false)
/-- A thread of an aborted launch leaves its slot at a boundary (R417). -/
def State.dropThread (s : State) (c i : Nat) : State :=
  let t := s.thrAt c i
  ((s.unissue c t).setThrAt c i {}).dropTraces c i t 0

/-- Pool entries of a launch that is aborted leave what they hold. -/
def State.dropPool (s : State) (n c : Nat) (es : List PoolEntry) : State :=
  es.foldl (fun s e => match e with
    | .back i r t _ => if t.launch = n then s.dropTraces c i t r else s
    | .new t => if t.launch = n ∧ t.serves.isNone then s.freeRecords t.ctx 0 0 t.faultrec else s) s

/-- The tasks of a launch that hold no slot. -/
def State.dropWaiting (s : State) (n : Nat) : State :=
  let keep (t : Task) : Bool := t.launch != n
  let gone := s.away.filter fun a => a.thr.launch == n
  let waits := s.spawned ++ s.dispatch.flatMap Prod.snd
  let walkers := (s.net.filterMap fun (m : Nat × Msg) => match m.2 with
    | .walk w => some (w.target, w.thr)
    | _ => none) ++ s.cores.flatMap fun (p : Nat × Core) => p.2.arrival.map fun w => (p.1, w.thr)
  let pools := s.cores.map fun (p : Nat × Core) => (p.1, p.2.pool)
  let s := { s with
    spawned := s.spawned.filter keep
    dispatch := s.dispatch.map fun (p : Nat × List Task) => (p.1, p.2.filter keep)
    away := s.away.filter fun a => a.thr.launch != n
    devQ := s.devQ.filter fun p => !(field p.bytes 0 1 == 2 && p.parent == n)
    ovf := s.ovf.filter fun p => !(field p.bytes 0 1 == 2 && p.parent == n)
    net := s.net.filter fun (m : Nat × Msg) => match m.2 with
      | .walk w => w.thr.launch != n
      | .task t => keep t
      | _ => true
    deliveries := s.deliveries.map fun (p : Nat × List Delivery) => (p.1, p.2.filter fun d => d.pole.launch != n)
    cores := s.cores.map fun (p : Nat × Core) => (p.1, { p.2 with
      arrival := p.2.arrival.filter fun w => w.thr.launch != n
      pool := p.2.pool.filter fun e => match e with
        | .new t => keep t
        | .back _ _ t _ => t.launch != n }) }
  let s := gone.foldl (fun s a => s.dropTraces a.core a.slot a.thr a.frec) s
  let s := (walkers.filter fun (w : Nat × Thread) => w.2.launch == n).foldl (fun s w => s.dropTraces w.1 8 w.2 0) s
  let s := (waits.filter fun (t : Task) => t.launch == n && t.serves.isNone).foldl (fun s t => s.freeRecords t.ctx 0 0 t.faultrec) s
  pools.foldl (fun s p => s.dropPool n p.1 p.2) s

/-- The slots that threads of a launch still hold. -/
def State.holders (s : State) (n : Nat) : List (Nat × Nat) :=
  s.cores.flatMap fun p => (p.2.slots.filter fun q => q.2.st != .empty && q.2.launch == n).map fun q => (p.1, q.1)

/-- Every count of a launch is cancelled, with its ring tiles (R417). -/
def State.cancelCounts (s : State) (n : Nat) : State :=
  let keep (ds : List Delta) : List Delta := ds.filter fun d => d.launch != n
  let s := s.rings.foldl (fun s p => if p.2.enabled && p.2.launch == n then
    s.modRing p.1 fun g => { g with poles := [], perches := [], bufPole := [], bufPerch := [], lost := [] } else s) s
  { s with
    quads := s.quads.map fun (p : Nat × Quad) => (p.1, { p.2 with times := keep p.2.times })
    dieTimes := s.dieTimes.map fun (p : Nat × List Delta) => (p.1, keep p.2)
    pkgTimes := keep s.pkgTimes
    net := s.net.map fun (m : Nat × Msg) => match m.2 with
      | .batch a b ds => (m.1, .batch a b (keep ds))
      | x => (m.1, x) }

/-- The runtime aborts a launch (R417): its number. With a second argument of 1 a table entry of the launch has an error that
cannot be corrected, which is counted and reported (R468, R469, R493); with 2 one was corrected, which is counted and ends nothing.
Its tasks go, each at its boundary and once its accesses have been performed;
the step is made again until none is left, and then the record is ABORTED. -/
def execLaunchAbort (s : State) : Host.Outcome State Fault Refusal :=
  let n := s.arg 0
  if s.arg 1 = 2 then .next (s.corrected 0x1A800 0) else
  let s := if s.arg 1 = 1 then (s.uncorrected 0x1A800).tell 3 n 0 else s
  if !(s.launch n).active || ((s.launch n).ended && (s.stamps n).isEmpty) then .next s else
  let s := (s.modLaunch n fun l => { l with aborted := true }).dropWaiting n
  let s := (s.holders n).foldl (fun s p => if (s.thrAt p.1 p.2).atBoundary then s.dropThread p.1 p.2 else s) s
  if !(s.holders n).isEmpty then .next s else
  let s := s.cancelCounts n
  .next (if (s.launch n).recorded then s.modLaunch n fun l => { l with ended := true } else s.endLaunch n .aborted)

end Sys2Proof.Machine
end

