-- ==== Sys2Proof/Machine/Service.lean ====
section
/-!
DEFINITION. The host bridge and the control window (spec/20, R442 to R449, R455, R456, R460; R420, R469 to R492): configuration
space, the memory window, and every register by its offset.
-/

namespace Sys2Proof.Machine

/-! ## Answers to the host -/

/-- A request of the host completes: 0 successful, 1 Unsupported Request, 4 Completer Abort. The bridge logs an error (R443). -/
def State.hostAnswer (s : State) (tag status : Nat) (data : List Byte) : State :=
  (match status with
  | 1 => s.pciError 20 false
  | 4 => s.pciError 15 false
  | _ => s).toHost (.completion tag status data)
/-- The answer to a request of the host. A tag of 2^32 or more names the cube that forwarded the request, plus 1, above its tag (R447). -/
def State.answer (s : State) (tag status : Nat) (data : List Byte) : State :=
  if tag < 2 ^ 32 then s.hostAnswer tag status data
  else s.toPod (tag / 2 ^ 32 - 1) 1 ([10] ++ leBytes tag 4 ++ [BitVec.ofNat 8 status] ++ data)

/-- A read of another slot of the group goes to its cube (R447); of a slot that holds no cube it is an Unsupported Request (R444). -/
def State.forwardRead (s : State) (cube : Option Nat) (code tag : Nat) (ops : List Nat) : State :=
  match cube with
  | some c => s.toPod c 0 ([9, BitVec.ofNat 8 code] ++ ops.flatMap fun n => leBytes n 8)
  | none => s.answer tag 1 []

/-! ## Configuration space -/

/-- The fixed bits of a doubleword of configuration space (R443). -/
def cfgFixed (off : Nat) : Nat :=
  match off with
  | 0x00 => 0x0ED87A5C
  | 0x04 => 0x00100000
  | 0x08 => 0x12000000
  | 0x10 => 4
  | 0x18 => 4
  | 0x20 => 12
  | 0x2C => 0x00087A5C
  | 0x34 => 0x40
  | 0x40 => 0x00035001
  | 0x50 => 0x07FF7011
  | 0x54 => 0x00030000
  | 0x58 => 0x00038000
  | 0x70 => 0x00020010
  | 0x44 => 8
  | 0x74 => 0x8002
  | 0x100 => 0x00020001
  | _ => 0
/-- The bits of a doubleword that a write sets. -/
def cfgMask (off : Nat) : Nat :=
  match off with
  | 0x04 => 0x0546
  | 0x0C => 0xFF
  | 0x10 => 0xFC000000
  | 0x14 => 0xFFFFFFFF
  | 0x18 => 0xFC000000
  | 0x1C => 0xFFFFFFFF
  | 0x24 => 0xFFFFFFF0
  | 0x3C => 0xFF
  | 0x44 => 3
  | 0x50 => 0xC0000000
  | 0x78 => 0x70EF
  | 0x108 => 0x07FFF030
  | 0x10C => 0x07FFF030
  | 0x114 => 0xF1C1
  | _ => 0
/-- The bits of a doubleword that report an error, which a write of 1 clears. PRESUMED of PCI Express (log entry 110). -/
def cfgClear (off : Nat) : Nat :=
  match off with
  | 0x04 => 0xF9000000
  | 0x78 => 0x000F0000
  | 0x104 => 0x07FFF030
  | 0x110 => 0xF1C1
  | _ => 0
/-- What the bits that a write sets hold at reset. PRESUMED of PCI Express (log entry 15): a read request of 512 bytes, and the masks and
severities of its error reporting. -/
def cfgReset (off : Nat) : Nat :=
  match off with
  | 0x78 => 0x2000
  | 0x108 => 0x04400000
  | 0x10C => 0x00462030
  | 0x114 => 0xE000
  | _ => 0
/-- A doubleword of configuration space as it reads. -/
def State.cfgRead (s : State) (off : Nat) : Nat :=
  (FMap.get (word (cfgReset off)) s.pci off).toNat % 2 ^ 32 &&& (cfgMask off ||| cfgClear off) ||| cfgFixed off
/-- The bits that byte enables select. -/
def byteMask (be n : Nat) : Nat := (List.range n).foldl (fun m i => if be.testBit i then m + 255 * 256 ^ i else m) 0

/-- Vectors that were held and no longer are go out. -/
def State.flushMsix (s : State) : State :=
  (List.range 32).foldl (fun s w =>
    let p := s.cwGet (0x38000 + 8 * w)
    if p = 0 then s else
    (List.range 64).foldl (fun s b =>
      let v := 64 * w + b
      if p.getLsbD b && !s.msixHeld v then
        (s.cwSet (0x38000 + 8 * w) (s.cwGet (0x38000 + 8 * w) &&& ~~~(1#64 <<< b))).toHost (.msix v)
      else s) s) s

/-- Configuration space is read or written by service core 0 (R443): tag, 0 for a read and 1 for a write, offset, byte enables, value. A
power state other than D0 and D3hot leaves the field unchanged. Any other kind of request (I/O, an atomic, a read through BAR2) is one
that the endpoint does not support. -/
def execHostConfigAccess (s : State) : Host.Outcome State Fault Refusal :=
  let off := s.arg 2
  if s.hostWaits .hostConfigAccess then .next (s.holdHost .hostConfigAccess) else
  if 2 ≤ s.arg 1 ∨ off % 4 ≠ 0 ∨ 4096 ≤ off then .next (s.answer (s.arg 0) 1 []) else
  if s.arg 1 = 0 then .next (s.answer (s.arg 0) 0 (leBytes (s.cfgRead off) 4)) else
  let m := byteMask (s.arg 3) 4
  let old := s.cfgRead off
  let v := (old &&& (0xFFFFFFFF ^^^ m) &&& cfgMask off) ||| (s.arg 4 &&& m &&& cfgMask off) |||
    (old &&& cfgClear off &&& (0xFFFFFFFF ^^^ (s.arg 4 &&& m)))
  let s := if off = 0x44 ∧ (v % 4 = 1 ∨ v % 4 = 2) then s else { s with pci := s.pci.set off (word v) }
  .next ((s.answer (s.arg 0) 0 []).flushHost.flushMsix)

/-! ## Ports, geometry and topology -/

/-- A port. -/
def State.port (s : State) (p : Nat) : Port := FMap.get {} s.ports p
/-- Change a port. -/
def State.modPort (s : State) (p : Nat) (f : Port → Port) : State := { s with ports := s.ports.set p (f (s.port p)) }
/-- Mode of a port (R442). -/
def State.portMode (s : State) (p : Nat) : Nat := bitsOf (s.cwGet (8 * p)) 4 2
/-- The port is trained and carries traffic. -/
def State.inService (s : State) (p : Nat) : Bool := (s.cwGet (8 * p)).getLsbD 3

/-- A port leaves service (R442), and the checkpoint stream with it (R483). -/
def State.portDown (s : State) (p : Nat) : State :=
  { s.modPort p fun q => { q with full := true, retrain := none, waiting := [] } with
    ckpt := { s.ckpt with dropped := if s.ckpt.dropped.contains p then s.ckpt.dropped else p :: s.ckpt.dropped } }

/-- A write of Mode (R442): another port in host mode keeps the field; a change takes the port out of service to retrain. -/
def State.writeMode (s : State) (p m : Nat) : State :=
  if m = s.portMode p ∨ (m = 3 ∧ (List.range 12).any fun q => q != p && s.portMode q == 3) then s else
  (s.cwSet (8 * p) (word (16 * m + 4))).portDown p
/-- A write of the control window takes effect: before the screed has booted only the mailboxes are served (R491). -/
def State.whenServed (s : State) (f : State → State) : Host.Outcome State Fault Refusal := .next (if s.bring.screed then f s else s)
/-- `PORTCFG_MODE_WRITE` (R442): the port and the mode. -/
def execPortcfgModeWrite (s : State) : Host.Outcome State Fault Refusal := s.whenServed fun s => s.writeMode (s.arg 0 % 12) (s.arg 1 % 4)

/-- The wavelengths of a port that can carry traffic (R442, R476). -/
def State.goodLanes (s : State) (p : Nat) : Nat :=
  (List.range 8).foldl (fun m w => if (s.port p).dead.contains w then m else m + 2 ^ w) 0

/-- A full retrain of a port (R31): the port, then 0 to ask for one and 1 as it completes. It takes over a background retrain; a
port that is off stays out of service. -/
def execPortFullRetrain (s : State) : Host.Outcome State Fault Refusal :=
  let p := s.arg 0 % 12
  let w := s.cwGet (8 * p)
  if s.arg 1 = 0 then
    .next ((s.cwSet (8 * p) ((w &&& 0x30) ||| 4)).portDown p)
  else if !(s.port p).full then .next s
  else
    let v := if bitsOf w 4 2 = 0 then 0 else bitsOf w 4 2 * 16 + 8 + s.goodLanes p * 256
    .next ((s.cwSet (8 * p) (word v)).modPort p fun q => { q with full := false, fails := [] }).flushHost

/-- A write of Next (R455). -/
def State.writeNext (s : State) (v : Nat) : State :=
  let w := s.cwGet 0x88
  if w.getLsbD 32 then s else s.cwSet 0x88 (word (bitsOf w 0 16 + v % 2 ^ 16 * 2 ^ 16 + 2 ^ 32))
/-- `TOPOVER_NEXT_WRITE` (R455). -/
def execTopoverNextWrite (s : State) : Host.Outcome State Fault Refusal := s.whenServed fun s => s.writeNext (s.arg 0)

/-- Offsets of the tables that a swap makes active: tile maps, patch table, pod routes (R455, R474, R477). -/
def swapped (off : Nat) : Bool :=
  (decide (0x2000 ≤ off) && decide (off < 0x2400)) || (decide (0xE2000 ≤ off) && decide (off < 0xE2080)) ||
  (decide (0xE4000 ≤ off) && decide (off < 0xE5000))
/-- An active table's word. -/
def State.topoGet (s : State) (off : Nat) : Word := FMap.get (cwReset off) s.topo off
/-- The physical column of a tile by a row's map (R477). -/
def columnOf (tmap : Word) (x : Nat) : Nat := if x < bitsOf tmap 0 5 then x else x + 1
/-- The tiles that a swap moves lose their match entries (R363, R478). -/
def State.moveTiles (s : State) (old : FMap Word) : State :=
  (List.range 2048).foldl (fun s t =>
    let off := 0x2000 + 8 * (t / 16)
    if columnOf (s.topoGet off) (tileX t) = columnOf (FMap.get (cwReset off) old off) (tileX t) then s
    else s.modCore t fun k => { k with matches_ := k.matches_.map fun p => (p.1, { p.2 with valid := false }) }) s

/-- The basic trees of active launches are written again under the new version (R389, R394). -/
def State.renewTrees (s : State) : State :=
  s.groupLaunch.foldl (fun s p =>
    if (s.launch p.2).treed.contains p.1 then s else
    match FMap.find (256 * screedNode + p.1) s.groups with
    | none => s
    | some e => s.basicTree p.1 e.op ((if e.sat then 1 else 0) + if e.mark then 2 else 0) e.ctx) s

/-- The swap (R455): at a multiple of 1,024 screed cycles, once every router has confirmed. What is on its way goes on from where it
stands (R495). -/
def execTopologySwap (s : State) : Host.Outcome State Fault Refusal :=
  let w := s.cwGet 0x88
  if !w.getLsbD 32 then .next s else
  let old := s.topo
  let s := s.placeMsgs
  let s := s.cwSet 0x88 (word (bitsOf w 16 16 + bitsOf w 16 16 * 2 ^ 16))
  let s := { s with topo := s.cw.filter fun (p : Nat × Word) => swapped p.1 }
  .next ((s.moveTiles old).renewTrees)

/-- `PODTIME_WRITE` (R460). -/
def execPodtimeWrite (s : State) : Host.Outcome State Fault Refusal := s.whenServed fun s => { s with pod8 := 8 * (s.arg 0 % 2 ^ 64) }

/-! ## Counts that a write clears -/

/-- `BAR4_COUNT_CLEAR` (R445): 0 the aborts, 1 the discards. -/
def execBar4CountClear (s : State) : Host.Outcome State Fault Refusal := s.whenServed fun s => s.cwSet (0x300 + 8 * (s.arg 0 % 2)) 0
/-- `STALECNT_CLEAR` (R456): the tile, or 4,095 for the screed unit, and the bits written. -/
def execStalecntClear (s : State) : Host.Outcome State Fault Refusal :=
  let node := if s.arg 0 = screedNode then screedNode else s.arg 0 % 2048
  s.whenServed fun s => s.cwSet (staleOff node) (s.cwGet (staleOff node) &&& ~~~word (s.arg 1))
/-- `THERMSTAT_TRIP_CLEAR` (R485). -/
def execThermstatTripClear (s : State) : Host.Outcome State Fault Refusal :=
  s.whenServed fun s => s.cwSet 0x1110 (s.cwGet 0x1110 &&& ~~~(1#64 <<< 24))

/-! ## Grants -/

/-- A granule is filled with zero (R420): a write of every byte. -/
def State.zeroGranule (s : State) (tile gran : Nat) : State :=
  let key := granKey tile gran
  let inside (k : Nat) : Bool := decide (key ≤ k) && decide (k < key + 2 ^ 16)
  let s := { s with
    mem := s.mem.filter fun (c : Host.Cell) => !inside c.1
    poison := s.poison.filter fun b => !inside b
    resv := s.resv.map fun (p : Nat × List (Nat × Nat)) => (p.1, p.2.filter fun x => !inside (8 * x.1)) }
  ((s.cores.flatMap fun p => (p.2.spec.filter fun e => e.read && inside (64 * e.line)).map fun e => e.line).dedup).foldl
    (fun s l => s.abortReaders l none) s
/-- A byte of the grant table is written (R420): a new grantee without an image of the granule finds it zero. -/
def State.grant (s : State) (tile gran b : Nat) : State :=
  let new := if 128 ≤ b then some (b % 64) else none
  let s := match new with
    | some c => if s.grantee tile gran = some c || (FMap.find (imageKey c tile gran) s.images).isSome then s else s.zeroGranule tile gran
    | none => s
  s.cwSetByte (0x60000 + 256 * tile + gran) (if 128 ≤ b then 128 + b % 64 else b % 64)
/-- `GRANT_TABLE_WRITE` (R420): tile, granule, byte. -/
def execGrantTableWrite (s : State) : Host.Outcome State Fault Refusal :=
  s.whenServed fun s => if s.arg 1 < 192 then s.grant (s.arg 0 % 2048) (s.arg 1) (s.arg 2 % 256) else s

/-! ## Requests of the runtime -/

/-- A request for a swap of two region locations (R488): ignored while one runs. -/
def State.swapGo (s : State) : State :=
  let w := s.cwGet 0x1300
  if w.getLsbD 63 then s else
  { s.cwSet 0x1300 (putBits w 63 1 1) with swap := some (bitsOf w 20 9, bitsOf w 29 10, bitsOf w 1 9, bitsOf w 10 10) }
/-- `REMAPREQ_GO` (R488). -/
def execRemapreqGo (s : State) : Host.Outcome State Fault Refusal := s.whenServed State.swapGo

/-- Bytes of a nonce are written, whole words of four (R492): a report that is not yet ready will be of the new nonce, once all of it
has been written. -/
def State.writeNonce (s : State) (at_ : Nat) (bs : List Byte) : State :=
  let n := (List.range 32).map fun i => if at_ ≤ i ∧ i < at_ + bs.length then bs.getD (i - at_) 0 else s.nonce.getD i 0
  let new := (2 ^ (bs.length / 4) - 1) * 2 ^ (at_ / 4) % 256
  { s.cwSet 0x40020 0 with nonce := n, nonceMask := if s.nonceMask = 255 then new else s.nonceMask ||| new }
/-- `ATTEST_NONCE_WRITE` (R492): its 32 bytes. -/
def execAttestNonceWrite (s : State) : Host.Outcome State Fault Refusal :=
  .next (s.writeNonce 0 ((List.range 32).map fun i => BitVec.ofNat 8 (s.arg i)))

/-! ## The control window -/

/-- A range of offsets. -/
def within (a lo len : Nat) : Bool := decide (lo ≤ a) && decide (a < lo + len)

/-- The bits of a word that a runtime write sets without a condition (R442 to R446, R469, R476, R477, R483, R485). -/
def plainMask (a : Nat) : Nat :=
  if a = 0x90 ∨ a = 0x98 then 0xFFFFFFFFFFFFF000
  else if a = 0xA0 then 0x7FF
  else if within a 0x100 0x200 then 0x8F3F7FFFC0000000
  else if a = 0x1010 then 0xFFFFFFFFFFFF0000
  else if a = 0x1100 then 0xFFFF0000FFFFFFFF
  else if a = 0x1108 then 0xFFFFFFFFFFFFFFFF
  else if a = 0x1308 then 0x1FF
  else if within a 0x4000 0x60 then 0x0000FF0000000000
  else if within a 0x8000 0x10000 || within a 0x18000 0x2000 || within a 0x1A000 0x6C0 || a == 0x1A800 then 0xFFFFFFFFFFFFFF00
  else if within a 0x30000 0x8000 then (if a % 16 = 0 then 0xFFFFFFFFFFFFFFFC else 0x1FFFFFFFF)
  else if within a 0x41000 0x1000 then 0xFFFFFFFFFFFFFFFF
  else if within a 0x50000 0x1000 then
    match a % 64 with
    | 0 => 3
    | 8 => 0xFFFFFFF800
    | 16 => 0x7FFFFFFF0000
    | 24 | 32 | 40 => 0xFFFFFFFFFFFFFFFF
    | 48 => 0xFFFFFFFF
    | _ => 0
  else if within a 0xE2000 0x80 then 0xFE00FFFFFC000000
  else if within a 0xE3000 0x840 then
    if a = 0xE3000 then 0xFF else if a = 0xE3008 then 0xFFFFFFFFFFFFFFFF else if a < 0xE3040 then 0
    else if a % 32 = 0 then 0xFFFFFFFF01FFFFFF else 0xFFFFFFFFFFFFFFFF
  else if within a 0xE4000 0x1000 then 0x8F8F8F8F8F8F8F8F
  else 0

/-- One field of a register: kept when its new value is not one that it takes. -/
def takeField (old new : Word) (lo n : Nat) (ok : Nat → Bool) : Word :=
  if ok (bitsOf new lo n) then putBits old lo n (bitsOf new lo n) else old

/-- Registers whose fields take only some values (R445, R446, R449, R477, R483, R487, R488). -/
def checkedWrite (a : Nat) (old new : Word) : Word :=
  let any (_ : Nat) : Bool := true
  let size (v : Nat) : Bool := decide (1 ≤ v) && decide (v ≤ 16)
  if a = 0x80 then
    let w := takeField (takeField (takeField (takeField old new 52 12 any) new 47 5 size) new 42 5 size) new 37 5 size
    [0, 1, 2, 3].foldl (fun w c => takeField w new (3 * c) 3 fun v => decide (v ≤ 5)) w
  else if a = 0xA8 then takeField old new 0 5 fun v => decide (10 ≤ v) && decide (v ≤ 24)
  else if a = 0x1000 then takeField (takeField old new 62 1 any) new 0 12 any
  else if within a 0x1200 0x80 then
    takeField (takeField old new 16 16 fun v => v != 0) new 0 5 fun v => decide (8 ≤ v) && decide (v ≤ 24)
  else if a = 0x1300 then takeField (takeField old new 58 5 any) new 1 38 any
  else if within a 0x2000 0x400 then
    takeField (takeField (takeField old new 15 1 any) new 8 4 any) new 0 5 fun v => decide (v ≤ 16)
  else old

/-- A word of a work queue's state is written (R446): the ring is fixed while the queue is enabled or holds a packet. -/
def State.wqStore (s : State) (q at_ : Nat) (new m : Word) : State :=
  let held := s.wqEnabled q || decide ((s.wq q).head < (s.wq q).tail)
  let off := wqOff q + at_
  let old := s.cwGet off
  let log (v : Nat) : Bool := !held && decide (4 ≤ v) && decide (v ≤ 16)
  let any (_ : Nat) : Bool := true
  match at_ with
  | 0 => if held then s else s.cwSet off (new &&& 0xFFFFFFFFC0)
  | 8 => if held then s else s.cwSet off (new &&& ~~~0xF#64)
  | 16 =>
    let w := takeField (takeField old new 0 5 log) new 8 5 log
    (s.cwSet off (takeField (takeField (takeField (takeField w new 16 3 any) new 23 1 any) new 24 6 any) new 32 32 any)).modWq q id
  | _ => if m.getLsbD 32 then s.doneHead q (bitsOf new 32 32) else s

/-- The offset holds a register that is written in its own way. -/
def State.specialWrite (s : State) (a : Nat) (v m : Word) : Option State :=
  if a < 0x60 then some (if m.getLsbD 4 then s.writeMode (a / 8) (bitsOf v 4 2) else s)
  else if a = 0x88 then some (if m.getLsbD 16 then s.writeNext (bitsOf v 16 16) else s)
  else if a = 0xB0 then some { s with pod8 := 8 * (((word (s.pod8 / 8)) &&& ~~~m) ||| (v &&& m)).toNat }
  else if a = 0x300 ∨ a = 0x308 then some (s.cwSet a 0)
  else if a = 0x1110 then some (s.cwSet a (s.cwGet a &&& ~~~(v &&& m &&& (1#64 <<< 24))))
  else if within a 0x24000 0x4000 || a == 0x28000 then some (s.cwSet a (s.cwGet a &&& ~~~(v &&& m &&& 0xFFFFFFFF)))
  else if within a 0x40000 32 then
    some (s.writeNonce (a - 0x40000 + if m.getLsbD 0 then 0 else 4)
      (((leBytes v.toNat 8).drop (if m.getLsbD 0 then 0 else 4)).take (if m = BitVec.allOnes 64 then 8 else 4)))
  else if within a 0x60000 0x80000 then
    some ((List.range 8).foldl (fun s i =>
      let g := (a - 0x60000) % 256 + i
      if m.getLsbD (8 * i) && decide (g < 192) then s.grant ((a - 0x60000) / 256) g (bitsOf v (8 * i) 8) else s) s)
  else none

/-- A core holds nothing more of a context: its tables, whose images are gone (R174), and what was marked as its own. -/
def Core.forget (k : Core) (x : Nat) : Core := { k with
  ctabs := k.ctabs.filter fun p => p.1 / 16 != x, xtabs := FMap.del x k.xtabs
  tabOwner := if k.tabOwner = some x then none else k.tabOwner, tabWant := if k.tabWant = some x then none else k.tabWant
  slotCtx := k.slotCtx.filter fun p => p.2 != x, homes := k.homes.filter fun r => !(r.out && r.ctx == x) }
/-- A context is destroyed as its Valid bit is cleared (R418): its skim stacks, images and tables are lost (R172, R174, R234). -/
def State.endContext (s : State) (c : Nat) : State :=
  { s with
    cores := s.cores.map fun (p : Nat × Core) => (p.1, p.2.forget c)
    skims := s.skims.filter fun (p : Nat × Skim) => p.1 / 2 ^ 15 != c
    coreImgs := s.coreImgs.filter fun (p : Nat × CoreImg) => p.1 / 4096 != c
    images := s.images.filter fun (p : Nat × Word) => p.1 / 2 ^ 20 != c }

/-- A write of the control window (R445): an aligned offset, the value and the bits written. -/
def State.cwStore (s : State) (a : Nat) (v m : Word) : State :=
  match s.specialWrite a v m with
  | some s => s
  | none =>
    let old := s.cwGet a
    let new := (old &&& ~~~m) ||| (v &&& m)
    if within a 0x200000 0x200000 then s.wqStore ((a - 0x200000) / 32) (a % 32) new m
    else if plainMask a ≠ 0 then
      let k := word (plainMask a)
      let s := s.cwSet a ((old &&& ~~~k) ||| (new &&& k))
      let s := if within a 0x50000 0x1000 && a % 64 == 0 && !(s.cwGet a).getLsbD 0 then s.endContext ((a - 0x50000) / 64) else s
      if within a 0x30000 0x8000 then s.flushMsix else s
    else
      let w := checkedWrite a old new
      let s := if w = old then s else s.cwSet a w
      if a = 0x1000 ∧ (v &&& m).getLsbD 63 then
        { s with agenda := s.agenda ++ [(if w.getLsbD 62 then Instr.restoreStart else Instr.checkpointStart, [])] }
      else if a = 0x1300 ∧ (v &&& m).getLsbD 63 then s.swapGo
      else s

/-- BRINGUP (R481). -/
def State.bringWord (s : State) : Word :=
  let b := s.bring
  let f (x : Bool) (n : Nat) : Nat := if x then 2 ^ n else 0
  word ((List.range 8).foldl (fun n z => n + b.layers.getD z 0 % 4 * 4 ^ z) 0 + f b.screed 16 +
    f (b.screed && !b.full && s.joined 0) 17 + f b.full 18 + f b.bstore 19)

/-- A word of the control window as it reads (R445): active tables, what is computed, and in the ATTEST mailbox the nonce and, from
+0x300 on (log entry 80), the certificate of the identity key (R492). -/
def State.cwLoad (s : State) (a : Nat) : Word :=
  let h := bitsOf (s.cwGet 0x1308) 0 9
  if within a 0x2000 0x400 then s.topoGet a
  else if a = 0xB0 then word (s.pod8 / 8)
  else if a = 0x1400 then s.bringWord
  else if a = 0x1008 then word (s.ckpt.pages * 2 ^ 32 + s.ckpt.state)
  else if within a 0x30000 0x8100 && s.groupSlot != 0 then 0
  else if within a 0x40000 32 then word (leNat ((s.nonce.drop (a - 0x40000)).take 8))
  else if within a 0x40300 0xD00 then word (leNat ((List.range 8).map fun i => Config.certificate (a - 0x40300 + i)))
  else if within a 0xE0000 0x1000 then
    let r := (a - 0xE0000) / 4
    let e (r : Nat) : Nat := let x := s.regionRemap h r; x / 1024 * 2 ^ 10 + x % 1024
    word (e r + e (r + 1) * 2 ^ 32)
  else if within a 0xE1000 0x800 then
    let r := (a - 0xE1000) / 2
    word ((List.range 4).foldl (fun n i => n + FMap.get 0 s.regionCnt (h * 1024 + r + i) * 2 ^ (16 * i)) 0)
  else s.cwGet a

/-- What answers before the screed has booted (R491). -/
def State.serves (s : State) (a : Nat) : Bool := s.bring.screed || within a 0x40000 0x2000

/-- A runtime binding of a wide barrier to a network at a core (R332): 1 package, 2 pod, 3 die, else none. -/
def State.bindWide (s : State) (c id scope : Nat) : State :=
  let b := FMap.get {} (s.core c).wide id
  s.modCore c fun k => { k with wide := k.wide.set id { b with bound := if 1 ≤ scope ∧ scope ≤ 3 then some scope else none } }

/-- An access of this cube's control window has a size and a place that it supports, and something serves it (R445, R491). -/
def State.cwOk (s : State) (off n : Nat) : Bool :=
  (n == 4 || n == 8) && off % n == 0 && decide (off < 2 ^ 22) && s.serves off
/-- A write of 4 or 8 bytes of the control window (R445). -/
def State.cwWrite (s : State) (off n v : Nat) : State :=
  let sh := 8 * (off % 8)
  let m : Word := (if n = 4 then 0xFFFFFFFF else BitVec.allOnes 64) <<< sh
  s.cwStore (off / 8 * 8) (word (v % 2 ^ 64) <<< sh) m
/-- A read of 4 or 8 bytes of it. -/
def State.cwRead (s : State) (off n : Nat) : List Byte := leBytes ((s.cwLoad (off / 8 * 8)).toNat / 256 ^ (off % 8)) n

/-- The runtime gives the cube its group slot and the cubes of the group's slots (R443): this slot, then slots with their cubes. DESIGN CHOICE
(log entry 132): by an input. -/
def State.setGroup (s : State) (slot : Nat) (cubes : List Nat) : State :=
  { s with groupSlot := slot % 16, slotCubes := (pairs cubes).foldl (fun m p => FMap.set m (p.1 % 16) (p.2 % 4096)) ([] : FMap Nat) }

/-- A host or runtime access of the control window (R445): the kind, then its operands. Kind 0 is a write of the runtime in this cube
(offset, bytes, value), kind 4 one of the host through BAR0, and kind 2 a read of the host (tag, offset, bytes); kind 1 binds a wide
barrier (core, id, scope); kind 3 gives a wide network its members (id, scope, die, cores); kind 5 gives the cube its group slot and the
cubes of the group (slot, then slots and cubes). On the bridge the window of slot s lies at s·4 MiB, and an access of another slot goes
to its cube (R444, R447). An access of another size or alignment, and one that nothing serves, is an Unsupported Request. -/
def execControlWindowWrite (s : State) : Host.Outcome State Fault Refusal :=
  match s.arg 0 with
  | 0 => .next (if s.cwOk (s.arg 1) (s.arg 2) then s.cwWrite (s.arg 1) (s.arg 2) (s.arg 3) else s)
  | 1 => .next (if 448 ≤ s.arg 2 ∧ s.arg 2 < 512 then s.bindWide (s.arg 1 % 2560) (s.arg 2) (s.arg 3) else s)
  | 3 => .next (s.setMembers (netKey (s.arg 1) (s.arg 2) (s.arg 3)) (s.args.drop 4))
  | 4 =>
    let off := s.arg 1
    let slot := off / 2 ^ 22
    if s.hostWaits .controlWindowWrite then .next (s.holdHost .controlWindowWrite)
    else if !s.barOpen then .next s
    else if s.groupSlot = 0 ∧ 0 < slot ∧ slot < 16 then .next (s.forwardPost slot 2 [4, off % 2 ^ 22, s.arg 2, s.arg 3])
    else .next (if s.cwOk off (s.arg 2) then s.cwWrite off (s.arg 2) (s.arg 3) else s.badPost)
  | 5 => .next (s.setGroup (s.arg 1) (s.args.drop 2))
  | _ =>
    let off := s.arg 2
    let slot := off / 2 ^ 22
    if s.hostWaits .controlWindowWrite then .next (s.holdHost .controlWindowWrite)
    else if !s.barOpen then .next (s.answer (s.arg 1) 1 [])
    else if s.groupSlot = 0 ∧ 0 < slot ∧ slot < 16 then
      .next (s.forwardRead (s.slotCube slot) 2 (s.arg 1) [2, s.arg 1, off % 2 ^ 22, s.arg 3])
    else if s.cwOk off (s.arg 3) then .next (s.answer (s.arg 1) 0 (s.cwRead off (s.arg 3)))
    else .next (s.answer (s.arg 1) 1 [])

/-! ## The memory window -/

/-- The parts of a range, cut at lines: address, offset in the range, length. -/
def lineParts (ea n : Nat) : List (Nat × Nat × Nat) :=
  (List.range ((ea % 64 + n + 63) / 64)).map fun i =>
    let lo := max ea (ea / 64 * 64 + 64 * i)
    let hi := min (ea + n) (ea / 64 * 64 + 64 * (i + 1))
    (lo, lo - ea, hi - lo)

/-- The locations of a host access (R444), or none when some part of it faults. -/
def State.hostKeys (s : State) (ctx ea n : Nat) (write : Bool) : Option (List (Nat × Nat × Nat)) :=
  (lineParts ea n).mapM fun p =>
    match s.engKey ctx p.1 write with
    | .ok (some k) =>
      if s.rangeLocked k write || (s.poisonHit k p.2.2 (lowBytes p.2.2) write).isSome then none else some (k, p.2)
    | .ok none => none
    | .error _ => none

/-- A host access of a context through the memory window, on the cube that the entry names (R444): it is performed at every location, and a
fault aborts a read or discards a write, and is counted. None while an atomic holds one of its granules. -/
def State.bar4Access (s : State) (tag : Nat) (write : Bool) (ctx ea n : Nat) (bs : List Byte) : Option State :=
  let count (a : Nat) : State := s.cwSet a (word (min (2 ^ 32 - 1) ((s.cwGet a).toNat + 1)))
  match s.hostKeys ctx ea n write with
  | none => some (if write then count 0x308 else (count 0x300).answer tag 4 [])
  | some ks =>
    if ks.any fun k => (granulesOf k.1 k.2.2 (lowBytes k.2.2)).any fun g => !(s.granQ g).isEmpty then none
    else if write then
      some (ks.foldl (fun s k => s.storeTo k.1 k.2.2 (lowBytes k.2.2) (leNat ((bs.drop k.2.1).take k.2.2))) s)
    else some ((ks.foldl (fun s k => s.countLine k.1) s).answer tag 0 (ks.flatMap fun k => s.bytesAt k.1 k.2.2))

/-- A host access through a BAR4 entry (R444): tag, 1 for a write, entry, offset, length, then bytes. It waits for the host port, for its
turn at its service core, and while an atomic holds one of its granules. A write of more than 512 bytes or a read of more than 4,096 is not
supported (R443). On the bridge an access of an entry with another Slot goes to the cube of that slot, with 64 times its context plus 64
above the entry's number, and with its address in place of the offset (R447). -/
def execBar4MemoryAccess (s : State) : Host.Outcome State Fault Refusal :=
  let e := s.cwGet (0x100 + 8 * (s.arg 2 % 64))
  let write := s.arg 1 = 1
  let n := s.arg 4
  let refuse : State := if write then s.badPost else s.answer (s.arg 0) 1 []
  let sent := s.groupSlot ≠ 0 ∧ 64 ≤ s.arg 2
  let ctx := if sent then s.arg 2 / 64 - 1 else bitsOf e 48 6
  let ea := if sent then s.arg 3 else bitsOf e 30 17 * 2 ^ 30 + s.arg 3 % 2 ^ 30
  if s.hostWaits .bar4MemoryAccess then .next (s.holdHost .bar4MemoryAccess)
  else if !s.barOpen || !s.bring.screed || (!sent && !e.getLsbD 63) || (if write then decide (512 < n) else decide (4096 < n)) then
    .next refuse
  else if !sent && bitsOf e 56 4 != s.groupSlot then
    let ops := [s.arg 0, s.arg 1, s.arg 2 % 64 + 64 * (ctx + 1), ea, n] ++ s.args.drop 5
    .next (if s.groupSlot ≠ 0 then refuse else if write then s.forwardPost (bitsOf e 56 4) 1 ops
      else s.forwardRead (s.slotCube (bitsOf e 56 4)) 1 (s.arg 0) ops)
  else match s.bar4Access (s.arg 0) write ctx ea n ((s.args.drop 5).map fun b => BitVec.ofNat 8 b) with
    | some s => .next s
    | none => .next (s.holdHost .bar4MemoryAccess)

/-! ## Requests for other cubes of the group -/

/-- The step of the part that serves a request, by its code. -/
def requestOf (code : Nat) : Instr :=
  match code with
  | 0 => .hostConfigAccess
  | 1 => .bar4MemoryAccess
  | 2 => .controlWindowWrite
  | 4 => .doneHeadWrite
  | _ => .wqWindowWrite
/-- The place of the tag among the operands of a request. -/
def tagAt_ (code : Nat) (args : List Nat) : Option Nat :=
  match code with
  | 0 | 1 => some 0
  | 2 => if args.headD 0 = 2 then some 1 else none
  | _ => none

/-- A host request for another cube of the group (R447). With a first argument of 1 it leaves this cube: the target cube, or
4,096 for a slot without one (R444), the request's code, and its operands. With 0 it has come: the cube that sent it, the code
and the operands; the service core of the same number serves it. -/
def execHostRequestForward (s : State) : Host.Outcome State Fault Refusal :=
  let cube := s.arg 1
  let code := s.arg 2
  let ops := s.args.drop 3
  if s.arg 0 = 1 then
    if cube < 4096 ∧ (code = 0 ∨ s.barOpen) then
      .next (s.toPod cube 0 ([9, BitVec.ofNat 8 code] ++ ops.flatMap fun n => leBytes n 8))
    else match tagAt_ code ops with
      | some i => .next (s.answer (ops.getD i 0) 1 [])
      | none => .next s
  else
    let ops := match tagAt_ code ops with
      | some i => ops.set i (ops.getD i 0 % 2 ^ 32 + (cube + 1) * 2 ^ 32)
      | none => ops
    .next { s with agenda := s.agenda ++ [(requestOf code, ops)] }

end Sys2Proof.Machine
end

