-- ==== Sys2Proof/Machine/Fabric.lean ====
section
/-!
DEFINITION. Messages between cubes: their torus route, flits and FEC groups, delivery, and the chain table (spec/20, R449 to R461;
R441, R450, R464). The spec gives no payload format; the first byte of one names its kind.
-/

namespace Sys2Proof.Machine

/-! ## The torus -/

/-- The sizes of the pod in x, y and z (R449). -/
def State.podSizes (s : State) : List Nat :=
  let w := s.cwGet 0x80
  [bitsOf w 47 5, bitsOf w 42 5, bitsOf w 37 5]
/-- A coordinate of a cube (R449). -/
def podCoord (sz : List Nat) (n dim : Nat) : Nat :=
  let x := sz.getD 0 1
  let y := sz.getD 1 1
  match dim with
  | 0 => n % x
  | 1 => n / x % y
  | _ => n / (x * y)
/-- The direction of the next hop toward a cube (R453), in the order of R30. -/
def State.podDir (s : State) (dst cls : Nat) : Option Nat :=
  let sz := s.podSizes
  (dimOrder (bitsOf (s.cwGet 0x80) (3 * cls) 3)).findSome? fun dim =>
    let n := sz.getD dim 1
    let d := (podCoord sz dst dim + n - podCoord sz s.selfCube dim) % n
    if d = 0 then none else some (2 * dim + if 2 * d ≤ n then 0 else 1)
/-- A port carries torus traffic. -/
def State.torusPort (s : State) (p : Nat) : Bool := s.portMode p == 1 && s.inService p
/-- The port by which a message leaves (R453): the route table may replace the first hop (R445). -/
def State.podPort (s : State) (m : PodMsg) : Option Nat :=
  let r := (s.topoGet (0xE4000 + m.dst / 8 * 8)).toNat / 256 ^ (m.dst % 8) % 256
  if m.src = s.selfCube ∧ 128 ≤ r ∧ r % 16 < 12 then (if s.torusPort (r % 16) then some (r % 16) else none)
  else match s.podDir m.dst m.cls with
    | none => none
    | some d =>
      let p := 2 * d + m.dst % 2
      let q := 2 * d + 1 - m.dst % 2
      if s.torusPort p then some p else if s.torusPort q then some q else none

/-! ## Flits -/

/-- The logical wavelengths that take new flits (R457, R476). -/
def State.lanesUp (s : State) (p : Nat) : List Nat :=
  (List.range 8).filter fun w => (s.cwGet (8 * p)).getLsbD (8 + w) && (s.port p).retrain != some w

/-- A header (R457). -/
def flitHeader (m : PodMsg) (pos seq n : Nat) : Word :=
  word (m.dst % 4096 * 2 ^ 52 + m.src % 4096 * 2 ^ 40 + m.cls % 4 * 2 ^ 38 + pos * 2 ^ 36 + m.ver % 2 ^ 16 * 2 ^ 20 +
    seq % 1024 * 2 ^ 10 + (n - 1) % 64 * 2 ^ 4)

/-- A message with the version that its flits carry: of one that starts here, this cube's as the first of them leaves (R457). -/
def State.stamped (s : State) (m : PodMsg) : PodMsg := if m.src = s.selfCube ∧ m.sent = 0 then { m with ver := s.topVersion } else m

/-- The next flit of a message leaves by a port, on one of some wavelengths by free choice (R457). -/
def State.sendFlit (s : State) (p : Nat) (m : PodMsg) (ls : List Nat) : State :=
  let (c, s) := s.nextFree
  let wl := ls.getD (Config.choice c % ls.length) 0
  let part := (m.bytes.drop m.sent).take 64
  let last := decide (m.bytes.length ≤ m.sent + 64)
  let pos := if m.sent = 0 then (if last then 0 else 1) else if last then 3 else 2
  let q := s.port p
  let s := s.modPort p fun q => { q with
    seqOut := (q.seqOut + 1) % 1024, flits := q.flits.set wl (FMap.get 0 q.flits wl + 1), busy := q.busy.set wl (28 * s.pod8 + 608) }
  { s with outputs := .flit p wl (flitHeader m pos q.seqOut part.length) part :: s.outputs }

/-- Some flits of a message leave by a port. -/
def State.sendFlits (s : State) (p : Nat) (m : PodMsg) : Nat → State
  | 0 => s
  | n + 1 => if m.bytes.length ≤ m.sent then s else State.sendFlits (s.sendFlit p m (s.lanesUp p)) p { m with sent := m.sent + 64 } n
/-- A whole message leaves by a port. -/
def State.sendWhole (s : State) (p : Nat) (m : PodMsg) : State := s.sendFlits p (s.stamped m) (m.bytes.length / 64 + 1)

/-! ## Delivery -/

/-- The code of an access between cubes: 0 a load, 1 a store, 16 and above an atomic by its operation, 32 more for 64 bits. -/
def accessCode (k : AccKind) : Nat × Word × Word :=
  match k with
  | .load | .loadResv => (0, 0, 0)
  | .store _ data => (1, data.setWidth 64, 0)
  | .amo op dbl v c => (16 + op.toBits.toNat + (if dbl then 32 else 0), v, c)
  | .sc _ _ _ => (0, 0, 0)
/-- And back. -/
def accessKind (code n : Nat) (v c : Word) : Option AccKind :=
  if code = 0 then some .load
  else if code = 1 then some (.store (lowBytes n) (v.setWidth 512))
  else (AmoOp.ofBits (BitVec.ofNat 4 code)).map fun op => .amo op (decide (32 ≤ code)) v c

/-- The payload of an access for another cube (R450). -/
def accessBytes (a : Access) (ea : Word) : List Byte :=
  let (code, v, c) := accessCode a.kind
  [1, BitVec.ofNat 8 a.ctx] ++ leBytes a.msg 8 ++ leBytes ea.toNat 8 ++ [BitVec.ofNat 8 a.bytes, BitVec.ofNat 8 code] ++
  leBytes v.toNat 8 ++ leBytes c.toNat 8

/-- An access by another cube is judged here (R441): its location, or the code of its fault with the Aux of R429. -/
def State.farCheck (s : State) (ctx ea n : Nat) (write cover : Bool) : Except (Nat × Nat) Nat :=
  match s.engKey ctx ea write with
  | .error f => .error (f.cause.code, f.aux)
  | .ok none => .error (Cause.badAperture.code, 0)
  | .ok (some k) =>
    if s.rangeLocked k write then .error (Cause.rangeLock.code, 0)
    else if (s.poisonHit k n (lowBytes n) cover).isSome then .error (Cause.memError.code, 0)
    else .ok k

/-- A request of another cube arrives (R441, R450): it is decided, and goes to its owner or is refused. -/
def State.farAccess (s : State) (src : Nat) (bs : List Byte) : State :=
  let id := field bs 2 8
  let ea := field bs 10 8 % 2 ^ 48
  let n := field bs 18 1
  let refuse (c aux : Nat) : State := s.toPod src 1 ([2] ++ leBytes id 8 ++ [BitVec.ofNat 8 c] ++ leBytes aux 9)
  match accessKind (field bs 19 1) n (word (field bs 20 8)) (word (field bs 28 8)) with
  | none => refuse Cause.badAperture.code 0
  | some k =>
    match s.farCheck (field bs 1 1) ea n (k != .load) (field bs 19 1 == 1) with
    | .error (c, aux) => refuse c aux
    | .ok key =>
      let a : Access := {
        msg := farMsg + id, core := farCore src, slot := 0, taskh := 0, ctx := field bs 1 1, wid := 0, key := key, bytes := n
        owner := 2048 + s.channelOf (key / 2 ^ 31), kind := k, land := .none, proxied := true, pod := none }
      (s.toPod src 1 ([12] ++ leBytes id 8)).send (.access a)

/-- The response to an access of this cube, or its decision alone (R66, R450). -/
def State.farAnswer (s : State) (id code : Nat) (v : Word) (fl : BitVec 5) : State :=
  match s.msg id with
  | some (.access a) =>
    if a.pod.isNone then s else
    let early : Bool := match (s.thrAt a.core a.slot).podAns with
      | some none => (s.thrAt a.core a.slot).ctl.taskh == a.taskh
      | _ => false
    let ans (t : Thread) : Thread := if early then { t with podAns := some (some (code, v, fl)) } else t
    if code = 0x100 then s.modTask a.core a.slot a.taskh ans
    else
      let s := { s.unsend id with podSent := s.podSent.filter (· != id) }
      if early then s.modTask a.core a.slot a.taskh fun t => { ans t with pend := t.pend.filter fun p => p.msg != id }
      else s.modTask a.core a.slot a.taskh fun t => { t with
        podAns := match t.podAns with
          | some (some (0x100, _, _)) => some (some (0, v, fl))
          | x => x
        pend := t.pend.filter fun p => p.msg != id
        windows := t.windows.map fun w => if w.wid == a.wid then
          { w with need := w.need - 1, writes := w.writes ++ a.land.write (v.setWidth 512) true, flags := w.flags ||| fl } else w }
  | _ => s

/-- A delivery of another cube's copy (R464): performed when no atomic holds its granules and no lock its line, and
acknowledged; none while it must wait. -/
def State.farDelivery (s : State) (src : Nat) (bs : List Byte) : Option State :=
  let n := field bs 2 2
  let ack (s : State) (st : Nat) : State :=
    s.toPod src 3 ([4] ++ leBytes (field bs 4 8) 8 ++ leBytes (field bs 12 8) 8 ++ leBytes st 2)
  match s.farCheck (field bs 1 1) (field bs 20 8 % 2 ^ 48) n true true with
  | .error (c, aux) => if c = Cause.rangeLock.code then none else some (ack s (c + 256 * aux))
  | .ok k =>
    if (granulesOf k n (lowBytes n)).any fun g => !(s.granQ g).isEmpty then none
    else some (ack (s.storeTo k n (lowBytes n) (leNat ((bs.drop 28).take n))) 0)

/-- A read by another cube's copy (R450): its bytes up to the first error mark. -/
def State.farRead (s : State) (src : Nat) (bs : List Byte) : State :=
  let n := field bs 2 2
  let back (s : State) (st : Nat) (d : List Byte) : State :=
    s.toPod src 1 ([6] ++ leBytes (field bs 4 8) 8 ++ leBytes st 2 ++ d)
  match s.engKey (field bs 1 1) (field bs 20 8 % 2 ^ 48) false with
  | .error f => back s (f.cause.code + 256 * f.aux) []
  | .ok none => back s Cause.badAperture.code []
  | .ok (some k) =>
    let m := s.clean k n
    if m = 0 then back s Cause.memError.code [] else back (s.countLine k) 0 (s.bytesAt k m)

/-- A pod tree's result reaches the screed unit (R390, R391, R456): one of another version is counted, answered with a NACK and passed on
as stale. -/
def State.farResult (s : State) (src ver : Nat) (bs : List Byte) : State :=
  let grp := field bs 1 1
  let stale := s.notCurrent screedNode grp ver
  let s := if stale then (s.countStale screedNode).toPod src 3 [15, BitVec.ofNat 8 grp, 0] else s
  match s.groupAt screedNode grp with
  | none => s
  | some e => let v := collOf e.op bs; s.sendDown screedNode grp e { v with stale := v.stale || stale }
/-- A NACK of another cube: where nothing else ends this cube's round, it ends stale (R394, R456). -/
def State.farNack (s : State) (bs : List Byte) : State :=
  match if field bs 2 1 = 1 then s.groupAt screedNode (field bs 1 1) else none with
  | some e => s.sendDown screedNode (field bs 1 1) e { stale := true }
  | none => s

/-- What another cube of the group has for the host's memory reaches the bridge (R446, R448): the service core, the number by which the
sender knows a completion record, or 0, the offset and the bytes. It waits while nothing can leave by the host port. -/
def State.bridgeWrite (s : State) (src : Nat) (bs : List Byte) : Option State :=
  if !s.hostWrites then none else
  let s := { s with outputs := .hostWrite (field bs 1 1) (field bs 6 8) (bs.drop 14) :: s.outputs }
  some (if field bs 2 4 = 0 then s else s.toPod src 1 (14 :: leBytes (field bs 2 4) 4))

/-- The class 1 response to an access of this cube can come up from the screed to its tile (R472, R494, R497). -/
def State.answerUp (s : State) (id : Nat) : Bool :=
  match s.msg id with
  | some (.access a) => s.pathUp a.back 2560 a.core
  | _ => true

/-- Numbers of eight bytes each. -/
def nats8 (bs : List Byte) : List Nat := (List.range (bs.length / 8)).map fun i => field bs (8 * i) 8

/-- A message that has reached its cube is delivered (R451); none while it must wait. -/
def State.deliverPod (s : State) (m : PodMsg) : Option State :=
  let bs := m.bytes
  match field bs 0 1 with
  | 1 => some (s.farAccess m.src bs)
  | 2 =>
    if !s.answerUp (field bs 1 8) then none
    else some (s.farAnswer (field bs 1 8) (field bs 9 1) (word (field bs 10 8)) (BitVec.ofNat 5 (field bs 18 1)))
  | 3 => s.farDelivery m.src bs
  | 4 => some { s with agenda := s.agenda ++ [(Instr.podDeliveryAck, [field bs 1 8, field bs 9 8, field bs 17 2])] }
  | 5 => some (s.farRead m.src bs)
  | 6 => some (match s.op (field bs 1 8) with
    | some x => if x.asked && x.got.isNone then s.setOpx { x with got := some (field bs 9 2, bs.drop 11) } else s
    | none => s)
  | 7 => s.podRound m.src m.ver bs
  | 8 => some (s.farResult m.src m.ver bs)
  | 9 => some { s with agenda := s.agenda ++ [(Instr.hostRequestForward, [0, m.src, field bs 1 1] ++ nats8 (bs.drop 2))] }
  | 10 => some (s.hostAnswer (field bs 1 4) (field bs 5 1) (bs.drop 6))
  | 11 => some (s.sendMsix (field bs 1 2))
  | 12 => if !s.answerUp (field bs 1 8) then none else some (s.farAnswer (field bs 1 8) 0x100 0 0)
  | 13 => s.bridgeWrite m.src bs
  | 14 => some (s.recordAcked (field bs 1 4 - 1))
  | 15 => some (s.farNack bs)
  | 16 => some (s.pciError 20 true)
  | 17 => some (s.toHost .loadError)
  | 20 => some { s with agenda := s.agenda ++ [(Instr.checkpointComplete, 1 :: (bs.drop 1).map BitVec.toNat)] }
  | 21 => some { s with agenda := s.agenda ++ [(Instr.checkpointComplete, [2])] }
  | _ => some s

/-! ## The chain -/

/-- Length of a slot in nanoseconds. -/
def slotNs (x : Nat × Nat × Bool × Nat × List (Option Nat)) : Nat := 1000 * x.1
/-- Length of a rotation in nanoseconds (R460). -/
def Chain.rotation (c : Chain) : Nat := (c.slots.map slotNs).foldl (· + ·) 0
/-- A cube is a peer of the table in some valid slot (R461). -/
def Chain.peer (c : Chain) (cube : Nat) : Bool := c.slots.any fun x => x.2.2.1 && x.2.2.2.2.contains (some cube)
/-- Where a time within a rotation falls: the slot and the time since its start. -/
def slotAt : Nat → Nat → List (Nat × Nat × Bool × Nat × List (Option Nat)) → Option (Nat × Nat)
  | _, _, [] => none
  | i, t, x :: xs => if t < slotNs x then some (i, t) else slotAt (i + 1) (t - slotNs x) xs
/-- The present slot: its occurrence (64 times the rotation, plus the slot), the slot, and eighths of a nanosecond since its
start. -/
def State.slotNow (s : State) : Option (Nat × Nat × Nat) :=
  match s.chain with
  | none => none
  | some c =>
    if s.pod8 < 8 * c.start ∨ c.rotation = 0 then none else
    let t := s.pod8 - 8 * c.start
    (slotAt 0 (t / 8 % c.rotation) c.slots).map fun p => (t / 8 / c.rotation * 64 + p.1, p.1, p.2 * 8 + t % 8)

/-- The shadow chain table (R459). -/
def State.shadowChain (s : State) : Chain :=
  let b (at_ n : Nat) : Nat := leNat ((List.range n).map fun i => BitVec.ofNat 8 (s.cwByte (0xE3000 + at_ + i)))
  { start := b 8 8
    slots := (List.range (min 64 (b 0 1))).map fun i =>
      let e := 64 + 32 * i
      (b e 2, b (e + 2) 1, (b (e + 3) 1).testBit 0, b (e + 4) 4, (List.range 12).map fun p =>
        let v := b (e + 8 + 2 * p) 2
        if v.testBit 15 then some (v % 4096) else none) }
/-- The shadow keeps the limits of R459. -/
def State.shadowChainOk (s : State) : Bool :=
  let b (at_ n : Nat) : Nat := leNat ((List.range n).map fun i => BitVec.ofNat 8 (s.cwByte (0xE3000 + at_ + i)))
  decide (1 ≤ b 0 1) && decide (b 0 1 ≤ 64) && b 1 7 == 0 && (List.range 48).all (fun i => b (16 + i) 1 == 0) &&
  (List.range (b 0 1)).all fun i =>
    let e := 64 + 32 * i
    decide (1 ≤ b e 2) && decide (b e 2 ≤ 1000) && decide (5 ≤ b (e + 2) 1) && decide (b (e + 2) 1 ≤ 200) &&
    decide (b (e + 2) 1 < 10 * b e 2) && decide (b (e + 3) 1 < 2) &&
    (List.range 12).all fun p => b (e + 8 + 2 * p) 2 / 2 ^ 12 % 8 == 0

/-- The time at which an installed table takes effect (R459): its StartTime, or the next rotation boundary of the present table
at or after it. -/
def State.chainDue (s : State) (n : Chain) : Nat :=
  match s.chain with
  | none => n.start
  | some c =>
    if c.rotation = 0 then n.start
    else c.start + (max n.start c.start - c.start + c.rotation - 1) / c.rotation * c.rotation

/-- A table that replaces another takes effect at a boundary that is still to come as it is loaded (R459). -/
def State.loadedChain (s : State) : Chain :=
  let n := s.shadowChain
  if s.chain.isNone then n else { n with start := max n.start ((s.pod8 + 7) / 8) }

/-- `CHAIN_TABLE_INSTALL` (R459): 0 loads the shadow, and a table that breaks the limits is not installed and its load reports an error;
1 is its taking effect. -/
def execChainTableInstall (s : State) : Host.Outcome State Fault Refusal :=
  if s.arg 0 = 0 then .next (if s.shadowChainOk then { s with chainNext := some s.loadedChain } else s.toHost .loadError) else
  match s.chainNext with
  | none => .next s
  | some n =>
    let d := s.chainDue n
    .next (if 8 * d ≤ s.pod8 then { s with chain := some { n with start := d }, chainNext := none, chainSlot := none } else s)

/-- A slot begins (R460, R461): the quota of each of its peers is whole. -/
def execChainSlotStart (s : State) : Host.Outcome State Fault Refusal :=
  match s.chain, s.slotNow with
  | some c, some (occ, i, _) =>
    if s.chainSlot.map Prod.fst = some occ then .next s else
    match c.slots[i]? with
    | none => .next s
    | some x =>
      let ps := if x.2.2.1 then x.2.2.2.2.filterMap id else []
      .next { s with chainSlot := some (occ, ps.foldl (fun (m : FMap Nat) q => FMap.set m q x.2.2.2.1) []) }
  | _, _ => .next s

/-- The wavelengths of a port that take new flits and have sent the one before. -/
def State.lanesFree (s : State) (p : Nat) : List Nat := (s.lanesUp p).filter fun w => decide (FMap.get 0 (s.port p).busy w ≤ 28 * s.pod8)

/-- The port on which the head of a peer's queue may send a flit now (R461), the first in service to which the slot maps the peer: its data
window is open, the peer's quota is not spent, and on a wavelength that is free a flit can finish before the window ends. A flit is 76 bytes
on the wire with its header and its share of the parity, and takes 608/224 ns (R30, R457, R458): DESIGN CHOICE (log entry 113). -/
def State.chainPort (s : State) (peer : Nat) : Option Nat :=
  match s.chain, s.slotNow, s.chainSlot with
  | some c, some (occ, i, t), some (occ', quota) =>
    match c.slots[i]? with
    | none => none
    | some x =>
      if occ ≠ occ' || !x.2.2.1 || t < 800 * x.2.1 || FMap.get 0 quota peer == 0 || (8 * slotNs x - t) * 28 < 608 then none else
      ((List.range 12).find? fun p => x.2.2.2.2.getD p none == some peer && s.portMode p == 2 && s.inService p).filter
        fun p => !(s.lanesFree p).isEmpty
  | _, _, _ => none

/-- A flit of a peer's queue is sent in the data window (R461): the peer. -/
def execChainDataWindow (s : State) : Host.Outcome State Fault Refusal :=
  let peer := s.arg 0
  match FMap.get [] s.sendQ peer, s.chainPort peer with
  | m :: rest, some p =>
    let m := s.stamped m
    let s := s.sendFlit p m (s.lanesFree p)
    let m := { m with sent := m.sent + 64 }
    let q := if m.bytes.length ≤ m.sent then rest else m :: rest
    .next { s with
      sendQ := s.sendQ.set peer q
      chainSlot := s.chainSlot.map fun (x : Nat × FMap Nat) => (x.1, FMap.set x.2 peer (FMap.get 0 x.2 peer - 1)) }
  | _, _ => .next s

/-! ## Forwarding -/

/-- Nothing of the same sender, class and destination stands before a message (R454). -/
def State.podFirst (s : State) (i : Nat) (m : PodMsg) : Bool :=
  (s.podOut.take i).all fun n => !(n.src == m.src && n.cls == m.cls && n.dst == m.dst)

/-- What becomes of a message at this cube (R453, R461): it is delivered, joins its peer's chain queue, or takes its next torus
hop; none while it must wait. -/
def State.forwarded (s : State) (m : PodMsg) : Option State :=
  if m.dst = s.selfCube then s.deliverPod (s.stamped m)
  else if m.cls ≤ 1 && (match s.chain with
      | some c => c.peer m.dst
      | none => false) then
    let q := FMap.get [] s.sendQ m.dst
    if Config.sendRoom m.dst ≤ q.length then none else some { s with sendQ := s.sendQ.set m.dst (q ++ [m]) }
  else match s.podPort m with
    | none => none
    | some p => if (s.lanesUp p).isEmpty then none else some (s.sendWhole p m)

/-- An access whose thread waits for another cube becomes a message (R450). -/
def State.accessOut (s : State) (id : Nat) : Option State :=
  match s.msg id with
  | some (.access a) =>
    match a.pod with
    | none => none
    | some ea =>
      if s.podSent.contains id || !s.mayArrive id (.access a) then none else
      some ({ s with podSent := id :: s.podSent }.toPod (ea.toNat / 2 ^ 48 % 4096) 0 (accessBytes a ea))
  | _ => none

/-- A message between cubes goes on (R453): 0 and its place among those at this cube, or 1 and the access that it carries. -/
def execPodMessageForward (s : State) : Host.Outcome State Fault Refusal :=
  if s.arg 0 = 1 then .next ((s.accessOut (s.arg 1)).getD s) else
  match s.podOut[s.arg 1]? with
  | none => .next s
  | some m =>
    if !s.podFirst (s.arg 1) m then .next s else
    .next ((({ s with podOut := s.podOut.eraseIdx (s.arg 1) } : State).forwarded m).getD s)

/-! ## Receiving -/

/-- A flit is released in its turn (R457): the parts of a message join, by class, sender and destination, whichever ports they come by. -/
def State.release (s : State) (h : Word) (bs : List Byte) : State :=
  let cls := bitsOf h 38 2
  let src := bitsOf h 40 12
  let dst := bitsOf h 52 12
  let pos := bitsOf h 36 2
  let bs := bs.take (bitsOf h 4 6 + 1)
  let mine (x : Nat × Nat × Nat × Nat × List Byte) : Bool := x.1 == cls && x.2.1 == src && x.2.2.1 == dst
  let (ver, whole) := match if pos = 0 ∨ pos = 1 then none else s.podParts.find? mine with
    | some x => (x.2.2.2.1, x.2.2.2.2 ++ bs)
    | none => (bitsOf h 20 16, bs)
  let rest := s.podParts.filter fun x => !mine x
  if pos = 1 ∨ pos = 2 then { s with podParts := rest ++ [(cls, src, dst, ver, whole)] }
  else { s with podParts := rest, podOut := s.podOut ++ [⟨dst, src, cls, ver, whole, 0⟩] }

/-- The flits that have become next are released. -/
def State.releaseHeld (s : State) (p : Nat) : Nat → State
  | 0 => s
  | n + 1 =>
    let q := s.port p
    match q.held.find? fun x => x.1 == q.seqIn with
    | none => s
    | some x =>
      let s := s.modPort p fun q => { q with seqIn := (q.seqIn + 1) % 1024, held := q.held.erase x }
      (s.release x.2.1 x.2.2).releaseHeld p n

/-- A flit is received (R457): the port, its header, its bytes. It is released in the order of Seq. -/
def execFlitReceive (s : State) : Host.Outcome State Fault Refusal :=
  let p := s.arg 0 % 12
  if !s.inService p then .next s else
  let h := word (s.arg 1)
  let bs : List Byte := (s.args.drop 2).map fun n => BitVec.ofNat 8 n
  let s := s.modPort p fun q => { q with held := q.held ++ [(bitsOf h 10 10, h, bs)] }
  .next (s.releaseHeld p (s.port p).held.length)

/-- Offset of the error counters of a physical wavelength (R445). -/
def laneCount (p w : Nat) : Nat := 0x1A000 + 144 * p + 16 * w
/-- The logical wavelength on a physical one (R476). -/
def State.logicalOf (s : State) (p w : Nat) : Option Nat :=
  (List.range 8).find? fun l => bitsOf (s.cwGet (0x4000 + 8 * p)) (4 * l) 4 == w
/-- FEC groups in a window of 2^30 bits: each is 608 bytes with its parity (R458, R476). -/
def windowGroups : Nat := 2 ^ 30 / 4864

/-- An FEC group is received (R458): port, physical wavelength, and the byte errors in each of its four code words. At most 4 in every
one are corrected, and a wavelength past its threshold of corrected symbols asks for a retrain (R476); otherwise the group is asked for again,
and is counted as uncorrected (R469). -/
def execFecGroupReceive (s : State) : Host.Outcome State Fault Refusal :=
  let p := s.arg 0 % 12
  let w := s.arg 1 % 9
  let errs := (s.args.drop 2).take 4
  let q := s.port p
  let g := FMap.get 0 q.groups w
  if errs.any fun n => decide (4 < n) then
    .next { s.uncorrected (laneCount p w + 8) with outputs := .retry p w g :: s.outputs }
  else
    let n := errs.foldl (· + ·) 0
    let old := (FMap.get [] q.symbols w).filter fun x => decide (g < x.1 + windowGroups)
    let now := if n = 0 then old else old ++ [(g, n)]
    let s := s.modPort p fun q => { q with groups := q.groups.set w (g + 1), symbols := q.symbols.set w now }
    let s := if n = 0 then s else s.corrected (laneCount p w) p
    let sum := (now.map Prod.snd).foldl (· + ·) 0
    match s.logicalOf p w with
    | some l =>
      .next (if 2 ^ bitsOf (s.cwGet (0x4000 + 8 * p)) 40 8 ≤ sum then
        { s with agenda := s.agenda ++ [(Instr.wavelengthRetrainStart, [p, l])] } else s)
    | none => .next s

/-- The peer asks for a group again (R458): port, wavelength, group. The last 256 groups sent are kept. -/
def execFecRetry (s : State) : Host.Outcome State Fault Refusal :=
  let p := s.arg 0 % 12
  let n := FMap.get 0 (s.port p).flits (s.arg 1) / 8
  .next (if s.arg 2 < n ∧ n ≤ s.arg 2 + 256 then { s with outputs := .resend p (s.arg 1) (s.arg 2) :: s.outputs } else s)

end Sys2Proof.Machine
end

