-- ==== Sys2Proof/Machine/Repair.lean ====
section
/-!
DEFINITION. Soft errors, links, wavelengths, channel copies and the checkpoint sequencer (spec/22, R468 to R484; R31, R372).
-/

namespace Sys2Proof.Machine

/-! ## Links -/

/-- A link (R23): the vertical link above tile t is t, the down link n is 4,096 + n, and the lateral links of tile t are 8,192 + 2t
and the next (`linkOf`). -/
def State.bond (s : State) (link : Nat) : Bond := FMap.get {} s.bonds link
/-- BONDSTAT (R473). -/
def Bond.word (b : Bond) : Word :=
  Sys2Proof.word (b.spareFor % 8 * 2 ^ 13 + b.failed % 32 * 2 ^ 8 + if b.out then 8 else 0)
/-- Replace a link's state; that of a vertical link shows in its BONDSTAT. -/
def State.setBond (s : State) (link : Nat) (b : Bond) : State :=
  let s := { s with bonds := s.bonds.set link b }
  if link < 2048 then s.cwSet (0x20000 + 8 * link) b.word else s

/-- The bond group of a beat: a lateral link is one group of 256 bits (R22, R23). -/
def bondGroup (link g : Nat) : Nat := if 8192 ≤ link then 0 else g % 5

/-- A beat fails its CRC and is replayed (R468): the link and the bond group. Sixteen within 2^20 cycles are a failure of the group
(R472). -/
def execLinkBeatReplay (s : State) : Host.Outcome State Fault Refusal :=
  let link := s.arg 0
  let g := bondGroup link (s.arg 1)
  if 12288 ≤ link then .next s else
  let b := s.bond link
  let crc := (b.crc.filter fun e => decide (s.cycle < e.2 + 2 ^ 20)) ++ [(g, s.cycle)]
  let s := s.setBond link { b with crc := crc }
  let s := if link < 2048 then s.corrected (0x8000 + 32 * link + 24) link else s
  let n := (crc.filter fun e => e.1 == g).length
  .next (if 16 ≤ n ∧ !b.failed.testBit g then { s with agenda := s.agenda ++ [(Instr.bondGroupFailure, [link, g])] } else s)

/-- The idle-time test of a link (R472): the link and a mask of the groups that fail it. -/
def execBondIdleTest (s : State) : Host.Outcome State Fault Refusal :=
  let link := s.arg 0
  let b := s.bond link
  let bad := (List.range (if 8192 ≤ link then 1 else 5)).filter fun g => (s.arg 1).testBit g && !b.failed.testBit g
  .next (if 12288 ≤ link then s else { s with agenda := s.agenda ++ bad.map fun g => (Instr.bondGroupFailure, [link, g]) })

/-- The rings whose path has a link stop or go on (R372): a vertical link's column, a lateral link's row or column. -/
def State.linkRings (s : State) (link : Nat) : State :=
  let (kind, tile) := if link < 2048 then (2, link) else ((link - 8192) % 2, (link - 8192) / 2)
  if 2048 ≤ link ∧ link < 8192 then s else
  let r := ringKey kind tile
  let up := (List.range (ringLen r)).all fun p => s.linkUp (linkOf (ringTile r p) (2 * kind))
  s.modRing r fun g => { g with halted := !up }

/-- A bond group fails (R472): the link and the group; VLINK counts it (R468, R469). The spare takes its place, or the link goes out of
service and holds what has not passed it (R495); a lateral link has no spare: DEDUCED (log entry 109). -/
def execBondGroupFailure (s : State) : Host.Outcome State Fault Refusal :=
  let link := s.arg 0
  let g := bondGroup link (s.arg 1)
  let b := s.bond link
  if 12288 ≤ link || b.failed.testBit g then .next s else
  let failed := b.failed + 2 ^ g
  let free := b.spareFor == 7 && !b.failed.testBit 4 && decide (link < 8192)
  let b' : Bond :=
    if g = 4 then { b with failed := failed, out := b.out || b.spareFor != 7 }
    else if free then { b with failed := failed, spareFor := g }
    else { b with failed := failed, out := true }
  let s := if b'.out && !b.out then s.placeMsgs else s
  let s := if link < 2048 then s.uncorrected (0x8000 + 32 * link + 24) else s
  let s := (s.setBond link { b' with crc := b'.crc.filter fun e => e.1 != g }).tell 4 (if link < 8192 then link % 4096 else link) b'.word.toNat
  .next (s.linkRings link)

/-- A link that was out of service returns, whole (R372): the link. -/
def execLinkReturnsToService (s : State) : Host.Outcome State Fault Refusal :=
  let link := s.arg 0
  if !(s.bond link).out then .next s else
  .next ((s.setBond link {}).linkRings link)

/-! ## Wavelengths -/

/-- Retraining and Lanes of a port follow its wavelengths (R442). -/
def State.showLanes (s : State) (p : Nat) : State :=
  let q := s.port p
  let w := s.cwGet (8 * p)
  let up := (List.range 8).foldl (fun m l => if q.dead.contains l || q.retrain == some l then m else m + 2 ^ l) 0
  s.cwSet (8 * p) (word (bitsOf w 4 2 * 16 + bitsOf w 3 1 * 8 + (if q.full || q.retrain.isSome then 4 else 0) +
    if w.getLsbD 3 then up * 256 else 0))

/-- A background retrain begins (R31, R476): the port and the logical wavelength. A second one of the port waits. -/
def execWavelengthRetrainStart (s : State) : Host.Outcome State Fault Refusal :=
  let p := s.arg 0 % 12
  let l := s.arg 1 % 8
  let q := s.port p
  if !s.inService p || q.full || q.dead.contains l || q.retrain == some l || q.waiting.contains l then .next s
  else if q.retrain.isSome then .next (s.modPort p fun q => { q with waiting := q.waiting ++ [l] })
  else .next ((s.modPort p fun q => { q with retrain := some l }).showLanes p)

/-- The port's wavelength in retrain is done with; the next one that waits begins. -/
def Port.nextRetrain (q : Port) : Port := { q with retrain := q.waiting.head?, waiting := q.waiting.tail }

/-- A retrain ends (R476): the port, and 1 when it succeeded. A control flit announces the Seq value from which the wavelength takes flits
again, and it is handed back there; after two failures in a row it moves to
the spare and trains there, or without one stays out of service. -/
def execWavelengthHandback (s : State) : Host.Outcome State Fault Refusal :=
  let p := s.arg 0 % 12
  let q := s.port p
  match q.retrain with
  | none => .next s
  | some l =>
    let off := 0x4000 + 8 * p
    let w := s.cwGet off
    if s.arg 1 = 1 then
      let s : State := { s with outputs := .handback p l q.seqOut :: s.outputs }
      .next ((s.modPort p fun q =>
        { q with fails := q.fails.set l 0, symbols := FMap.del (bitsOf w (4 * l) 4) q.symbols }.nextRetrain).showLanes p)
    else if FMap.get 0 q.fails l + 1 < 2 then .next (s.modPort p fun q => { q with fails := q.fails.set l (FMap.get 0 q.fails l + 1) })
    else if bitsOf w 32 4 ≠ 15 then
      let s := s.cwSet off (putBits (putBits w (4 * l) 4 (bitsOf w 32 4)) 32 4 15)
      .next (s.modPort p fun q => { q with fails := q.fails.set l 0 })
    else .next ((s.modPort p fun q => { q with dead := q.dead ++ [l] }.nextRetrain).showLanes p)

/-! ## Scrubbing -/

/-- What a scrub finds (R468, R470, R471): nothing (0), an error corrected (1), or one that poisons its granule (2). -/
def State.scrub (s : State) (found key off unit : Nat) : State :=
  match found with
  | 1 => s.corrected off unit
  | 2 =>
    let b := poisonOf key
    let s := s.uncorrected off
    { s with poison := if s.poison.contains b then s.poison else b :: s.poison }
  | _ => s

/-- A slice bank scrubs a line (R471): the tile, what it found, the byte. -/
def execSliceScrub (s : State) : Host.Outcome State Fault Refusal :=
  let t := s.arg 0 % 2048
  .next (s.scrub (s.arg 1) (sliceKey t (s.arg 2 % 2 ^ 22)) (0x8000 + 32 * t) t)
/-- A B-store bank scrubs a line (R471). -/
def execBstoreScrub (s : State) : Host.Outcome State Fault Refusal :=
  let t := s.arg 0 % 2048
  .next (s.scrub (s.arg 1) (bstoreKey t (s.arg 2 % 2 ^ 23)) (0x8000 + 32 * t + 8) t)
/-- An HBM channel scrubs a line (R471): the channel, what it found, the offset in the channel. -/
def execHbmScrub (s : State) : Host.Outcome State Fault Refusal :=
  let h := s.arg 0 % 512
  let off := s.arg 2 % 2 ^ 31
  .next (s.scrub (s.arg 1) (s.device h off * 2 ^ 31 + off) (0x18000 + 16 * h) (2048 + h))

/-! ## Lines that move -/

/-- The access as it stands after lines have moved. -/
def Access.moved (a : Access) (f : Nat → Nat) (own : Nat → Nat) : Access :=
  if a.pod.isNone && f a.key != a.key then { a with key := f a.key, owner := own (f a.key) } else a

/-- Bytes move from one location to another as whole lines, one to one: what waits for them, locks them or marks them follows, and
the pairs of what moves go (R479, R488, R490). -/
def State.moveKeys (s : State) (f : Nat → Nat) : State :=
  let own (k : Nat) : Nat := 2048 + s.channelOf (k / 2 ^ 31)
  let line (l : Nat) : Nat := f (64 * l) / 64
  let gone := s.mem.filter fun (c : Host.Cell) => f c.1 != c.1
  { s with
    mem := gone.foldl (fun (m : List Host.Cell) c => FMap.set m (f c.1) c.2) (s.mem.filter fun c => f c.1 == c.1)
    poison := s.poison.map f
    resv := s.resv.map fun (p : Nat × List (Nat × Nat)) => (p.1, p.2.filter fun x => f (8 * x.1) == 8 * x.1)
    gran := s.gran.foldl (fun (m : FMap (List GEntry)) p =>
      FMap.set m (f (8 * p.1) / 8) (p.2.map fun e => { e with acc := e.acc.moved f own })) []
    net := s.net.map fun (m : Nat × Msg) => match m.2 with
      | .access a => (m.1, .access (a.moved f own))
      | x => (m.1, x)
    xfers := s.xfers.map fun x => { x with rlocks := x.rlocks.map line, wlocks := x.wlocks.map fun l => (line l.1, l.2) }
    cores := s.cores.map fun (p : Nat × Core) => (p.1, { p.2 with spec := p.2.spec.map fun e => { e with line := line e.line } }) }

/-! ## Channel copies -/

/-- The spare device channel of a channel's stack (R479). -/
def spareOf (h : Nat) : Nat := 512 + h / 32
/-- A channel copy runs. -/
def State.copying (s : State) : Bool := s.chanMap.any fun p => p.2.2.isSome
/-- A region swap has been asked for, or waits to run. -/
def State.swapping (s : State) : Bool := s.swap.isSome || s.adaptive.isSome

/-- The runtime starts a channel copy (R479): the channel. It needs the stack's spare. -/
def execChannelCopyStart (s : State) : Host.Outcome State Fault Refusal :=
  let h := s.arg 0 % 512
  .next (if s.chanMap.any fun p => p.2.1 == spareOf h then s else { s with chanMap := s.chanMap.set h (spareOf h, some 0) })

/-- A channel copy goes on (R479): the channel, and the offset up to which it has come; the whole channel ends it. -/
def execChannelCopyComplete (s : State) : Host.Outcome State Fault Refusal :=
  let h := s.arg 0 % 512
  match FMap.find h s.chanMap with
  | some (sp, some p) =>
    let q := min (2 ^ 31) (max p (s.arg 1 / 64 * 64))
    let f (k : Nat) : Nat :=
      if k / 2 ^ 31 = h ∧ k < bstoreBase ∧ p ≤ k % 2 ^ 31 ∧ k % 2 ^ 31 < q then sp * 2 ^ 31 + k % 2 ^ 31 else k
    .next { s.moveKeys f with chanMap := s.chanMap.set h (sp, if q = 2 ^ 31 then none else some q) }
  | _ => .next s

/-! ## Checkpoints -/

/-- A context has something on a core that an eviction takes from it: a thread, a granule, skim entries or a home record. -/
def State.present (s : State) (c x : Nat) : Bool :=
  let k := s.core c
  (k.slots.any fun p => p.2.st != .empty && p.2.ctx == x) || (k.arrival.any fun w => w.thr.ctx == x) || (k.mq.any fun o => o.ctx == x) ||
  (k.pool.any fun e => match e with
    | .new t => t.ctx == x
    | .back _ _ t _ => t.ctx == x) ||
  (s.away.any fun a => a.core == c && a.thr.ctx == x) || s.heldGranules c x != [] || (k.homes.any fun r => !r.out && r.ctx == x) ||
  (List.range 8).any fun i => (s.skim x c i).onCore != []
/-- A context has been evicted from a core (R425), or never had anything there. -/
def State.evicted (s : State) (c x : Nat) : Bool :=
  !s.present c x || ((s.core c).out.contains x && s.homeOut c x && s.heldGranules c x == [] &&
    ((s.core c).slots.all fun p => p.2.st == .empty || p.2.ctx != x) && s.away.all fun a => a.core != c || a.thr.ctx != x || a.preempted)

/-- The cores on which something of a context can be: those with state, a thread away, a skim stack or a grant table. -/
def State.coresInUse (s : State) : List Nat :=
  (s.cores.map Prod.fst ++ s.away.map Away.core ++ s.skims.map (fun (p : Nat × Skim) => p.1 / 8 % 4096) ++
    (s.cw.filter fun (p : Nat × Word) => within p.1 0x60000 0x80000).map fun (p : Nat × Word) => (p.1 - 0x60000) / 256).filter fun c => decide (c < 2560)

/-- What R483 asks before a start. -/
def State.checkpointOk (s : State) : Bool :=
  (s.coresInUse.all fun c => (List.range 64).all (s.evicted c)) &&
  (s.net.all fun m => match m.2 with
    | .walk _ => false
    | _ => true) &&
  (s.xfers.all fun x => !x.live) && s.collSt.isEmpty && s.collIn.isEmpty &&
  (s.rings.all fun p => p.2.poles.isEmpty && p.2.perches.isEmpty && p.2.bufPole.isEmpty && p.2.bufPerch.isEmpty) && !s.copying

/-- What the package state image keeps of a core. -/
def Core.saved (k : Core) : SavedCore := {
  queues := k.queues, wide := k.wide, out := k.out, homes := k.homes, ctabs := k.ctabs, xtabs := k.xtabs, views := k.views, pins := k.pins
  serial := k.serial, pool := k.pool }
/-- A core with what an image keeps of it. -/
def Core.load (k : Core) (v : SavedCore) : Core := { k with
  queues := v.queues, wide := v.wide, out := v.out, homes := v.homes, ctabs := v.ctabs, xtabs := v.xtabs, views := v.views, pins := v.pins
  serial := v.serial, pool := v.pool }

/-- The package state image (R483), with what the model keeps of evicted contexts beside memory (R484). -/
def State.snapshot (s : State) : Saved := {
  ctxs := s.cw.filter fun p => within p.1 0x50000 0x1000
  dieTimes := s.dieTimes, pkgTimes := s.pkgTimes, quads := s.quads.map fun p => (p.1, (p.2.times, p.2.bars))
  cores := s.cores.map fun p => (p.1, p.2.saved), wideNets := s.wideNets, groups := s.groups, groupLaunch := s.groupLaunch
  collSt := s.collSt, rings := s.rings, topo := s.topo, poison := s.poison, away := s.away, images := s.images, coreImgs := s.coreImgs
  skims := s.skims, launches := s.launches, dispatch := s.dispatch, spawned := s.spawned, trapvec := s.trapvec, wdog := s.wdog }
/-- The image is loaded, in place of all that it holds. -/
def State.loadSnapshot (s : State) (v : Saved) : State :=
  let s : State := { s with
    cw := s.cw.filter fun p => !within p.1 0x50000 0x1000
    quads := s.quads.map fun p => (p.1, { p.2 with times := [], bars := [] })
    cores := s.cores.map fun p => (p.1, p.2.load (Core.saved {})) }
  let s := v.ctxs.foldl (fun (s : State) p => s.cwSet p.1 p.2) s
  let s := v.quads.foldl (fun (s : State) p => s.modQuad p.1 fun q => { q with times := p.2.1, bars := p.2.2 }) s
  let s := v.cores.foldl (fun (s : State) p => s.modCore p.1 fun k => k.load p.2) s
  { s with
    dieTimes := v.dieTimes, pkgTimes := v.pkgTimes, wideNets := v.wideNets, groups := v.groups, groupLaunch := v.groupLaunch
    collSt := v.collSt, rings := v.rings, topo := v.topo, poison := v.poison, away := v.away, images := v.images, coreImgs := v.coreImgs
    skims := v.skims, launches := v.launches, dispatch := v.dispatch, spawned := v.spawned, trapvec := v.trapvec, wdog := v.wdog }

/-- The image's bytes in the top 256 MiB of HBM (R483): how many, and what, the spec does not say. -/
def State.writeImage (s : State) : State :=
  let (n, s) := s.nextFree
  (List.range (Config.freeNat n % 2 ^ 28)).foldl (fun s i =>
    let (c, s) := s.nextFree
    s.setByte (s.hbmLoc (2 ^ 40 - 2 ^ 28 + i)).key (BitVec.ofNat 8 (Config.freeNat c))) s

/-- A checkpoint or a restore starts, waits for a region swap, or is refused (R483, R490). -/
def State.startCkpt (s : State) (i : Instr) (restore : Bool) : State :=
  if s.ckpt.state = 1 then s
  else if s.swapping then { s with agenda := s.agenda ++ [(i, [])] }
  else if !s.checkpointOk then { s with ckpt := { s.ckpt with state := 3 } }
  else
    let c : Ckpt := { state := 1, restore := restore, pages := 0, sent := 0, dropped := []
                      saved := if restore then FMap.find (s.cwGet 0x1010).toNat s.tier else some s.snapshot }
    let s := { s with ckpt := c }
    if restore then s else s.writeImage
/-- `CHECKPOINT_START` (R483). -/
def execCheckpointStart (s : State) : Host.Outcome State Fault Refusal := s.whenServed fun s => s.startCkpt .checkpointStart false
/-- `RESTORE_START` (R483). -/
def execRestoreStart (s : State) : Host.Outcome State Fault Refusal := s.whenServed fun s => s.startCkpt .restoreStart true

/-- The 4 KiB units of HBM. -/
def ckptPages : Nat := 2 ^ 28
/-- The ports that carry the stream (R483): named in Ports, in service, and not dropped from it. -/
def State.ckptPorts (s : State) : List Nat :=
  (List.range 12).filter fun p => (s.cwGet 0x1000).getLsbD p && s.inService p && s.portMode p != 3 && !s.ckpt.dropped.contains p
/-- A unit goes to the far end as flits (R457), to be written with its bytes, or as a request to read it. The units take the stream's ports
in turn: DESIGN CHOICE (log entry 111); with none that takes flits, the stream waits. -/
def State.sendPage (s : State) : State :=
  let n := s.ckpt.sent
  match s.ckptPorts[n % s.ckptPorts.length]? with
  | none => s
  | some port =>
    if (s.lanesUp port).isEmpty then s else
    let ea := (s.cwGet 0x1010).toNat + 4096 * n
    let bs : List Byte := if s.ckpt.restore then [] else (List.range 4096).map fun i => s.byte (s.hbmLoc (4096 * n + i)).key
    let m : PodMsg := {
      dst := ea / 2 ^ 48 % 4096, src := s.selfCube, cls := 0, ver := 0
      bytes := (if s.ckpt.restore then (19 : Byte) else 18) :: leBytes ea 8 ++ bs }
    ({ s with ckpt := { s.ckpt with sent := n + 1 } } : State).sendWhole port m
/-- A unit has been performed: at the far end, or here with the bytes that came back. With the last the sequencer is done. -/
def State.pageDone (s : State) (bs : List Byte) : State :=
  let n := s.ckpt.pages
  let s := if s.ckpt.restore then
      (List.range 64).foldl (fun s i => s.storeTo (s.hbmLoc (4096 * n + 64 * i)).key 64 allBytes (leNat ((bs.drop (64 * i)).take 64))) s
    else s
  let last := n + 1 = ckptPages
  let s := { s with ckpt := { s.ckpt with pages := n + 1, state := if last then 2 else 1 } }
  match s.ckpt.saved, decide last with
  | some v, true => if s.ckpt.restore then s.loadSnapshot v else { s with tier := s.tier.set (s.cwGet 0x1010).toNat v }
  | _, _ => s

/-- The sequencer goes on (R483): 0 sends the next unit, 1 is a unit performed with the bytes of a restore, 2 a failure at the far
end. -/
def execCheckpointComplete (s : State) : Host.Outcome State Fault Refusal :=
  if s.ckpt.state ≠ 1 then .next s else
  match s.arg 0 with
  | 0 => .next (if s.ckpt.sent < ckptPages then s.sendPage else s)
  | 1 => .next (if s.ckpt.pages < s.ckpt.sent then s.pageDone ((s.args.drop 1).map fun n => BitVec.ofNat 8 n) else s)
  | _ => .next { s with ckpt := { s.ckpt with state := 4 } }

end Sys2Proof.Machine
end

