-- ==== Sys2Proof/Machine/Power.lean ====
section
/-!
DEFINITION. Bring-up, the bushel, heat, memory health, firmware and identity (spec/22, R481, R482; spec/23, R485 to R493; R35,
R233, R440).
-/

namespace Sys2Proof.Machine

/-! ## Bring-up -/

/-- `POWER_ON_RESET` (R481): every register at its reset value; what is in flash stays, and so do the outside world's requests
and what it has been sent. -/
def execPowerOnReset (s : State) : Host.Outcome State Fault Refusal :=
  .next { State.reset with
    flash := s.flash, agenda := s.agenda, hostIn := s.hostIn, outputs := s.outputs, tier := s.tier, fresh := s.fresh }

/-- The checks of R491 on an image. -/
def firmwareOk (img : List Byte) : Bool :=
  let part (at_ n : Nat) : List Byte := (img.drop at_).take n
  let zero (at_ n : Nat) : Bool := (part at_ n).all (· == 0)
  let kind := field img 4 1
  decide (256 ≤ img.length) && field img 0 4 == 0x57524653 && decide (kind < 4) && zero 5 3 && zero 112 16 && zero 192 64 &&
  field img 12 4 == img.length - 256 && sha512 (part 16 32) == Config.fusedKeyHash && part 48 64 == sha512 (img.drop 256) &&
  edVerify (part 16 32) (part 0 128) (part 128 64) && decide (Config.fusedSvn kind ≤ field img 8 4)

/-- The firmware of a Kind with which the module left the factory. -/
def factoryImage (kind : Nat) : Firmware := { svn := (Config.factoryFirmware kind).1, digest := (Config.factoryFirmware kind).2 }
/-- An image of a Kind in flash that the root of trust does not accept at a boot (R491). -/
def State.refusedImage (s : State) (kind : Nat) : Bool := match FMap.find kind s.flash with
  | some f => !firmwareOk f.body
  | none => false
/-- The firmware of a Kind that a boot takes (R491): from flash, when it is accepted again, or as the module left the factory. -/
def State.bootImage (s : State) (kind : Nat) : Firmware :=
  if s.refusedImage kind then factoryImage kind else FMap.get (factoryImage kind) s.flash kind

/-- The screed boots (R481, R491): the firmware of every Kind is verified again, one that is refused is not taken and management is
notified, and unless that is the screed's the layers begin to calibrate. A first argument of 1 says that the factory's firmware passes,
where flash holds none. -/
def execScreedBoot (s : State) : Host.Outcome State Fault Refusal :=
  if s.bring.screed then .next s else
  let bad := (List.range 4).filter s.refusedImage
  let s := bad.foldl (fun s k => s.tell 5 k 0) s
  if bad.contains 0 then .next s
  else if (FMap.find 0 s.flash).isNone ∧ s.arg 0 ≠ 1 then .next (s.tell 5 0 0) else
  let s := { s with running := (List.range 4).map fun k => (k, s.bootImage k) }
  .next { s with bring := { s.bring with
    screed := true, layers := s.bring.layers.map fun n => if n = 0 then 1 else n } }

/-- A layer that has passed its tests joins when every layer below it has (R481). -/
def State.joinLayer (s : State) (y : Nat) : State :=
  let b := s.bring
  if 4 ≤ b.layers.getD y 0 ∧ (List.range y).all s.joined then
    { s with bring := { b with
      layers := b.layers.set y 2, bstore := b.layers.getD y 0 == 9 && (b.bstore || !(List.range 8).any s.joined) } }
  else s

/-- A row maps out the tile at a physical column (R477, R481): the first takes the spare's place in Skip, a second one has no tile. The
map stands in the active tables too, since the layer has no traffic yet: DEDUCED (log entry 83). -/
def State.mapOut (s : State) (z y col : Nat) : State :=
  let off := 0x2000 + 8 * (16 * z + y)
  let w := s.cwGet off
  let skip := bitsOf w 0 5
  let w' := if col = skip ∨ 16 < col then w else if skip = 16 then putBits w 0 5 col
    else putBits (putBits w 8 4 (if col < skip then col else col - 1)) 15 1 1
  { s.cwSet off w' with topo := s.topo.set off w' }

/-- A layer's tests end (R481): the layer, 1 when it passed, 1 when its B-stores are calibrated, then the rows and physical columns of
failing tiles, which are mapped out. It fails, or it joins once those below it have, and those above it that waited for it join with it. -/
def execLayerJoin (s : State) : Host.Outcome State Fault Refusal :=
  let z := s.arg 0 % 8
  let s := if s.bring.layers.getD z 0 = 1 then (pairs (s.args.drop 3)).foldl (fun s t => s.mapOut z (t.1 % 16) t.2) s else s
  let b := s.bring
  if b.layers.getD z 0 ≠ 1 then .next s
  else if s.arg 1 ≠ 1 then .next { s with bring := { b with layers := b.layers.set z 3 } }
  else
    let s' := { s with bring := { b with layers := b.layers.set z (if s.arg 2 = 1 then 9 else 5) } }
    .next ((List.range 8).foldl State.joinLayer s')

/-- `BSTORE_CALIBRATION_DONE` (R481). -/
def execBstoreCalibrationDone (s : State) : Host.Outcome State Fault Refusal :=
  .next (if (List.range 8).any s.joined then { s with bring := { s.bring with bstore := true } } else s)

/-- Full service begins (R482): at a multiple of 2^20 cycles, every layer joined and the B-stores calibrated. -/
def execFullServiceBegin (s : State) : Host.Outcome State Fault Refusal :=
  .next (if s.cycle % 2 ^ 20 = 0 ∧ (List.range 8).all s.joined ∧ s.bring.bstore then
    { s with bring := { s.bring with full := true } } else s)

/-! ## The bushel -/

/-- The part of a core: its layer, or 8 for the screed (R486). -/
def partOf (c : Nat) : Nat := if isTile c then tileZ c else 8
/-- THERMSTAT's throttle level of a layer (R485). -/
def State.throttle (s : State) (z : Nat) : Nat := bitsOf (s.cwGet 0x1110) (3 * z) 3
/-- The weight of a part (R486). -/
def State.weight (s : State) (p : Nat) : Nat :=
  if p = 8 then bitsOf (s.cwGet 0x1100) 48 8 else bitsOf (s.cwGet 0x1108) (8 * p) 8 / 2 ^ s.throttle p
/-- Slots of a part that hold a thread. -/
def State.threadsOf (s : State) (p : Nat) : Nat :=
  ((s.cores.filter fun c => partOf c.1 == p).map fun c => (c.2.slots.filter fun q => q.2.st != .empty).length).foldl (· + ·) 0

/-- The Grant of a slot of a part that holds a thread (R486), and the debt that stays, from the activates of the period. -/
def State.shares (s : State) (acts : Nat) : List Nat × Nat :=
  let total := bitsOf (s.cwGet 0x1100) 0 32
  let debt := s.debt + bitsOf (s.cwGet 0x1100) 56 8 * acts
  if total ≤ debt then (List.replicate 9 0, debt - total) else
  let r := total - debt
  let w := (List.range 9).map s.weight
  let sum := w.foldl (· + ·) 0
  ((List.range 9).map fun p =>
    let n := s.threadsOf p
    if sum = 0 ∨ n = 0 then 0 else min 65535 (r * w.getD p 0 / sum / n), 0)

/-- EBUDGET after a refill with a Grant (R231, R233). -/
def refilled (w : Word) (grant : Nat) : Word :=
  let cap := bitsOf w 32 16
  word (cap * 2 ^ 32 + grant * 2 ^ 16 + min cap (bitsOf w 0 16 + grant))

/-- The most activates that the regulators let fall into a refill period (R487): MaxActs of each stack, for as many of its windows as the
period's screed cycles may span (R29). -/
def State.actsBound (s : State) : Nat :=
  let period := if s.bring.full then 192 else 384
  ((List.range 16).map fun k =>
    let w := s.cwGet (0x1200 + 8 * k)
    let win := 2 ^ bitsOf w 0 5
    bitsOf w 16 16 * ((period + win - 1) / win)).foldl (· + ·) 0
/-- Every slot's Cap as the runtime's configuration gives it (R233, R486). -/
def State.setCaps (s : State) (cap : Nat) : State :=
  (List.range 2560).foldl (fun s c => s.modCore c fun k => { k with
    ebudget := (List.range 8).map fun i => (i, putBits (k.ebud i) 32 16 (cap % 2 ^ 16)) }) s

/-- The refill (R233, R486), at every multiple of 256 cycles. The activates of the last period are free within what the regulators allow
(R487): the spec does not say which accesses activate a row. With an argument, the controller changes every Cap then, as the runtime's
configuration says. -/
def execEbudgetRefill (s : State) : Host.Outcome State Fault Refusal :=
  if s.cycle % 256 ≠ 0 then .next s else
  if s.args ≠ [] then .next (s.setCaps (s.arg 0)) else
  let (n, s) := s.nextFree
  let (shares, debt) := s.shares (Config.freeNat n % (s.actsBound + 1))
  let s := { s with debt := debt }
  .next ((List.range 2560).foldl (fun s c => s.modCore c fun k => { k with
    ebudget := (List.range 8).map fun i =>
      (i, refilled (k.ebud i) (if (k.slot i).st != .empty then shares.getD (partOf c) 0 else 0)) }) s)

/-! ## Heat -/

/-- The power controller sets a layer's throttle level (R35, R485): the layer and the level. -/
def execThermalThrottle (s : State) : Host.Outcome State Fault Refusal :=
  .next (if s.arg 1 ≤ 4 then s.cwSet 0x1110 (putBits (s.cwGet 0x1110) (3 * (s.arg 0 % 8)) 3 (s.arg 1)) else s)
/-- A sensor passes its trip point (R35, R493): the layer. No layer issues while Trip stands. -/
def execThermalTrip (s : State) : Host.Outcome State Fault Refusal :=
  .next ((s.cwSet 0x1110 (s.cwGet 0x1110 ||| (1#64 <<< 24))).tell 1 (s.arg 0 % 8) 0)
/-- Issue is stopped on the layers. -/
def State.tripped (s : State) : Bool := (s.cwGet 0x1110).getLsbD 24

/-! ## Region swaps -/

/-- The sums of the channels' region counts. -/
def State.channelSums (s : State) : List Nat :=
  let m : FMap Nat := s.regionCnt.foldl (fun (m : FMap Nat) p => FMap.set m (p.1 / 1024) (FMap.get 0 m (p.1 / 1024) + p.2)) []
  (List.range 512).map fun h => FMap.get 0 m h
/-- The first place of the greatest number, and of the least. -/
def argMax (l : List Nat) : Nat := l.findIdx (· == l.foldl max 0)
/-- See `argMax`. -/
def argMin (l : List Nat) : Nat := l.findIdx (· == l.foldl min (l.headD 0))

/-- The adaptive swap that the counts ask for (R489). -/
def State.adaptiveSwap (s : State) : Option (Nat × Nat × Nat × Nat) :=
  let w := s.cwGet 0x1300
  let sums := s.channelSums
  let hot := argMax sums
  let cold := argMin sums
  let mean := sums.foldl (· + ·) 0 / 512
  if !w.getLsbD 62 || s.swapping || !decide (mean / 2 ^ bitsOf w 58 4 < sums.getD hot 0 - sums.getD cold 0) then none else
  let counts (h : Nat) : List Nat := (List.range 1024).map fun r => FMap.get 0 s.regionCnt (h * 1024 + r)
  some (hot, argMax (counts hot), cold, argMin (counts cold))

/-- The region counts are halved (R440), just after the adaptive swap has been chosen (R489). -/
def execRegionCountHalving (s : State) : Host.Outcome State Fault Refusal :=
  let a := s.adaptiveSwap
  .next { s with
    adaptive := s.adaptive.or a
    regionCnt := (s.regionCnt.map fun (p : Nat × Nat) => (p.1, p.2 / 2)).filter fun p => p.2 != 0 }

/-- The entry of the region remap that names a location (R488): the table is one to one. -/
def State.entryFor (s : State) (loc : Nat) : Nat :=
  match s.remap.find? fun p => p.2 == loc with
  | some p => p.1
  | none => loc

/-- A region holds a lock or an atomic (R490). -/
def State.regionBusy (s : State) (base : Nat) : Bool :=
  let inside (k : Nat) : Bool := decide (base ≤ k) && decide (k < base + 2 ^ 21)
  (s.xfers.any fun x => x.live && (x.rlocks ++ x.wlocks.map Prod.fst).any fun l => inside (64 * l)) ||
  s.gran.any fun p => !p.2.isEmpty && inside (8 * p.1)

/-- The first byte of a device location's region. -/
def State.regionBase (s : State) (ch reg : Nat) : Nat := s.device ch (reg * 2 ^ 21) * 2 ^ 31 + reg * 2 ^ 21

/-- Two locations exchange their lines and their entries (R488, R490). -/
def State.exchange (s : State) (ca ra cb rb : Nat) : State :=
  let a := s.regionBase ca ra
  let b := s.regionBase cb rb
  let f (k : Nat) : Nat :=
    if a ≤ k ∧ k < a + 2 ^ 21 then b + (k - a) else if b ≤ k ∧ k < b + 2 ^ 21 then a + (k - b) else k
  let la := ca * 1024 + ra
  let lb := cb * 1024 + rb
  let ea := s.entryFor la
  let eb := s.entryFor lb
  { s.moveKeys f with remap := FMap.set (FMap.set s.remap ea lb) eb la }

/-- A region swap runs (R490): 0 the requested one, 1 the adaptive one. -/
def execRemapSwapRun (s : State) : Host.Outcome State Fault Refusal :=
  match if s.arg 0 = 0 then s.swap else s.adaptive with
  | none => .next s
  | some (ca, ra, cb, rb) =>
    if s.ckpt.state = 1 || s.copying || s.regionBusy (s.regionBase ca ra) || s.regionBusy (s.regionBase cb rb) then .next s else
    let s := s.exchange ca ra cb rb
    .next (if s.arg 0 = 0 then { s.cwSet 0x1300 (putBits (s.cwGet 0x1300) 63 1 0) with swap := none } else { s with adaptive := none })

/-! ## Identity and firmware -/

/-- The report of R492 but for its signature: of each Kind the firmware that runs, and of one that has not booted the factory's (log
entry 80). -/
def State.report (s : State) : List Byte :=
  let f (k : Nat) : Firmware := FMap.get (factoryImage k) s.running k
  s.nonce.take 32 ++ leBytes s.selfCube 2 ++ leBytes s.groupSlot 2 ++ List.replicate 4 0 ++
  (List.range 16).map (fun i => Config.serial.getD i 0) ++ leBytes s.bringWord.toNat 8 ++
  (List.range 4).flatMap (fun k => leBytes (f k).svn 4) ++
  (List.range 4).flatMap fun k => (List.range 64).map fun i => (f k).digest.getD i 0
/-- The report of the last nonce is ready (R492), once all of that has been written. -/
def execAttestReportReady (s : State) : Host.Outcome State Fault Refusal :=
  if s.nonceMask ≠ 255 then .next s else
  let r := s.report
  let bs := r ++ (List.range 64).map fun i => (Config.identitySign r).getD i 0
  let s := (List.range 50).foldl (fun s i => s.cwSet (0x40100 + 8 * i) (word (leNat ((bs.drop (8 * i)).take 8)))) s
  .next { s.cwSet 0x40020 1 with nonceMask := 0 }

/-- An image written through the update mailbox (R491): its bytes. It is checked now and again at the next boot, and takes effect
there; one that fails is refused with a notice. -/
def execFirmwareUpdateWrite (s : State) : Host.Outcome State Fault Refusal :=
  let img : List Byte := s.args.map fun n => BitVec.ofNat 8 n
  let kind := field img 4 1
  .next (if firmwareOk img then
    { s with flash := s.flash.set kind { svn := field img 8 4, digest := (img.drop 48).take 64, body := img } }
  else s.tell 5 kind 0)

end Sys2Proof.Machine
end

