-- ==== Sys2Proof/Machine/Reversible.lean ====
section
/-!
DEFINITION. Forward instructions and their undos (spec/09_reversible_instructions.md, R243 to R249).
-/

namespace Sys2Proof.Machine

/-- The fields of a forward instruction that its entry records (R240). -/
structure Fwd where
  op : Nat
  vd : VSpec
  va : VSpec
  vb : BitVec 6
  k : KReg
  x : BitVec 11
  deriving DecidableEq, Repr

/-- The tag of an entry (R240). -/
def Fwd.tag (i : Fwd) (mode : Nat) (aux mask : Word) (last : Nat) (lastValid : Bool) : Nat :=
  let m := if mode = 8 then 0 else if mode = 4 then 1 else 2
  mask.toNat + aux.toNat * 2 ^ 64 + i.op * 2 ^ 128 + i.vd.toNat * 2 ^ 136 + i.va.toNat * 2 ^ 142 + i.vb.toNat * 2 ^ 148 +
  i.k.toNat * 2 ^ 154 + m * 2 ^ 157 + i.x.toNat * 2 ^ 160 + last * 2 ^ 171 + (if lastValid then 2 ^ 176 else 0)

/-- The bits of a tag that an undo compares: op, vd, va, vb, k, mode and x (R244). -/
def tagKey (tag : Nat) : Nat := tag / 2 ^ 128 % 2 ^ 43 - tag / 2 ^ 159 % 2 * 2 ^ 31

/-- Push an entry, the oldest on core spilled first when eight are there (R241, R243). -/
def State.skimPush (s : State) (i : Fwd) (aux mask : Word) (rem : Nat) : Res := do
  let t := s.thr
  let (c, sl) := (s.cur.core, s.cur.slot)
  let s ← if 8 ≤ (s.skim t.ctx c sl).onCore.length then s.spillOldest t.ctx c sl else .ok s
  let k := s.mySkim
  let img := BitVec.ofNat 768 (rem % 2 ^ 512 + 2 ^ 512 * i.tag s.here.mode aux mask k.last k.lastValid)
  .ok (s.setMySkim { k with onCore := (k.depth, img) :: k.onCore, depth := k.depth + 1, bad := FMap.del k.depth k.bad })

/-- Remainders of the active elements, mw bits each (R243). -/
def remBits (w mw : Nat) (m : Word) (n : Nat) (f : Nat → Nat) : Nat :=
  (List.range n).foldl (fun b i => if active w m i then b + f i % 2 ^ mw * 2 ^ (mw * i) else b) 0

/-- EFMT as Aux records it (R240). -/
def State.auxEfmt (s : State) : Word := s.src.ctl.efmt &&& 0xFFFF
/-- The environment that a recorded EFMT gives: a Width of 10 or 11 reads as 00 (R242). -/
def auxEnv (aux : Word) : VEnv := vEnv 0 aux

/-- How a pair runs under an environment: the width and count of vd's elements, the width and count of va's, and the width of
a remainder (R243 to R249). -/
structure PairShape where
  wd : Nat
  nd : Nat
  wa : Nat
  na : Nat
  mw : Nat
  deriving DecidableEq, Repr

/-- A forward instruction (R243): which elements take a stochastic word, the result of each, and the remainder of each from its
result. -/
def forward (i : Fwd) (p : PairShape) (aux : Word) (take : Nat → Bool) (res : Nat → Nat → Nat × Flags)
    (rem : Nat → Nat → Nat) (s : State) : Res := do
  if s.srcSkim.capacity ≤ s.srcSkim.depth then .error (bad .skimOverflow) else
  let m := s.rk i.k
  let a := eachElem p.wd m (s.rv i.vd) take res (List.range p.nd) { lfsr := s.env.lfsr }
  let out := BitVec.ofNat 512 a.bits
  let r := remBits p.wd p.mw m p.na fun j => rem j (elemAt p.wd out j)
  let s ← s.skimPush i aux m r
  .ok (s.vdone i.vd a)

/-- The elements of va that an undo writes, and the flags (R244). -/
def undoElems (p : PairShape) (mask : Word) (d old : Line) (rem : Nat) (inv : Nat → Nat → Nat → Nat × Flags) : VAcc :=
  (List.range p.na).foldl (fun (a : VAcc) j =>
    if active p.wd mask j then
      let (v, fl) := inv j (elemAt p.wd d j) (rem / 2 ^ (p.mw * j) % 2 ^ p.mw)
      ⟨a.bits + v % 2 ^ p.wa * 2 ^ (p.wa * j), a.flags ||| fl, 0⟩
    else { a with bits := a.bits + elemAt p.wa old j * 2 ^ (p.wa * j) }) {}

/-- An undo (R244): the shape and the inverse follow from the recorded Aux; the inverse of element j takes vd's element and the
remainder. -/
def undo (i : Fwd) (shape : Word → PairShape) (inv : Word → Nat → Nat → Nat → Nat × Flags) (s : State) : Res := do
  if s.thr.speculative then .error (bad .skimOrder) else
  let k := s.mySkim
  if k.depth = 0 then .error (bad .skimUnderflow) else
  let (img, s) ← s.skimTop s.thr.ctx s.cur.core s.cur.slot
  let tag := img.toNat / 2 ^ 512
  if tagKey tag ≠ tagKey (i.tag s.here.mode 0 0 0 false) then .error (bad .skimOrder) else
  let aux := word (tag / 2 ^ 64)
  let a := undoElems (shape aux) (word tag) (s.rv i.vd) (s.rv i.va) (img.toNat % 2 ^ 512) (inv aux)
  let s := s.setMySkim (s.mySkim.fall (k.depth - 1))
  .ok ((s.wv i.va (BitVec.ofNat 512 a.bits)).addFlags a.flags)

/-- The shape of a pair whose elements all have format F under an environment. -/
def VEnv.shape (v : VEnv) (f : Fmt) (mw : Nat) : PairShape := ⟨v.w f, v.n f, v.w f, v.n f, mw⟩

/-! ## Shift -/

/-- The entry of a shift (R245). -/
def fwdSra (vd va : VSpec) (k : KReg) (f : Fmt) (amt : BitVec 6) : Fwd := ⟨0xE4, vd, va, 0, k, amt ++ f.toBits⟩
/-- `rvsra` (R245): beyond the width of the packed format it is refused at check 7. -/
def execRvsra (vd va : VSpec) (k : KReg) (f : Fmt) (amt : BitVec 6) (e : Energy) (s : State) :=
  run (.rvsra vd va k f amt e) s fun s =>
    let v := s.env
    let n := amt.toNat
    if v.w f ≤ n then .error (bad .illegalOp) else
    forward (fwdSra vd va k f amt) (v.shape f n) s.auxEfmt (fun _ => false)
      (fun j _ => (VShift.sra.apply (v.w f) (s.el va f j) n, fNone)) (fun j _ => s.el va f j % 2 ^ n) s
/-- `unsra` (R245). DESIGN CHOICE (log entry 130): an amount that no packed width allows is refused before the stack is looked at. -/
def execUnsra (vd va : VSpec) (k : KReg) (f : Fmt) (amt : BitVec 6) (e : Energy) (s : State) :=
  run (.unsra vd va k f amt e) s fun s =>
    let n := amt.toNat
    if f.maxWidth ≤ n then .error (bad .illegalOp) else
    undo (fwdSra vd va k f amt) (fun aux => (auxEnv aux).shape f n)
      (fun aux _ d m => (d * 2 ^ n % 2 ^ (auxEnv aux).w f ||| m, fNone)) s

/-! ## Product -/

/-- The entry of a product (R246). -/
def fwdMul (vd va : VSpec) (b : GSpec) (k : KReg) (f : Fmt) : Fwd := ⟨0xE0, vd, va, b.setWidth 6, k, f.toBits.setWidth 11⟩
/-- `rvmul` (R246). -/
def execRvmul (vd va : VSpec) (b : GSpec) (k : KReg) (f : Fmt) (e : Energy) (s : State) :=
  run (.rvmul vd va b k f e) s fun s =>
    let v := s.env
    let w := v.w f
    let c := ival f.isSigned w ((s.rg b).toNat % 2 ^ w)
    if c = 0 then .error (bad .illegalOp) else
    let p (j : Nat) : Nat := wrapI (2 * w) (ival f.isSigned w (s.el va f j) * c)
    forward (fwdMul vd va b k f) (v.shape f w) (s.rg b) (fun _ => false)
      (fun j _ => (p j % 2 ^ w, fNone)) (fun j _ => p j / 2 ^ w) s
/-- One quotient of `unmul` (R246): `free` is the quotient by an overwritten scale of zero, which the spec does not state. -/
def unmulEl (sg : Bool) (w c free p : Nat) : Nat × Flags :=
  let p := ival sg (2 * w) p
  let c := ival sg w c
  let q : Int := if c = 0 then free else p.tdiv c
  (wrapI w q, if q * c = p then fNone else fRange)
/-- `unmul` (R246). -/
def execUnmul (vd va : VSpec) (b : GSpec) (k : KReg) (f : Fmt) (e : Energy) (s : State) :=
  run (.unmul vd va b k f e) s fun s =>
    let n0 := s.fresh
    let w (aux : Word) : Nat := (auxEnv aux).w f
    undo (fwdMul vd va b k f) (fun aux => (auxEnv aux).shape f (w aux))
      (fun aux j d m => unmulEl f.isSigned (w aux) (aux.toNat % 2 ^ w aux) (Config.freeNat (n0 + j)) (m * 2 ^ w aux + d))
      { s with fresh := n0 + 128 }

/-! ## Narrowing -/

/-- The entry of a narrowing (R247). -/
def fwdCvt (vd va : VSpec) (k : KReg) (fd fs : Fmt) : Fwd := ⟨0xE2, vd, va, 0, k, (fs.toBits ++ fd.toBits).setWidth 11⟩
/-- The shape of a narrowing. -/
def cvtShape (v : VEnv) (fd fs : Fmt) : PairShape := ⟨v.w fd, v.n fd, v.w fs, v.n fs, v.w fs⟩
/-- Widen (R247). -/
def widen (v : VEnv) (fd fs : Fmt) (d : Nat) : Nat :=
  if (v.cf fs).isBlock && scaleExp v.sb == 63 then 0 else (convert (v.cf fs) (v.cf fd) v.sb .rne 0 d).1
/-- `rvcvt` (R247). -/
def execRvcvt (vd va : VSpec) (k : KReg) (fd fs : Fmt) (e : Energy) (s : State) :=
  run (.rvcvt vd va k fd fs e) s fun s =>
    let v := s.env
    if v.w fs ≤ v.w fd || !scaleOk (v.cf fd) (v.cf fs) v.sb then .error (bad .illegalOp) else
    let n := v.n fs
    forward (fwdCvt vd va k fd fs) (cvtShape v fd fs) s.auxEfmt
      (fun j => v.sr && (v.cf fd).rounds (v.cf fs) && decide (j < n))
      (fun j u => if j < n then convert (v.cf fd) (v.cf fs) v.sb v.rm u (s.el va fs j) else (0, fNone))
      (fun j r => s.el va fs j ^^^ widen v fd fs r) s
/-- `uncvt` (R247). DESIGN CHOICE (log entry 130): a pair that no packed width allows is refused before the stack is looked at. -/
def execUncvt (vd va : VSpec) (k : KReg) (fd fs : Fmt) (e : Energy) (s : State) :=
  run (.uncvt vd va k fd fs e) s fun s =>
    if !canRelate (fun d s => decide (d < s)) fd fs then .error (bad .illegalOp) else
    undo (fwdCvt vd va k fd fs) (fun aux => cvtShape (auxEnv aux) fd fs)
      (fun aux _ d m => (widen (auxEnv aux) fd fs d ^^^ m, fNone)) s

/-! ## Scale -/

/-- The entry of a scale (R248). -/
def fwdScl (vd va vb : VSpec) (k : KReg) (f : Fmt) : Fwd := ⟨0xE6, vd, va, vb, k, f.toBits.setWidth 11⟩
/-- Descale (R248). -/
def descale (c : CFmt) (sb r : Nat) : Nat :=
  match c with
  | .flt f =>
    if scaleExp sb = 63 then (f.round .rne 0 .dnan).1
    else (f.round .rne 0 ((f.value r).scale (32 - (scaleExp sb : Int)))).1
  | .int _ _ | .blk _ | .quad => 0
/-- `rvscl` (R248). -/
def execRvscl (vd va vb : VSpec) (k : KReg) (f : Fmt) (e : Energy) (s : State) :=
  run (.rvscl vd va vb k f e) s fun s =>
    let v := s.env
    let sb := (s.rv vb).toNat % 256
    if scaleType sb ≠ 0 then .error (bad .illegalOp) else
    forward (fwdScl vd va vb k f) (v.shape f (v.w f)) (word sb) (fun _ => v.sr)
      (fun j u => match v.cf f with
        | .flt ff => sclEl ff v.rm u sb (s.el va f j)
        | .int _ _ | .blk _ | .quad => (0, fNone))
      (fun j r => s.el va f j ^^^ descale (v.cf f) sb r) s
/-- `unscl` (R248). -/
def execUnscl (vd va vb : VSpec) (k : KReg) (f : Fmt) (e : Energy) (s : State) :=
  run (.unscl vd va vb k f e) s fun s =>
    undo (fwdScl vd va vb k f) (fun _ => s.env.shape f (s.env.w f))
      (fun aux _ d m => (descale (s.env.cf f) (aux.toNat % 256) d ^^^ m, fNone)) s

/-! ## Leaky activation -/

/-- The entry of an activation (R249). -/
def fwdAct (vd va : VSpec) (k : KReg) (f : Fmt) (sh : BitVec 5) : Fwd := ⟨0xE8, vd, va, 0, k, (sh ++ f.toBits).setWidth 11⟩
/-- One activation (R249). -/
def actEl (c : CFmt) (rm : RMode) (u sh a : Nat) : Nat × Flags :=
  match c with
  | .int _ w => (if a < 2 ^ (w - 1) then a else VShift.sra.apply w a sh, fNone)
  | .flt f =>
    match f.value a with
    | .nan s p => ((f.nanCode s p).1, fNone)
    | .fin true m e => f.round rm u (.fin true m (e - sh))
    | .fin false _ _ | .inf _ => (a, fNone)
  | .blk _ | .quad => (0, fNone)
/-- Inv0 (R249). -/
def actInv (c : CFmt) (sh r : Nat) : Nat :=
  match c with
  | .int _ w => if r < 2 ^ (w - 1) then r else r * 2 ^ sh % 2 ^ w
  | .flt f => if r < 2 ^ (f.width - 1) then r else (f.round .rne 0 ((f.value r).scale sh)).1
  | .blk _ | .quad => 0
/-- The activation of an element rounds, and so takes a stochastic word (R249): its sign bit is 1 and it is no NaN. -/
def actRounds (c : CFmt) (a : Nat) : Bool :=
  match c with
  | .flt f => decide (2 ^ (f.width - 1) ≤ a) && !(f.value a).isNan
  | .int _ _ | .blk _ | .quad => false
/-- `rvact` (R249). -/
def execRvact (vd va : VSpec) (k : KReg) (f : Fmt) (sh : BitVec 5) (e : Energy) (s : State) :=
  run (.rvact vd va k f sh e) s fun s =>
    let v := s.env
    if f = .pk ∧ !v.pks then .error (bad .illegalOp) else
    forward (fwdAct vd va k f sh) (v.shape f (v.w f)) s.auxEfmt
      (fun j => v.sr && actRounds (v.cf f) (s.el va f j))
      (fun j u => actEl (v.cf f) v.rm u sh.toNat (s.el va f j))
      (fun j r => s.el va f j ^^^ actInv (v.cf f) sh.toNat r) s
/-- `unact` (R249). -/
def execUnact (vd va : VSpec) (k : KReg) (f : Fmt) (sh : BitVec 5) (e : Energy) (s : State) :=
  run (.unact vd va k f sh e) s fun s =>
    undo (fwdAct vd va k f sh) (fun aux => (auxEnv aux).shape f ((auxEnv aux).w f))
      (fun aux _ d m => (actInv ((auxEnv aux).cf f) sh.toNat d ^^^ m, fNone)) s

end Sys2Proof.Machine
end

