-- ==== Sys2Proof/Machine/Dispatch.lean ====
section
/-!
DEFINITION. The one match from an instruction to its meaning.
-/

namespace Sys2Proof.Machine

/-- The meaning of every row of spec/opcode_table.json. -/
def exec (i : Instr) (s : State) : Host.Outcome State Fault Refusal :=
  match i with
  | .powerOnReset => Sys2Proof.Machine.execPowerOnReset s
  | .screedBoot => Sys2Proof.Machine.execScreedBoot s
  | .layerJoin => Sys2Proof.Machine.execLayerJoin s
  | .bstoreCalibrationDone => Sys2Proof.Machine.execBstoreCalibrationDone s
  | .fullServiceBegin => Sys2Proof.Machine.execFullServiceBegin s
  | .nop => Sys2Proof.Machine.execNop s
  | .yield => Sys2Proof.Machine.execYield s
  | .end_ => Sys2Proof.Machine.execEnd s
  | .ret a => Sys2Proof.Machine.execRet a s
  | .tret => Sys2Proof.Machine.execTret s
  | .trap code => Sys2Proof.Machine.execTrap code s
  | .br disp => Sys2Proof.Machine.execBr disp s
  | .call d disp => Sys2Proof.Machine.execCall d disp s
  | .jmp a => Sys2Proof.Machine.execJmp a s
  | .calli d a => Sys2Proof.Machine.execCalli d a s
  | .loop a disp => Sys2Proof.Machine.execLoop a disp s
  | .sysc n => Sys2Proof.Machine.execSysc n s
  | .add d a b => Sys2Proof.Machine.execAdd d a b s
  | .sub d a b => Sys2Proof.Machine.execSub d a b s
  | .mul d a b => Sys2Proof.Machine.execMul d a b s
  | .mulh d a b => Sys2Proof.Machine.execMulh d a b s
  | .mulhn d a b => Sys2Proof.Machine.execMulhn d a b s
  | .div d a b l => Sys2Proof.Machine.execDiv d a b l s
  | .divn d a b l => Sys2Proof.Machine.execDivn d a b l s
  | .rem d a b l => Sys2Proof.Machine.execRem d a b l s
  | .remn d a b l => Sys2Proof.Machine.execRemn d a b l s
  | .and_ d a b => Sys2Proof.Machine.execAnd d a b s
  | .or_ d a b => Sys2Proof.Machine.execOr d a b s
  | .xor_ d a b => Sys2Proof.Machine.execXor d a b s
  | .andn d a b => Sys2Proof.Machine.execAndn d a b s
  | .orn d a b => Sys2Proof.Machine.execOrn d a b s
  | .shl d a b => Sys2Proof.Machine.execShl d a b s
  | .shr d a b => Sys2Proof.Machine.execShr d a b s
  | .sra d a b => Sys2Proof.Machine.execSra d a b s
  | .rol d a b => Sys2Proof.Machine.execRol d a b s
  | .min d a b => Sys2Proof.Machine.execMin d a b s
  | .max d a b => Sys2Proof.Machine.execMax d a b s
  | .minn d a b => Sys2Proof.Machine.execMinn d a b s
  | .maxn d a b => Sys2Proof.Machine.execMaxn d a b s
  | .adds d a b uns => Sys2Proof.Machine.execAdds d a b uns s
  | .subs d a b uns => Sys2Proof.Machine.execSubs d a b uns s
  | .abs d a => Sys2Proof.Machine.execAbs d a s
  | .neg d a => Sys2Proof.Machine.execNeg d a s
  | .clz d a => Sys2Proof.Machine.execClz d a s
  | .ctz d a => Sys2Proof.Machine.execCtz d a s
  | .popc d a => Sys2Proof.Machine.execPopc d a s
  | .bswap d a => Sys2Proof.Machine.execBswap d a s
  | .sext d a w => Sys2Proof.Machine.execSext d a w s
  | .zext d a w => Sys2Proof.Machine.execZext d a w s
  | .bfx d a pos w => Sys2Proof.Machine.execBfx d a pos w s
  | .bfi d a pos w => Sys2Proof.Machine.execBfi d a pos w s
  | .mov d a => Sys2Proof.Machine.execMov d a s
  | .sel d a b p nt => Sys2Proof.Machine.execSel d a b p nt s
  | .cmp d a b c => Sys2Proof.Machine.execCmp d a b c s
  | .addi d a imm => Sys2Proof.Machine.execAddi d a imm s
  | .li d imm => Sys2Proof.Machine.execLi d imm s
  | .lih d imm => Sys2Proof.Machine.execLih d imm s
  | .shli d a n => Sys2Proof.Machine.execShli d a n s
  | .shri d a n => Sys2Proof.Machine.execShri d a n s
  | .srai d a n => Sys2Proof.Machine.execSrai d a n s
  | .cmpi d a c imm => Sys2Proof.Machine.execCmpi d a c imm s
  | .lea d a b sh disp => Sys2Proof.Machine.execLea d a b sh disp s
  | .ptrCvtIn d a ap => Sys2Proof.Machine.execPtrCvtIn d a ap s
  | .ptrCvtOut d a ap => Sys2Proof.Machine.execPtrCvtOut d a ap s
  | .ptrIn d a ap => Sys2Proof.Machine.execPtrIn d a ap s
  | .pand d a b nt => Sys2Proof.Machine.execPand d a b nt s
  | .por d a b nt => Sys2Proof.Machine.execPor d a b nt s
  | .pxor d a b nt => Sys2Proof.Machine.execPxor d a b nt s
  | .pnot d a => Sys2Proof.Machine.execPnot d a s
  | .pmov d a => Sys2Proof.Machine.execPmov d a s
  | .pset d v => Sys2Proof.Machine.execPset d v s
  | .psetAll a => Sys2Proof.Machine.execPsetAll a s
  | .pget d => Sys2Proof.Machine.execPget d s
  | .ctlGet d idx => Sys2Proof.Machine.execCtlGet d idx s
  | .ctlSet a idx => Sys2Proof.Machine.execCtlSet a idx s
  | .ctlSwap d a idx => Sys2Proof.Machine.execCtlSwap d a idx s
  | .fence scp => Sys2Proof.Machine.execFence scp s
  | .fenceAcq scp => Sys2Proof.Machine.execFenceAcq scp s
  | .fenceRel scp => Sys2Proof.Machine.execFenceRel scp s
  | .repartHalf => Sys2Proof.Machine.execRepartHalf s
  | .repartDbl => Sys2Proof.Machine.execRepartDbl s
  | .gateUp => Sys2Proof.Machine.execGateUp s
  | .gateDown => Sys2Proof.Machine.execGateDown s
  | .gateFreeUp => Sys2Proof.Machine.execGateFreeUp s
  | .gateFreeDown => Sys2Proof.Machine.execGateFreeDown s
  | .capGet d bit => Sys2Proof.Machine.execCapGet d bit s
  | .tlbInvPage a => Sys2Proof.Machine.execTlbInvPage a s
  | .tlbInvCtx a => Sys2Proof.Machine.execTlbInvCtx a s
  | .tlbInvAll => Sys2Proof.Machine.execTlbInvAll s
  | .ctabLoad a t l => Sys2Proof.Machine.execCtabLoad a t l s
  | .tableOwnerExchange => Sys2Proof.Machine.execTableOwnerExchange s
  | .ld d a w sx o imm => Sys2Proof.Machine.execLd d a w sx o imm s
  | .st d a w o imm => Sys2Proof.Machine.execSt d a w o imm s
  | .ldv vd a k imm o l => Sys2Proof.Machine.execLdv vd a k imm o l s
  | .stv vd a k imm o l => Sys2Proof.Machine.execStv vd a k imm o l s
  | .gath vd a vb k w sh o l => Sys2Proof.Machine.execGath vd a vb k w sh o l s
  | .scat vd a vb k w sh o l => Sys2Proof.Machine.execScat vd a vb k w sh o l s
  | .lr d a dbl o l => Sys2Proof.Machine.execLr d a dbl o l s
  | .sc d a dbl o p l => Sys2Proof.Machine.execSc d a dbl o p l s
  | .amo d a b op dbl o l => Sys2Proof.Machine.execAmo d a b op dbl o l s
  | .vamo vd a vb vc k op dbl o l => Sys2Proof.Machine.execVamo vd a vb vc k op dbl o l s
  | .wrs a => Sys2Proof.Machine.execWrs a s
  | .walk a => Sys2Proof.Machine.execWalk a s
  | .walkHome => Sys2Proof.Machine.execWalkHome s
  | .walkContextArrival => Sys2Proof.Machine.execWalkContextArrival s
  | .arrivalPlacement => Sys2Proof.Machine.execArrivalPlacement s
  | .remoteAccessRequest => Sys2Proof.Machine.execRemoteAccessRequest s
  | .proxiedAccessRequest => Sys2Proof.Machine.execProxiedAccessRequest s
  | .accessResponse => Sys2Proof.Machine.execAccessResponse s
  | .amoQueueHead => Sys2Proof.Machine.execAmoQueueHead s
  | .amoUnitCompute => Sys2Proof.Machine.execAmoUnitCompute s
  | .amoWriteHalf => Sys2Proof.Machine.execAmoWriteHalf s
  | .scQueueHead => Sys2Proof.Machine.execScQueueHead s
  | .orderedTaskCommit => Sys2Proof.Machine.execOrderedTaskCommit s
  | .qmap n id => Sys2Proof.Machine.execQmap n id s
  | .qfree d n => Sys2Proof.Machine.execQfree d n s
  | .qlen d n => Sys2Proof.Machine.execQlen d n s
  | .qpeek d n => Sys2Proof.Machine.execQpeek d n s
  | .qtry d n p => Sys2Proof.Machine.execQtry d n p s
  | .qput n a p => Sys2Proof.Machine.execQput n a p s
  | .qclose n => Sys2Proof.Machine.execQclose n s
  | .fifoEntryArrival => Sys2Proof.Machine.execFifoEntryArrival s
  | .fifoPopReport => Sys2Proof.Machine.execFifoPopReport s
  | .networkQueueArrival => Sys2Proof.Machine.execNetworkQueueArrival s
  | .gradientEntryArrival => Sys2Proof.Machine.execGradientEntryArrival s
  | .gradientWindowUpdate => Sys2Proof.Machine.execGradientWindowUpdate s
  | .barInit a id => Sys2Proof.Machine.execBarInit a id s
  | .barJoin id => Sys2Proof.Machine.execBarJoin id s
  | .barArr id => Sys2Proof.Machine.execBarArr id s
  | .barDrop id => Sys2Proof.Machine.execBarDrop id s
  | .barLeave id => Sys2Proof.Machine.execBarLeave id s
  | .barExp a id => Sys2Proof.Machine.execBarExp a id s
  | .barWait id => Sys2Proof.Machine.execBarWait id s
  | .barTry d id => Sys2Proof.Machine.execBarTry d id s
  | .barBits d id => Sys2Proof.Machine.execBarBits d id s
  | .wideBarrierArrival => Sys2Proof.Machine.execWideBarrierArrival s
  | .wideBarrierCompletion => Sys2Proof.Machine.execWideBarrierCompletion s
  | .quadGated => Sys2Proof.Machine.execQuadGated s
  | .quadWakeComplete => Sys2Proof.Machine.execQuadWakeComplete s
  | .ltGet d c => Sys2Proof.Machine.execLtGet d c s
  | .ltEnter => Sys2Proof.Machine.execLtEnter s
  | .ltLeave => Sys2Proof.Machine.execLtLeave s
  | .ltStep => Sys2Proof.Machine.execLtStep s
  | .spawn d a l => Sys2Proof.Machine.execSpawn d a l s
  | .spawnLight d a l => Sys2Proof.Machine.execSpawnLight d a l s
  | .ordSpawn d a l => Sys2Proof.Machine.execOrdSpawn d a l s
  | .ordSpawnLight d a l => Sys2Proof.Machine.execOrdSpawnLight d a l s
  | .launch d a l => Sys2Proof.Machine.execLaunch d a l s
  | .tcapHold a stg => Sys2Proof.Machine.execTcapHold a stg s
  | .tcapFree a stg => Sys2Proof.Machine.execTcapFree a stg s
  | .homeRecordRequest => Sys2Proof.Machine.execHomeRecordRequest s
  | .homeRecordAnswer => Sys2Proof.Machine.execHomeRecordAnswer s
  | .plumbWait a stg => Sys2Proof.Machine.execPlumbWait a stg s
  | .plumbGet d stg => Sys2Proof.Machine.execPlumbGet d stg s
  | .quadTableFlush => Sys2Proof.Machine.execQuadTableFlush s
  | .dieTableFlush => Sys2Proof.Machine.execDieTableFlush s
  | .pointstampBatchArrival => Sys2Proof.Machine.execPointstampBatchArrival s
  | .frontierViewUpdate => Sys2Proof.Machine.execFrontierViewUpdate s
  | .ringMatch a e l => Sys2Proof.Machine.execRingMatch a e l s
  | .ringPut a b perch r l => Sys2Proof.Machine.execRingPut a b perch r l s
  | .ringTake d a perch r l => Sys2Proof.Machine.execRingTake d a perch r l s
  | .ringSt d r => Sys2Proof.Machine.execRingSt d r s
  | .ringDrain r => Sys2Proof.Machine.execRingDrain r s
  | .ringCfg a r l => Sys2Proof.Machine.execRingCfg a r l s
  | .ringStep => Sys2Proof.Machine.execRingStep s
  | .xfer a => Sys2Proof.Machine.execXfer a s
  | .xferTry a p => Sys2Proof.Machine.execXferTry a p s
  | .xferWp d a => Sys2Proof.Machine.execXferWp d a s
  | .xferSt d a => Sys2Proof.Machine.execXferSt d a s
  | .copyQueueRequest => Sys2Proof.Machine.execCopyQueueRequest s
  | .copyChannelStart => Sys2Proof.Machine.execCopyChannelStart s
  | .copyDelivery => Sys2Proof.Machine.execCopyDelivery s
  | .copyResume => Sys2Proof.Machine.execCopyResume s
  | .treeRecordApply => Sys2Proof.Machine.execTreeRecordApply s
  | .copyCompletion => Sys2Proof.Machine.execCopyCompletion s
  | .xferDone => Sys2Proof.Machine.execXferDone s
  | .podDeliveryAck => Sys2Proof.Machine.execPodDeliveryAck s
  | .collPut a grp l => Sys2Proof.Machine.execCollPut a grp l s
  | .collGet d grp l => Sys2Proof.Machine.execCollGet d grp l s
  | .collAgree d a grp l => Sys2Proof.Machine.execCollAgree d a grp l s
  | .collRoundInput => Sys2Proof.Machine.execCollRoundInput s
  | .collResultReturn => Sys2Proof.Machine.execCollResultReturn s
  | .mma acc src k fmts z l e => Sys2Proof.Machine.execMma acc src k fmts z l e s
  | .mzero acc l e => Sys2Proof.Machine.execMzero acc l e s
  | .mrd acc src k vec row rreg cnt fc l e => Sys2Proof.Machine.execMrd acc src k vec row rreg cnt fc l e s
  | .mwr acc src k vec row rreg cnt fc l e => Sys2Proof.Machine.execMwr acc src k vec row rreg cnt fc l e s
  | .msave acc a l => Sys2Proof.Machine.execMsave acc a l s
  | .mrest acc a l => Sys2Proof.Machine.execMrest acc a l s
  | .bld a len line bank cnt l e => Sys2Proof.Machine.execBld a len line bank cnt l e s
  | .bsel a acc => Sys2Proof.Machine.execBsel a acc s
  | .mcfgSrc a => Sys2Proof.Machine.execMcfgSrc a s
  | .mcfgStride a => Sys2Proof.Machine.execMcfgStride a s
  | .mcfgGo a => Sys2Proof.Machine.execMcfgGo a s
  | .mcfgStop => Sys2Proof.Machine.execMcfgStop s
  | .feederPush => Sys2Proof.Machine.execFeederPush s
  | .mxp n l e => Sys2Proof.Machine.execMxp n l e s
  | .mxpTab a l => Sys2Proof.Machine.execMxpTab a l s
  | .mwait acc => Sys2Proof.Machine.execMwait acc s
  | .mxpExchangeStart => Sys2Proof.Machine.execMxpExchangeStart s
  | .mxpAbandon => Sys2Proof.Machine.execMxpAbandon s
  | .matrixOpComplete => Sys2Proof.Machine.execMatrixOpComplete s
  | .flagTrap => Sys2Proof.Machine.execFlagTrap s
  | .vadd vd va vb k f e => Sys2Proof.Machine.execVadd vd va vb k f e s
  | .vsub vd va vb k f e => Sys2Proof.Machine.execVsub vd va vb k f e s
  | .vmul vd va vb k f e => Sys2Proof.Machine.execVmul vd va vb k f e s
  | .vfma vd va vb vc k f e => Sys2Proof.Machine.execVfma vd va vb vc k f e s
  | .vfms vd va vb vc k f e => Sys2Proof.Machine.execVfms vd va vb vc k f e s
  | .vmin vd va vb k f e => Sys2Proof.Machine.execVmin vd va vb k f e s
  | .vmax vd va vb k f e => Sys2Proof.Machine.execVmax vd va vb k f e s
  | .vadds vd va vb k f e => Sys2Proof.Machine.execVadds vd va vb k f e s
  | .vsubs vd va vb k f e => Sys2Proof.Machine.execVsubs vd va vb k f e s
  | .vmulh vd va vb k f e => Sys2Proof.Machine.execVmulh vd va vb k f e s
  | .vabs vd va k f e => Sys2Proof.Machine.execVabs vd va k f e s
  | .vneg vd va k f e => Sys2Proof.Machine.execVneg vd va k f e s
  | .vdot vd va vb vc k fp fa e => Sys2Proof.Machine.execVdot vd va vb vc k fp fa e s
  | .vand vd va vb k e => Sys2Proof.Machine.execVand vd va vb k e s
  | .vor vd va vb k e => Sys2Proof.Machine.execVor vd va vb k e s
  | .vxor vd va vb k e => Sys2Proof.Machine.execVxor vd va vb k e s
  | .vnot vd va k e => Sys2Proof.Machine.execVnot vd va k e s
  | .vshl vd va vb k f e => Sys2Proof.Machine.execVshl vd va vb k f e s
  | .vshr vd va vb k f e => Sys2Proof.Machine.execVshr vd va vb k f e s
  | .vsra vd va vb k f e => Sys2Proof.Machine.execVsra vd va vb k f e s
  | .vcmp kd va vb k f c e => Sys2Proof.Machine.execVcmp kd va vb k f c e s
  | .vsel vd va vb k e => Sys2Proof.Machine.execVsel vd va vb k e s
  | .vcvt vd va k fd fs e => Sys2Proof.Machine.execVcvt vd va k fd fs e s
  | .vpack vd va vb k fd fs e => Sys2Proof.Machine.execVpack vd va vb k fd fs e s
  | .vunpk vd va k fd fs hi e => Sys2Proof.Machine.execVunpk vd va k fd fs hi e s
  | .vscl vd va vb k f e => Sys2Proof.Machine.execVscl vd va vb k f e s
  | .vrcp vd va k f l e => Sys2Proof.Machine.execVrcp vd va k f l e s
  | .vrsq vd va k f l e => Sys2Proof.Machine.execVrsq vd va k f l e s
  | .vsqrt vd va k f l e => Sys2Proof.Machine.execVsqrt vd va k f l e s
  | .vexp2 vd va k f l e => Sys2Proof.Machine.execVexp2 vd va k f l e s
  | .vlog2 vd va k f l e => Sys2Proof.Machine.execVlog2 vd va k f l e s
  | .vsin vd va k f l e => Sys2Proof.Machine.execVsin vd va k f l e s
  | .vcos vd va k f l e => Sys2Proof.Machine.execVcos vd va k f l e s
  | .vtanh vd va k f l e => Sys2Proof.Machine.execVtanh vd va k f l e s
  | .vred vd va k f op e => Sys2Proof.Machine.execVred vd va k f op e s
  | .vscan vd va k f op e => Sys2Proof.Machine.execVscan vd va k f op e s
  | .vperm vd va vb vc k f e => Sys2Proof.Machine.execVperm vd va vb vc k f e s
  | .vshuf vd va k f pat e => Sys2Proof.Machine.execVshuf vd va k f pat e s
  | .vbc vd a k f e => Sys2Proof.Machine.execVbc vd a k f e s
  | .vext d va f idx => Sys2Proof.Machine.execVext d va f idx s
  | .vins vd a f idx => Sys2Proof.Machine.execVins vd a f idx s
  | .vqrecv vd n k e => Sys2Proof.Machine.execVqrecv vd n k e s
  | .vqsend n va => Sys2Proof.Machine.execVqsend n va s
  | .vmov vd va k e => Sys2Proof.Machine.execVmov vd va k e s
  | .vzero vd k e => Sys2Proof.Machine.execVzero vd k e s
  | .vclass vd va k f e => Sys2Proof.Machine.execVclass vd va k f e s
  | .kand d a b => Sys2Proof.Machine.execKand d a b s
  | .kor d a b => Sys2Proof.Machine.execKor d a b s
  | .kxor d a b => Sys2Proof.Machine.execKxor d a b s
  | .knot d a => Sys2Proof.Machine.execKnot d a s
  | .kmov d a => Sys2Proof.Machine.execKmov d a s
  | .kpop d a => Sys2Proof.Machine.execKpop d a s
  | .vshli vd va k f amt e => Sys2Proof.Machine.execVshli vd va k f amt e s
  | .vshri vd va k f amt e => Sys2Proof.Machine.execVshri vd va k f amt e s
  | .vsrai vd va k f amt e => Sys2Proof.Machine.execVsrai vd va k f amt e s
  | .rvmul vd va b k f e => Sys2Proof.Machine.execRvmul vd va b k f e s
  | .unmul vd va b k f e => Sys2Proof.Machine.execUnmul vd va b k f e s
  | .rvcvt vd va k fd fs e => Sys2Proof.Machine.execRvcvt vd va k fd fs e s
  | .uncvt vd va k fd fs e => Sys2Proof.Machine.execUncvt vd va k fd fs e s
  | .rvsra vd va k f amt e => Sys2Proof.Machine.execRvsra vd va k f amt e s
  | .unsra vd va k f amt e => Sys2Proof.Machine.execUnsra vd va k f amt e s
  | .rvscl vd va vb k f e => Sys2Proof.Machine.execRvscl vd va vb k f e s
  | .unscl vd va vb k f e => Sys2Proof.Machine.execUnscl vd va vb k f e s
  | .rvact vd va k f sr e => Sys2Proof.Machine.execRvact vd va k f sr e s
  | .unact vd va k f sr e => Sys2Proof.Machine.execUnact vd va k f sr e s
  | .skimMark id => Sys2Proof.Machine.execSkimMark id s
  | .skimCut id => Sys2Proof.Machine.execSkimCut id s
  | .skimDep d => Sys2Proof.Machine.execSkimDep d s
  | .skimArea a b => Sys2Proof.Machine.execSkimArea a b s
  | .skimChk d id => Sys2Proof.Machine.execSkimChk d id s
  | .skimBackgroundSpill => Sys2Proof.Machine.execSkimBackgroundSpill s
  | .skimBackgroundRefill => Sys2Proof.Machine.execSkimBackgroundRefill s
  | .longResultWritten => Sys2Proof.Machine.execLongResultWritten s
  | .wqWindowWrite => Sys2Proof.Machine.execWqWindowWrite s
  | .deviceOverflowRefill => Sys2Proof.Machine.execDeviceOverflowRefill s
  | .launchArbitration => Sys2Proof.Machine.execLaunchArbitration s
  | .launchNumberTaken => Sys2Proof.Machine.execLaunchNumberTaken s
  | .taskToDieDispatcher => Sys2Proof.Machine.execTaskToDieDispatcher s
  | .taskToCorePool => Sys2Proof.Machine.execTaskToCorePool s
  | .taskPlacedInSlot => Sys2Proof.Machine.execTaskPlacedInSlot s
  | .parkedThreadSwapOut => Sys2Proof.Machine.execParkedThreadSwapOut s
  | .parkedWaitSatisfied => Sys2Proof.Machine.execParkedWaitSatisfied s
  | .watchdog => Sys2Proof.Machine.execWatchdog s
  | .ebudgetRefill => Sys2Proof.Machine.execEbudgetRefill s
  | .launchEnd => Sys2Proof.Machine.execLaunchEnd s
  | .completionRecordWrite => Sys2Proof.Machine.execCompletionRecordWrite s
  | .launchRetire => Sys2Proof.Machine.execLaunchRetire s
  | .launchAbort => Sys2Proof.Machine.execLaunchAbort s
  | .preemptContext => Sys2Proof.Machine.execPreemptContext s
  | .evictContext => Sys2Proof.Machine.execEvictContext s
  | .restoreContext => Sys2Proof.Machine.execRestoreContext s
  | .handlerFaultDelivery => Sys2Proof.Machine.execHandlerFaultDelivery s
  | .faultReplay => Sys2Proof.Machine.execFaultReplay s
  | .faultRefused => Sys2Proof.Machine.execFaultRefused s
  | .hostConfigAccess => Sys2Proof.Machine.execHostConfigAccess s
  | .bar4MemoryAccess => Sys2Proof.Machine.execBar4MemoryAccess s
  | .hostRequestForward => Sys2Proof.Machine.execHostRequestForward s
  | .portcfgModeWrite => Sys2Proof.Machine.execPortcfgModeWrite s
  | .portFullRetrain => Sys2Proof.Machine.execPortFullRetrain s
  | .topoverNextWrite => Sys2Proof.Machine.execTopoverNextWrite s
  | .topologySwap => Sys2Proof.Machine.execTopologySwap s
  | .podtimeWrite => Sys2Proof.Machine.execPodtimeWrite s
  | .bar4CountClear => Sys2Proof.Machine.execBar4CountClear s
  | .doneHeadWrite => Sys2Proof.Machine.execDoneHeadWrite s
  | .stalecntClear => Sys2Proof.Machine.execStalecntClear s
  | .thermstatTripClear => Sys2Proof.Machine.execThermstatTripClear s
  | .grantTableWrite => Sys2Proof.Machine.execGrantTableWrite s
  | .controlWindowWrite => Sys2Proof.Machine.execControlWindowWrite s
  | .podMessageForward => Sys2Proof.Machine.execPodMessageForward s
  | .flitReceive => Sys2Proof.Machine.execFlitReceive s
  | .fecGroupReceive => Sys2Proof.Machine.execFecGroupReceive s
  | .fecRetry => Sys2Proof.Machine.execFecRetry s
  | .chainTableInstall => Sys2Proof.Machine.execChainTableInstall s
  | .chainSlotStart => Sys2Proof.Machine.execChainSlotStart s
  | .chainDataWindow => Sys2Proof.Machine.execChainDataWindow s
  | .linkBeatReplay => Sys2Proof.Machine.execLinkBeatReplay s
  | .bondIdleTest => Sys2Proof.Machine.execBondIdleTest s
  | .bondGroupFailure => Sys2Proof.Machine.execBondGroupFailure s
  | .wavelengthRetrainStart => Sys2Proof.Machine.execWavelengthRetrainStart s
  | .wavelengthHandback => Sys2Proof.Machine.execWavelengthHandback s
  | .sliceScrub => Sys2Proof.Machine.execSliceScrub s
  | .bstoreScrub => Sys2Proof.Machine.execBstoreScrub s
  | .hbmScrub => Sys2Proof.Machine.execHbmScrub s
  | .channelCopyStart => Sys2Proof.Machine.execChannelCopyStart s
  | .channelCopyComplete => Sys2Proof.Machine.execChannelCopyComplete s
  | .checkpointStart => Sys2Proof.Machine.execCheckpointStart s
  | .restoreStart => Sys2Proof.Machine.execRestoreStart s
  | .checkpointComplete => Sys2Proof.Machine.execCheckpointComplete s
  | .thermalThrottle => Sys2Proof.Machine.execThermalThrottle s
  | .thermalTrip => Sys2Proof.Machine.execThermalTrip s
  | .regionCountHalving => Sys2Proof.Machine.execRegionCountHalving s
  | .remapreqGo => Sys2Proof.Machine.execRemapreqGo s
  | .remapSwapRun => Sys2Proof.Machine.execRemapSwapRun s
  | .attestNonceWrite => Sys2Proof.Machine.execAttestNonceWrite s
  | .attestReportReady => Sys2Proof.Machine.execAttestReportReady s
  | .firmwareUpdateWrite => Sys2Proof.Machine.execFirmwareUpdateWrite s
  | .linkReturnsToService => Sys2Proof.Machine.execLinkReturnsToService s

end Sys2Proof.Machine
end

