-- ==== Sys2Proof/Machine/Issue.lean ====
section
/-!
DEFINITION. Fetch, issue of instructions and bundles (R60 to R75, R110), the events that may happen of themselves, and the passing
of a cycle. `Step.lean` only chooses among these.
-/

namespace Sys2Proof.Machine

/-! ## Fetch -/

/-- The code line that holds a PC (R67, R73), as the issuing core reads it: no lock keeps a fetch out, an error mark does, and its owner
must be in reach (R472). A channel counts it (R440). Code may lie in HBM, a slice or a B-store (log entry 21). -/
def State.fetchLine (s : State) (c ctx pc : Nat) : Except Stop (List (BitVec 16) × State) := do
  let a := pc / 64 * 64
  match whereIs a with
  | none | some (.pod _ _) => .error (badAt .badAperture a)
  | some w =>
    let (sp, s) ← s.check45 c ctx a w false true
    if !s.reaches c sp.loc.owner then .error .stall
    else match s.poisonHit sp.loc.key 64 allBytes false with
    | some i => .error (badAt .memError (a + i))
    | none => .ok ((List.range 32).map fun n => BitVec.ofNat 16 (s.readN (sp.loc.key + 2 * n) 2), s.countLine sp.loc.key)

/-- The line that holds a thread's PC, checked as R69 and then R72 give. DEDUCED (log entry 97): the record of a malformed line has
the line's address in its Address field. -/
def State.fetch (s : State) (c : Nat) (t : Thread) : Except Stop (List (BitVec 16) × State) := do
  let pc := t.pc.toNat
  let (hs, s) ← s.fetchLine c t.ctx pc
  let slot := pc / 2 % 32
  if !lineOk hs then .error (badAt .malformedLine (pc / 64 * 64))
  else if pc % 2 = 1 ∨ slot = 0 ∨ lineCount hs < slot then .error (bad .badTarget (t.from_.getD t.pc))
  else .ok (hs, s)

/-- The PC after some heads from a slot (R71). -/
def nextPc (pc : Word) (hs : List (BitVec 16)) (heads : Nat) : Word :=
  let slot := pc.toNat / 2 % 32
  let a := word (pc.toNat / 64 * 64)
  if slot + heads ≤ lineCount hs then a + word (2 * (slot + heads)) else a + 66

/-! ## One head or two -/

/-- A guard holds (R44): its predicate, inverted when bit 4 is set. -/
def Thread.guarded (t : Thread) (g : BitVec 5) : Bool := t.pr (g.toNat % 16) != g.getLsbD 4

/-- The registers that an instruction names as destinations (R62): 0 to 31 general and queue registers, 64 PW, 128 up vector
registers, 256 up lane masks. -/
def destsOf (i : Instr) : List Nat :=
  let u := useOf i
  (u.push.toList.map fun (r : GSpec) => r.toNat) ++
  (if u.vdst then (u.vregs.take 1).map fun (v : VSpec) => 128 + v.toNat else []) ++ u.extra

/-- Two instructions name one destination (R62). Of a vector form of `mrd` only the first of its vector registers is named by its
head; DEDUCED (log entry 94): the further ones do not count. -/
def clash (i j : Instr) : Bool := (destsOf i).any fun d => (destsOf j).contains d

/-- Go on from an outcome that is a next state. -/
def andThen (o : Host.Outcome State Fault Refusal) (f : State → Host.Outcome State Fault Refusal) :
    Host.Outcome State Fault Refusal :=
  match o with
  | .next s => f s
  | .fault r => .fault r
  | .refused r => .refused r

/-- An instruction whose guard is false (R44, R110, R232): checks 1 and 2, and its energy, which is not debited. -/
def State.skipped (s : State) (i : Instr) : Res :=
  if !s.legal i then .error (bad .illegalOp)
  else if !s.affords (useOf i).energy then .error .stall
  else .ok s

/-- One head: its effect under its guard. -/
def State.head (s : State) (d : Dec) : Host.Outcome State Fault Refusal :=
  if s.src.guarded d.guard then exec d.instr s else finish s (s.skipped d.instr)

/-- The state in which a head of a bundle runs: it reads what stood before the bundle (R62). -/
def State.asHead (s : State) (p : Place2) (pre : State) : State :=
  let v : View := ⟨pre.thr, pre.here, pre.skim pre.thr.ctx pre.cur.core pre.cur.slot, pre.myPair pre.cur.core⟩
  { s with cur := { s.cur with place := p, out := .ok, firstFlags := s.cur.flags, view := some v } }

/-- The fault of a bundle (R62): neither head has any effect, and the record names the bundle's PC and the head. -/
def State.bundleFault (pre s : State) (f : FaultInfo) (second : Bool) : State :=
  let s := { s with cur := { pre.cur with place := .single, view := none, pushed := [] } }
  s.takeFault { f with second := second }

/-- The units that two heads need (R232). -/
def pairDebit (d e : Dec) : Nat := debit (useOf d.instr).energy + debit (useOf e.instr).energy

/-- The heads of a bundle when the first leaves its place, so that the second must take effect before it: its result goes with
the thread. -/
def State.bundleLeaves (pre : State) (d e : Dec) : Host.Outcome State Fault Refusal :=
  andThen ((pre.asHead .second pre).head e) fun s2 =>
    match s2.cur.out with
    | .ok => andThen ((s2.asHead .first pre).head d) fun s1 =>
      match s1.cur.out with
      | .gone | .again => .next s1
      | .ok => .next s1.endInstr
      | .stall | .fault _ => .next pre.markStalled
    | .gone | .again => .next s2
    | .stall => .next pre.markStalled
    | .fault f => .next (pre.bundleFault s2 f true)

/-- The heads of a bundle when the first has done what it does once and issues again: the second waits with it, unless it
faults. -/
def State.bundleAgain (pre s1 : State) (e : Dec) : Host.Outcome State Fault Refusal :=
  andThen ((pre.asHead .second pre).head e) fun s2 =>
    match s2.cur.out with
    | .fault f => .next (pre.bundleFault s2 f true)
    | .stall => .next pre.markStalled
    | .ok | .gone | .again => .next s1

/-- A bundle issues (R62, R166, R232): both heads read the state before it and write at one turn, or neither has an effect.
DEDUCED (log entry 95): one destination named twice is an error of the pair, before any check of its heads and under any guard,
recorded for the first head. -/
def State.bundle (pre : State) (d e : Dec) : Host.Outcome State Fault Refusal :=
  if clash d.instr e.instr then .next (pre.takeFault { cause := .illegalOp })
  else if pre.legal d.instr && pre.legal e.instr &&
      decide (((pre.here.ebud pre.cur.slot).extractLsb' 0 16).toNat < pairDebit d e) then .next pre.markStalled
  else andThen ((pre.asHead .first pre).head d) fun s1 =>
    match s1.cur.out with
    | .stall => .next pre.markStalled
    | .fault f => .next (pre.bundleFault s1 f false)
    | .gone => pre.bundleLeaves d e
    | .again => pre.bundleAgain s1 e
    | .ok => andThen ((s1.asHead .second pre).head e) fun s2 =>
      match s2.cur.out with
      | .ok => .next s2.endInstr
      | .gone => .next s2
      | .stall => .next pre.markStalled
      | .again => andThen ((pre.asHead .second pre).head e) fun s => .next s
      | .fault f => andThen ((pre.asHead .second pre).head e) fun s =>
        match s.cur.out with
        | .fault _ => .next (pre.bundleFault s f true)
        | .ok | .stall | .gone | .again => .next (pre.bundleFault pre f true)

/-- A bundle whose second head is illegal (R75): the first head's fault goes before it, and while the first stalls nothing is recorded:
DEDUCED (log entry 26). -/
def State.illegalSecond (pre : State) (d : Dec) : Host.Outcome State Fault Refusal :=
  andThen ((pre.asHead .first pre).head d) fun s1 =>
    match s1.cur.out with
    | .fault f => .next (pre.bundleFault s1 f false)
    | .stall => .next pre.markStalled
    | .ok | .gone | .again => .next (pre.takeFault { cause := .illegalOp, second := true })

/-- An instruction completed: every window that was open counts its heads (R64). DEDUCED (log entry 96): a window that a head of a
bundle opens starts with the next instruction issued, so the partner head is not counted in it. -/
def State.countDown (s : State) (c i first heads : Nat) : State :=
  let t := s.thrAt c i
  if t.lastIssue = s.cycle + 1 then
    s.setThrAt c i { t with windows := t.windows.map fun w => if w.wid < first then { w with left := w.left - heads } else w }
  else s

/-- A stalled thread whose instruction uses the core's tables waits to make them its context's own (R174). -/
def State.noteTables (s : State) (c i : Nat) (ds : List Dec) : State :=
  let t := s.thrAt c i
  if t.st == .stalled && (s.core c).tabOwner != some t.ctx && (s.core c).tabWant.isNone &&
      ds.any fun d => (useOf d.instr).tables && t.guarded d.guard then
    s.modCore c fun k => { k with tabWant := some t.ctx }
  else s

/-- What stands at a thread's PC issues: heads that would pass the end of a window wait (R64). -/
def State.issueAt (s : State) (c i : Nat) (hs : List (BitVec 16)) : Host.Outcome State Fault Refusal :=
  let t := s.thrAt c i
  let slot := t.pc.toNat / 2 % 32
  let at_ (heads : Nat) : State := { s with cur := {
    core := c, slot := i, npc := nextPc t.pc hs heads, heads := heads, depth := (s.skim t.ctx c i).depth } }
  let room (heads : Nat) : Bool := t.windows.all fun w => decide (heads ≤ w.left)
  let counted (heads : Nat) (o : Host.Outcome State Fault Refusal) : Host.Outcome State Fault Refusal :=
    andThen o fun s => .next (s.countDown c i t.nextWid heads)
  match decodeSlot hs slot with
  | .single d => andThen (counted 1 ((at_ 1).head d)) fun s => .next (s.noteTables c i [d])
  | .pair d e => if room 2 then andThen (counted 2 ((at_ 2).bundle d e)) fun s => .next (s.noteTables c i [d, e])
    else .next (at_ 2).markStalled
  | .illegal _ false => .next ((at_ 1).takeFault { cause := .illegalOp })
  | .illegal _ true =>
    match decodeHead (hw hs slot) (tailBits hs slot) with
    | .ok d => if room 2 then (at_ 2).illegalSecond d else .next (at_ 2).markStalled
    | .error _ => .next ((at_ 2).takeFault { cause := .illegalOp })

/-! ## A slot's turn -/

/-- The thread is part of the way through an instruction. -/
def Thread.midway (t : Thread) : Bool := t.latch.isSome || t.podAns.isSome || t.homeAns.isSome

/-- The slot's thread is being swapped out (R410). -/
def Core.isLeaving (k : Core) (i : Nat) : Bool := match k.leaving with
  | some (j, h, _) => j == i && (k.slot i).ctl.taskh == h
  | none => false

/-- A slot's thread may be offered an issue position (R61): it runs, or retries; it is not being pre-empted (R421), aborted (R417) or
swapped out (R410), unless it is within an instruction, which it completes; and no fault of its waits for a record (R419). -/
def State.mayIssue (s : State) (c i : Nat) : Bool :=
  let t := s.thrAt c i
  let within := t.podAns.isSome || t.homeAns.isSome || t.mid.isSome
  (t.st == .running || t.st == .stalled) && t.fault.isNone && !t.ended && (!(s.launch t.launch).aborted || within) &&
  (!(s.core c).out.contains t.ctx || within) && !(s.core c).isLeaving i && !(isTile c && s.tripped)

/-- A window of the thread must close before it issues: no instruction of it is left (R64), or its flags, which may trap, come with its
result (R51). -/
def Thread.windowFull (t : Thread) : Bool :=
  t.windows.any fun w => w.left == 0 || (w.late && t.ctl.status.extractLsb' 8 5 != 0#5)

/-- A line as its halfwords. -/
def lineHalfwords (l : Line) : List (BitVec 16) := (List.range 32).map fun n => l.extractLsb' (16 * n) 16
/-- Halfwords as a line. -/
def lineOfHalfwords (hs : List (BitVec 16)) : Line := hs.foldr (fun h l => (l <<< 16) ||| h.setWidth 512) 0

/-- An instruction whose access parked on a replayable fault keeps its line, from which it will go on (R434). -/
def State.keepLine (s : State) (c i : Nat) (hs : List (BitVec 16)) : State :=
  let t := s.thrAt c i
  match t.st with
  | .parked (.replay _) _ => s.setThrAt c i { t with mid := some (lineOfHalfwords hs) }
  | .empty | .running | .stalled | .parked _ _ => s

/-- The fault of an access that met an error mark after it had issued is taken (R470), at the PC of its instruction (log entry 125). -/
def State.takeLate (s : State) (c i : Nat) (f : FaultInfo) : State :=
  let t := s.thrAt c i
  (s.setThrAt c i { t with lateErr := none, leave := none }).deliver c i f (f.resume.getD t.pc)

/-- A slot is offered a position: at an instruction boundary what is held to one comes first (R51, R384, R413, R431, R470), and else the
instruction at its PC is tried. One whose access parked goes on from the line it was read from (R434). -/
def State.attempt (s : State) (c i : Nat) : Host.Outcome State Fault Refusal :=
  let t := s.thrAt c i
  let here : State := { s with cur := { core := c, slot := i, npc := t.pc, depth := (s.skim t.ctx c i).depth }, args := [c, i] }
  let free := !t.midway && t.done == 0 && t.mid.isNone
  let go (hs : List (BitVec 16)) (s : State) : Host.Outcome State Fault Refusal :=
    andThen (s.issueAt c i hs) fun s => .next (s.keepLine c i hs)
  if !t.midway && t.kill then finish here (endBody here)
  else if free && t.lateErr.isSome then .next (here.takeLate c i (t.lateErr.getD { cause := .memError }))
  else if t.leave.isSome then finish here (leaveBody here)
  else if free && t.heldFlag && !t.ctl.active then execFlagTrap here
  else if free && t.st != .stalled && t.heldXfer != [] && !t.ctl.active then execXferDone here
  else if free && (t.heldDog || s.dogDue t) then execWatchdog here
  else if t.windowFull then .next here.markStalled
  else match t.mid with
  | some l => go (lineHalfwords l) here
  | none => match here.fetch c t with
    | .ok (hs, s) => go hs s
    | .error (.fault f) => .next (here.takeFault f)
    | .error .stall | .error (.part _ _) | .error (.gone _) | .error (.again _) => .next here.markStalled

/-- The slot used the position: it completed an instruction, or its thread left it or parked. -/
def State.tookTurn (s : State) (c i : Nat) : Bool :=
  let t := s.thrAt c i
  t.lastIssue == s.cycle + 1 || !(t.st == .running || t.st == .stalled)

/-- The order in which a core's position is offered (R60): its owner, then the others upward and round; no slot that issued in the
cycle before, and not the communication slot at position 6. -/
def State.offersOf (s : State) (c : Nat) : List Nat :=
  let n := (s.core c).mode
  let p := s.cycle % 8
  let owner := p % n
  ((List.range n).map fun k => (owner + k) % n).filter fun i =>
    let t := s.thrAt c i
    !(t.lastIssue != 0 && t.lastIssue == s.cycle) && !(p == 6 && i + 1 == n && i != owner)

/-- Offer a position to slots in order until one takes it. -/
def State.offer (s : State) (c : Nat) : List Nat → Host.Outcome State Fault Refusal
  | [] => .next s
  | i :: is =>
    if s.mayIssue c i then
      andThen (s.attempt c i) fun s' => if s'.tookTurn c i then .next s' else s'.offer c is
    else s.offer c is

/-- A core's issue position of this cycle (R60). -/
def State.issue (s : State) (c : Nat) : Host.Outcome State Fault Refusal :=
  if 2560 ≤ c then .fault .noSuchCore else s.offer c (s.offersOf c)

/-! ## What may happen of itself -/

/-- An event with its arguments. -/
abbrev Event := Instr × List Nat

/-- An event when a condition holds. -/
def whenE (b : Bool) (i : Instr) (args : List Nat) : List Event := if b then [(i, args)] else []

/-- What a message in the package may do now. -/
def State.msgEvents (s : State) (id : Nat) (m : Msg) : List Event :=
  match m with
  | .access a =>
    if a.pod.isSome then whenE (!s.podSent.contains id && s.mayArrive id m) .podMessageForward [1, id]
    else whenE (s.mayArrive id m && s.accessReady id a) (if a.proxied then .proxiedAccessRequest else .remoteAccessRequest) [id]
  | .response _ _ _ _ | .failed _ _ => whenE (s.mayArrive id m) .accessResponse [id]
  | .walk w => whenE (decide ((s.core w.target).arrival.length < 16) && s.mayArrive id m) .walkContextArrival [id]
  | .home _ _ _ _ _ _ _ _ _ => whenE (s.mayArrive id m) .homeRecordRequest [id]
  | .homeAns _ _ _ _ _ _ => whenE (s.mayArrive id m) .homeRecordAnswer [id]
  | .batch src _ _ => whenE (s.batchFirst id src && s.mayArrive id m) .pointstampBatchArrival [id]
  | .task _ => []
  | .coll node port grp _ _ => whenE ((FMap.find (inKey node grp port) s.collIn).isNone && s.inputUp node port grp) .collRoundInput [id]
  | .collRes node grp _ _ => whenE (s.resultUp node grp) .collResultReturn [id]
  | .nack node from_ _ _ => whenE (s.nackUp node from_) .collResultReturn [id]

/-- What the head of a granule's queue may do (R287). -/
def State.granEvents (s : State) (g : Nat) (q : List GEntry) : List Event :=
  match q with
  | [] => []
  | e :: _ =>
    match e.phase with
    | .waiting => match e.acc.kind with
      | .sc _ _ _ => [(.scQueueHead, [g])]
      | .amo _ _ _ _ | .store _ _ | .load | .loadResv => [(.amoQueueHead, [g])]
    | .sent _ => whenE (e.acc.returns s) .amoUnitCompute [g]
    | .computed _ _ => whenE (e.acc.goes s) .amoWriteHalf [g]

/-- A background spill or refill of a stack would move an entry (R241). -/
def State.skimEvents (s : State) (key : Nat) (k : Skim) : List Event :=
  let i := key % 8
  let c := key / 8 % 4096
  let x := key / 32768
  let n := k.onCore.length
  let ok {α : Type} (r : Except Stop α) : Bool := match r with
    | .ok _ => true
    | .error _ => false
  if 7 ≤ n then whenE (ok (s.spillOldest x c i)) .skimBackgroundSpill [c, i, x]
  else if n ≤ 4 ∧ n < k.depth ∧ (s.thrAt c i).st ≠ .empty ∧ (s.thrAt c i).ctx = x then
    whenE (ok (s.skimLoad x c i (k.depth - n - 1))) .skimBackgroundRefill [c, i, x]
  else []

/-- What a thread in a slot may do beside issuing. -/
def State.slotEvents (s : State) (c i : Nat) (t : Thread) : List Event :=
  let parked := match t.st with
    | .parked (.service _) _ => false
    | .parked _ _ => true
    | .empty | .running | .stalled => false
  (t.windows.filter fun w => (s.core c).mayClose w).map (fun w => ((Instr.longResultWritten, [c, i, w.wid]) : Event)) ++
  whenE (parked && s.waitOver c t) .parkedWaitSatisfied [c, i] ++
  whenE t.fault.isSome .handlerFaultDelivery [c, i] ++
  whenE (t.ended && t.speculative && s.mayCommit c t) .orderedTaskCommit [c, i] ++
  whenE ((s.core c).out.contains t.ctx && t.st != .empty && t.windows.isEmpty && !t.podAns.isSome && !t.homeAns.isSome &&
    (s.core c).modeNext.isNone && !(s.core c).midStream i t.ctl.taskh && s.spillFree t.ctx c i) .preemptContext [t.ctx, c]

/-- What a queue end of a core may pass on (R325, R326, R318). -/
def State.queueEvents (s : State) (c id : Nat) (q : Queue) : List Event :=
  let full (c' key cap : Nat) : Bool := decide (cap ≤ (s.queue c' key).items.length)
  let some_ := !q.items.isEmpty
  if id = 0x10 then whenE (some_ && !full (portTile c 4) 0x12 16 && s.portUp c 4) .fifoEntryArrival [c, 1]
  else if id = 0x11 then whenE (some_ && !full (portTile c 5) 0x13 16 && s.portUp c 5) .fifoEntryArrival [c, 0]
  else if id = 0x12 then whenE (q.popped != 0 && s.portUp c 5) .fifoPopReport [portTile c 5, 1]
  else if id = 0x13 then whenE (q.popped != 0 && s.portUp c 4) .fifoPopReport [portTile c 4, 0]
  else if 0x120 ≤ id ∧ id < 0x126 then
    let p := id - 0x120
    whenE (some_ && !full (portTile c p) (0x20 + (if p % 2 = 0 then p + 1 else p - 1)) 16 && s.portUp c p) .networkQueueArrival [c, p]
  else if qGrad id then
    if isTile c then whenE (some_ && !full (gradCore c) id 64 && s.pathUp 0 c (gradCore c)) .gradientEntryArrival [c, id - 0x28]
    else (q.owed.filter fun p => p.2 != 0 && s.pathUp 0 c p.1).map fun p => (Instr.gradientWindowUpdate, [p.1, id - 0x28])
  else if id = 0x1A then whenE (decide (4 ≤ q.items.length) && s.recFree c) .copyQueueRequest [c]
  else []

/-- What a wide barrier of a core may do (R332). -/
def State.wideEvents (s : State) (c id : Nat) (b : Barrier) : List Event :=
  match s.netOf c id with
  | none => []
  | some n =>
    let w := s.wideNet n
    whenE (b.sent && w.members.contains c && !w.arrived.contains c && !w.owing.contains c && s.pathUp 0 c (wideHub c b.bound))
      .wideBarrierArrival [c, id] ++
    whenE ((w.settle (b.bound != some 2)).owing.contains c && s.pathUp 0 (wideHub c b.bound) c) .wideBarrierCompletion [c, id]

/-- A view of a launch would rise (R346). -/
def State.viewRises (s : State) (c n : Nat) (l : Launch) : Bool :=
  s.pathUp 0 2560 c && (List.range l.stages.length).any fun st => (s.view c n st).ult (s.frontier n st) && l.frontier (s.stamps n) st == s.frontier n st

/-- A swap of a parked thread may begin, or end (R410). -/
def State.swapDue (s : State) (c : Nat) (k : Core) : Bool := match k.leaving with
  | none => (s.swapSlot c).isSome
  | some (i, _, n) => decide (n ≤ s.cycle) || !k.isLeaving i || (k.slot i).st == .empty

/-- A pre-emption of a context has something left to take from the core beside threads in slots: a thread that arrived later (R274), or skim
entries that could not leave (R236). -/
def State.stillOut (s : State) (c : Nat) (k : Core) (x : Nat) : Bool :=
  (k.arrival.any fun w => w.thr.ctx == x) || (List.range 8).any fun i =>
    ((k.slot i).st == .empty || (k.slot i).ctx != x) && (s.skim x c i).onCore != [] && s.spillFree x c i

/-- What a core may do. -/
def State.coreEvents (s : State) (c : Nat) (k : Core) : List Event :=
  whenE (k.nextArrival.isSome && k.lightSlot.isSome) .arrivalPlacement [c] ++
  (k.out.filter (s.stillOut c k)).map (fun x => ((Instr.preemptContext, [x, c]) : Event)) ++
  whenE (k.tabWant.isSome && k.tablesIdle) .tableOwnerExchange [c] ++
  whenE ((s.poolOrder c).any fun e => (s.slotFor c e).isSome) .taskPlacedInSlot [c] ++
  whenE (s.swapDue c k) .parkedThreadSwapOut [c] ++
  whenE (k.feeder.left != 0 || k.slots.any fun p => p.2.feed.isSome) .feederPush [c] ++
  whenE (k.mq != []) .matrixOpComplete [c] ++
  k.slots.flatMap (fun p => s.slotEvents c p.1 p.2) ++
  k.queues.flatMap (fun p => s.queueEvents c p.1 p.2) ++
  k.wide.flatMap (fun p => s.wideEvents c p.1 p.2) ++
  s.launches.flatMap fun p => whenE (p.2.active && s.viewRises c p.1 p.2) .frontierViewUpdate [c, p.1]

/-- What a quad may do. -/
def State.quadEvents (s : State) (q : Nat) (k : Quad) : List Event :=
  (match k.gate with
  | .pending => whenE (s.gateReady q) .quadGated [q]
  | .closing n => whenE (decide (n ≤ s.cycle) || !s.gateReady q) .quadGated [q]
  | .waking n => whenE (decide (n ≤ s.cycle)) .quadWakeComplete [q]
  | .none | .gated => []) ++
  whenE (k.flush || decide (64 ≤ k.times.length)) .quadTableFlush [q]

/-- What the exchanges of the quads may do (R229). -/
def State.mxpEvents (s : State) : List Event :=
  let qs := ((s.cores.filter fun p => p.2.mxp.isSome).map fun p => quadOf p.1).dedup
  qs.flatMap fun q =>
    whenE (s.cycle % 8 == 0 && (quadCores q).all fun c => (s.core c).mxp.isSome) .mxpExchangeStart [q] ++
    whenE ((quadCores q).any fun c => (s.mxpLate c).isSome || match (s.core c).mxp with
      | some m => (s.quad q).mxpLost.contains m.1
      | none => false) .mxpAbandon [q]

/-- What a live copy may do (R381 to R395). -/
def State.xferEvents (_ : State) (x : Xfer) : List Event :=
  if !x.live then []
  else match x.status with
    | .queued => [(.copyChannelStart, [x.seq])]
    | .parked => whenE x.pend.isSome .copyDelivery [x.seq]
    | .running =>
      if x.outcome.isSome then [(.copyCompletion, [x.seq])]
      else if x.fin.isSome then []
      else if x.op = 3 then whenE (decide (x.wp < x.total)) .treeRecordApply [x.seq]
      else whenE (!x.spent) .copyDelivery [x.seq]
    | .done | .fault | .stale => []

/-- What the launch scheduler, the dispatchers and the swapped-out threads may do. -/
def State.launchEvents (s : State) : List Event :=
  (List.range s.spawned.length).map (fun i => ((Instr.taskToDieDispatcher, [i]) : Event)) ++
  s.dispatch.flatMap (fun p => (List.range p.2.length).map fun i => (Instr.taskToCorePool, [p.1, i])) ++
  ((List.range s.waiting.length).filter fun i => match s.waiting[i]? with
    | some w => s.canStart w
    | none => false).map (fun i => (Instr.launchNumberTaken, [i])) ++
  s.launches.flatMap (fun p =>
    whenE (p.2.active && !p.2.ended && !p.2.aborted && s.passed p.1) .launchEnd [p.1] ++
    whenE (p.2.active && p.2.ended && (s.stamps p.1).isEmpty) .launchRetire [p.1] ++
    whenE (p.2.active && p.2.aborted && !p.2.ended) .launchAbort [p.1]) ++
  ((s.completions.map fun c => c.queue).dedup.map fun q => (Instr.completionRecordWrite, [q])) ++
  whenE (s.ovf != [] && decide (s.devQ.length < 4096)) .deviceOverflowRefill [] ++
  s.away.flatMap fun a => whenE (!a.preempted && s.waitOver a.core a.thr) .parkedWaitSatisfied [a.core, a.slot]

/-- What the links to other cubes, the sequencers and the mailboxes may do. -/
def State.podEvents (s : State) : List Event :=
  ((List.range s.podOut.length).filter fun i => match s.podOut[i]? with
    | some m => s.podFirst i m
    | none => false).map (fun i => ((Instr.podMessageForward, [0, i]) : Event)) ++
  s.sendQ.flatMap (fun p => whenE (p.2 != [] && (s.chainPort p.1).isSome) .chainDataWindow [p.1]) ++
  whenE (s.ckpt.state == 1 && decide (s.ckpt.sent < ckptPages)) .checkpointComplete [0] ++
  whenE (s.nonceMask == 255) .attestReportReady [] ++
  whenE s.swap.isSome .remapSwapRun [0] ++
  whenE s.adaptive.isSome .remapSwapRun [1]

/-- The requests of the host that waited and may be served: the first of each service core, while the port carries traffic (R31, R447). -/
def State.hostEvents (s : State) : List Event :=
  if s.hostShut then [] else s.hostIn.filter fun e => (s.hostIn.find? fun f => serviceOf f == serviceOf e) == some e

/-- Everything that may happen of itself now, in no order. -/
def State.events (s : State) : List Event :=
  let s : State := { s with args := [] }
  s.net.flatMap (fun p => s.msgEvents p.1 p.2) ++
  s.gran.flatMap (fun p => s.granEvents p.1 p.2) ++
  s.cores.flatMap (fun p => s.coreEvents p.1 p.2) ++
  s.skims.flatMap (fun p => s.skimEvents p.1 p.2) ++
  s.quads.flatMap (fun p => s.quadEvents p.1 p.2) ++
  s.mxpEvents ++
  s.dieTimes.flatMap (fun p => whenE (p.2 != [] && s.dieFull p.1) .dieTableFlush [p.1]) ++
  s.xfers.flatMap (fun x => s.xferEvents x) ++
  s.launchEvents ++ s.podEvents ++ s.asks ++ s.hostEvents

/-! ## Time -/

/-- Skim entries leave the cores whose mode changes (R170, R236). -/
def State.spillCore (s : State) (c : Nat) : State :=
  s.skims.foldl (fun s p =>
    if p.1 / 8 % 4096 = c ∧ (s.skim (p.1 / 32768) c (p.1 % 8)).onCore ≠ [] then s.spillAll (p.1 / 32768) c (p.1 % 8) else s) s

/-- A rotation boundary (R57, R170): the mode changes that wait for it. -/
def State.rotate (s : State) : State :=
  if s.cycle % 8 ≠ 0 then s else
  s.cores.foldl (fun s p => if p.2.modeNext.isSome then (s.spillCore p.1).modCore p.1 Core.remode else s) s

/-- Whether a multiple of n lies above the first number and not above the second. -/
def crosses (n a b : Nat) : Bool := a / n != b / n

/-- The events that the clocks bring at this cycle, whose screed time was `scr` and pod time `pod` the cycle before. -/
def State.clockEvents (s : State) (scr pod : Nat) : List Event :=
  whenE (s.cycle % 32 == 0 && (s.turning != [] || s.ringWrites != [] || s.ringsOwe)) .ringStep [] ++
  whenE (s.cycle % 256 == 0) .ebudgetRefill [] ++
  (if s.cycle % 64 = 0 then (s.quads.filter fun p => p.2.times != []).map fun p => ((Instr.quadTableFlush, [p.1]) : Event) else []) ++
  (if crosses (4 * 64) scr s.scr4 then (s.dieTimes.filter fun p => p.2 != []).map fun p => ((Instr.dieTableFlush, [p.1]) : Event)
    else []) ++
  whenE (crosses (4 * 8) scr s.scr4 && s.offers != []) .launchArbitration [] ++
  whenE (crosses (4 * 2 ^ 24) scr s.scr4) .regionCountHalving [] ++
  whenE (crosses (4 * 1024) scr s.scr4 && (s.cwGet 0x88).getLsbD 32 && Config.choice s.fresh % 2 == 0) .topologySwap [] ++
  whenE (!s.bring.full && s.cycle % 2 ^ 20 == 0) .fullServiceBegin [] ++
  whenE (match s.chainNext with
    | some n => decide (8 * s.chainDue n ≤ s.pod8)
    | none => false) .chainTableInstall [1] ++
  whenE (decide (pod < s.pod8) && match s.slotNow with
    | some (occ, _, _) => s.chainSlot.map Prod.fst != some occ
    | none => false) .chainSlotStart []

/-- A cycle passes (R29, R60): joins and completions of barriers at its end, then the next cycle with what its clocks bring, and an
issue position for each core that holds a thread. -/
def State.tick (s : State) : State :=
  let scr := s.scr4
  let pod := s.pod8
  let s := s.endBarriers
  let s : State := { s with
    cycle := s.cycle + 1, scr4 := scr + (if s.bring.full then 3 else 6), pod8 := pod + (if s.bring.full then 5 else 10) }
  let s := s.rotate.settleViews
  { s with
    agenda := s.agenda ++ s.clockEvents scr pod
    fresh := if (s.cwGet 0x88).getLsbD 32 then s.fresh + 1 else s.fresh
    issueQ := (s.cores.filter fun (p : Nat × Core) => p.2.slots.any fun q => q.2.st == .running || q.2.st == .stalled).map Prod.fst }

/-! ## One step -/

/-- What one step can be: an event, the issue position of a core, or the passing of a cycle. -/
inductive Move where
  | event (e : Event)
  | issue (c : Nat)
  | tick
  deriving DecidableEq, Repr

/-- The moves open to a state: the first event that is due, everything that may happen of itself, and the next issue position;
when nothing is due and every position has been offered, the cycle may pass. -/
def State.moves (s : State) : List Move :=
  (match s.agenda with
  | e :: _ => [.event e]
  | [] => []) ++ s.events.map Move.event ++
  match s.issueQ with
  | c :: _ => [.issue c]
  | [] => if s.agenda = [] then [.tick] else []

/-- A request of the host that waited is made: it keeps its place while it must wait on. -/
def State.serveHost (s : State) (e : Event) : Host.Outcome State Fault Refusal :=
  let others := s.hostIn.filter fun f => serviceOf f != serviceOf e
  andThen (exec e.1 { s with args := e.2, hostIn := others }) fun s' =>
    .next { s' with hostIn := if s'.hostIn.contains e then s.hostIn else s.hostIn.erase e }

/-- Make a move: what is due leaves the agenda, and a request that waited its list. -/
def State.make (s : State) (m : Move) : Host.Outcome State Fault Refusal :=
  match m with
  | .event e =>
    if s.agenda.head? = some e then exec e.1 { s with agenda := s.agenda.tail, args := e.2 }
    else if s.hostIn.contains e then s.serveHost e
    else exec e.1 { s with asks := s.asks.erase e, args := e.2 }
  | .issue c => ({ s with issueQ := s.issueQ.tail } : State).issue c
  | .tick => .next s.tick

/-- One of the moves, freely chosen when there is more than one. -/
def State.choose (s : State) : Move × State :=
  match s.moves with
  | [] => (.tick, s)
  | [m] => (m, s)
  | m :: ms => ((m :: ms).getD (Config.choice s.fresh % (ms.length + 1)) m, s.nextFree.2)

/-- One step of the package. -/
def State.stepOnce (s : State) : Host.Outcome State Fault Refusal :=
  let p := s.choose
  p.2.make p.1

end Sys2Proof.Machine
end

