-- ==== Sys2Proof/Machine/Step.lean ====
section
/-!
DEFINITION. One step of the package, and the laying of one instruction where the next step issues it.
-/

namespace Sys2Proof.Machine

/-- One step: an event that is due or may happen, the issue position of one core, or the passing of a cycle. -/
def step (s : State) : Host.Outcome State Fault Refusal := s.stepOnce

/-- The PC at which `withFetchWord` lays its instruction: slot 1 of a line of the context's global address space. -/
def probePc : Word := 0x40002

/-- The thread that `withFetchWord` seats: the first task of launch 0 in context 0, at its start. -/
def probeThread : Thread :=
  let t : Thread := { ctl := { taskh := 1 } }
  t.start probePc []

/-- The state with one instruction, its line laid in HBM, and all that a program must have been given for it to issue in the very next
step: a joined layer, a context with page tables, a launch with one count, its thread in slot 0 of tile 0, and the issue
position of that core. -/
def State.withFetchWord (s : State) (nbits w : Nat) : State :=
  let ht := splitTableWord nbits w
  let line := leNat (bytesOfHalfwords (oneHeadLine ht.1 ht.2))
  let s := (s.cwSet (ctxOff 0) 1).cwSet (ctxOff 0 + 8) 0x10000
  let s := s.writeN (s.hbmLoc 0x10000).key 0x20001 8
  let s := s.writeN (s.hbmLoc 0x20000).key 0xF 8
  let s := s.writeN (s.hbmLoc 0x40000).key line 64
  let s := s.setThrAt 0 0 probeThread
  { s with
    bring := { s.bring with screed := true, layers := s.bring.layers.set 0 2 }
    launches := s.launches.set 0 { active := true, stages := [1], final := noTime }
    pkgTimes := [⟨0, 0, 0, 1⟩]
    issueQ := [0] }

end Sys2Proof.Machine
end

