-- ==== Sys2Proof/Safety.lean ====
section
/-!
DEFINITION. What counts as a safe run, and the terms in which claims are stated: outcomes that go on, invariants that steps keep, and
what it is for an instruction to complete with an effect.
-/

namespace Sys2Proof

open Machine

/-- An outcome is a next state. -/
def Goes (o : Host.Outcome State Fault Refusal) : Prop := ∃ t, o = .next t

/-- The memory of a state has its one canonical form: addresses strictly rising, no zero byte listed. -/
def MemOk (s : State) : Prop := memWf s.mem = true

/-- A step keeps a property of states. -/
def Keeps (inv : State → Prop) : Prop := ∀ s t, inv s → step s = .next t → inv t

/-! ## Completion -/

/-- The state after an instruction whose effect is in `t`: alone at its turn the instruction ends there; as a head of a bundle it
is held for the other head (R62). -/
def after (s t : State) : State := if s.cur.place = .single then t.endInstr else t.recordHead .ok

/-- In `s` the instruction completes with the effect that `t` holds. -/
def Completes (i : Instr) (s t : State) : Prop := exec i s = .next (after s t)

/-- The instruction has passed what stands before its own effect (R110, R42, R232), which leaves `s1`. -/
def Ready (i : Instr) (s s1 : State) : Prop := s.vetted i = .ok s1

/-- In `s` the thread leaves its place or the instruction waits part of the way, with the effect that `t` holds. -/
def Leaves (i : Instr) (s t : State) : Prop :=
  exec i s = .next (if s.cur.place = .single then t else t.recordHead .gone)

/-- The meaning of an instruction parts from its thread's place: it issues again in `t`. -/
def Again (i : Instr) (s t : State) : Prop :=
  exec i s = .next (if s.cur.place = .single then t else t.recordHead .again)

/-- The instruction faults alone at its turn: no effect but the exception (R14, R427). -/
def FaultsWith (i : Instr) (s : State) (f : FaultInfo) : Prop := s.cur.place = .single → exec i s = .next (s.takeFault f)

/-- No uncommitted ordered task has read a line: a write of the hardware's own runs none of them again (R291). -/
def NoReads (s : State) : Prop := ∀ p ∈ s.cores, ∀ e ∈ p.2.spec, e.read = false

/-- An event takes place with the effect that `t` holds. -/
def Happens (i : Instr) (s t : State) : Prop := exec i s = .next t

/-- The first source, and what is left when it has been read. -/
abbrev src1 (s : State) (a : GSpec) : Word := (s.rd a).1
/-- The second source, read after the first. -/
abbrev src2 (s : State) (a b : GSpec) : Word := ((s.rd a).2.rd b).1
/-- The state when two sources have been read, the first before the second (R42, R135). -/
abbrev read2 (s : State) (a b : GSpec) : State := ((s.rd a).2.rd b).2

/-- `op d, a, b` writes a function of its sources to d, in every operand form. -/
def Binary (op : GSpec → GSpec → GSpec → Instr) (f : Word → Word → Word) : Prop :=
  ∀ d a b s s1, Ready (op d a b) s s1 →
    Completes (op d a b) s ((read2 s1 a b).wr d (f (src1 s1 a) (src2 s1 a b)))

/-- `op d, a, b` writes a function of its sources to d and sets flags. -/
def BinaryF (op : GSpec → GSpec → GSpec → Instr) (f : Word → Word → Word) (fl : Word → Word → BitVec 5) : Prop :=
  ∀ d a b s s1, Ready (op d a b) s s1 →
    Completes (op d a b) s
      (((read2 s1 a b).addFlags (fl (src1 s1 a) (src2 s1 a b))).wr d (f (src1 s1 a) (src2 s1 a b)))

/-- `op d, a, b ~L` sets flags at issue; its result is in a window that the lookahead opens. -/
def BinaryL (op : GSpec → GSpec → GSpec → Look → Instr) (f : Word → Word → Word) (fl : Word → Word → BitVec 5) : Prop :=
  ∀ d a b l s s1, Ready (op d a b l) s s1 →
    Completes (op d a b l) s
      (((read2 s1 a b).addFlags (fl (src1 s1 a) (src2 s1 a b))).longG d l.toNat (f (src1 s1 a) (src2 s1 a b)))

/-- `op d, a` writes a function of its source to d. -/
def Unary (op : GSpec → GSpec → Instr) (f : Word → Word) : Prop :=
  ∀ d a s s1, Ready (op d a) s s1 → Completes (op d a) s ((s1.rd a).2.wr d (f (src1 s1 a)))

/-- `op d` writes what it reads of the state to d. -/
def Reads (op : GSpec → Instr) (f : State → Word) : Prop :=
  ∀ d s s1, Ready (op d) s s1 → Completes (op d) s (s1.wr d (f s1))

/-- `op pD` writes what it reads of the state to a predicate. -/
def SetsP (op : PReg → Instr) (f : State → Bool) : Prop :=
  ∀ d s s1, Ready (op d) s s1 → Completes (op d) s (s1.wp d (f s1))

/-- An instruction whose effect is one function of the state, taken always. -/
def Acts (i : Instr) (f : State → State) : Prop := ∀ s s1, Ready i s s1 → Completes i s (f s1)

/-- An instruction whose effect is one function of the state, taken where a condition holds. -/
def ActsIf (i : Instr) (c : State → Prop) (f : State → State) : Prop := ∀ s s1, Ready i s s1 → c s1 → Completes i s (f s1)

/-- An event whose effect is one function of the state, taken where a condition holds. -/
def HappensIf (i : Instr) (c : State → Prop) (f : State → State) : Prop := ∀ s, c s → Happens i s (f s)

/-- The result of an element-wise vector instruction: the active elements of F, the others as they were (R177). -/
def elementwise (vd : VSpec) (k : KReg) (f : Fmt) (sr : Bool) (op : State → Nat → Nat → Nat × Flags) (s : State) : State :=
  s.vdone vd (eachElem (s.env.w f) (s.rk k) (s.rv vd) (fun _ => sr && s.env.sr) (op s) (List.range (s.env.n f))
    { lfsr := s.env.lfsr })

/-! ## Terms of the statements -/

/-- The conditions of R96 on two words: signed, or unsigned in the forms ending in n; `.uo` never holds of integers. -/
def condHolds (c : Cond) (x y : Word) : Prop :=
  match c with
  | .eq => x = y
  | .ne => x ≠ y
  | .lt => x.toInt < y.toInt
  | .le => x.toInt ≤ y.toInt
  | .gt => y.toInt < x.toInt
  | .ge => y.toInt ≤ x.toInt
  | .ltn => x.toNat < y.toNat
  | .len => x.toNat ≤ y.toNat
  | .gtn => y.toNat < x.toNat
  | .gen => y.toNat ≤ x.toNat
  | .uo => False

/-- The target that R79 computes from a line-slot displacement of w bits. -/
def dispTarget (pc : Word) (w : Nat) (disp : BitVec w) : Word :=
  ((pc.extractLsb' 6 58 + (disp.extractLsb' 5 (w - 5)).signExtend 58) ++ (0#6 : BitVec 6)) + BitVec.ofNat 64 (2 * (disp.toNat % 32))

/-- The element accesses that R306, R307 and R313 make: those of active elements that are not yet done, in order. -/
def activeLanes (s : State) (a : GSpec) (vb : VSpec) (k : KReg) (w iw n sh : Nat) : List (Nat × Nat) :=
  ((List.range n).filter fun i => (s.rk k).getLsbD (w * i / 8) && !s.thr.done.testBit i).map fun i =>
    (i, (s.rg a + BitVec.ofInt 64 (((s.rv vb).extractLsb' (iw * i) iw).toInt * 2 ^ sh)).toNat)

/-- The quad slot index by which a barrier knows the issuing slot (R5). -/
def barIndex (s : State) : Nat := if isTile s.cur.core then 8 * inQuad s.cur.core + s.cur.slot else s.cur.slot

/-- The barrier that the issuing thread names. -/
def barHere (s : State) (id : BitVec 9) : Barrier := s.bar s.cur.core id.toNat

/-- Put it back changed. -/
def putBar (s : State) (id : BitVec 9) (b : Barrier) : State := s.setBar s.cur.core id.toNat b

/-- The thread's context may use it: it owns it, and a wide one is bound (R328). -/
def barMine (s : State) (id : BitVec 9) : Prop :=
  (barHere s id).owner = some s.thr.ctx ∧ (448 ≤ id.toNat → (barHere s id).bound ≠ none)

/-- A change of count by the issuing thread, which is noted with it. -/
def counted (s : State) (st : Nat) (tm : Word) (n : Int) : State :=
  (s.setThr { s.thr with counted := true }).count s.cur.core s.thr.launch st tm n
/-- It finds room (R344). -/
def roomAt (s : State) (st : Nat) (tm : Word) : Prop := s.countRoom s.cur.core s.thr.launch st tm = true

/-- The sum of the deltas of a list at a pointstamp of a launch. -/
def sumAt (launch stage : Nat) (tm : Word) (ds : List Delta) : Int :=
  ((ds.filter fun d => d.launch == launch && d.stage == stage && d.time == tm).map fun d => d.d).sum

/-- What a release at a scope waits for (R282): each earlier access of its thread has been performed there; and, which is the model's
reading of R284 (log entry 123), so have those that other threads released toward its core. -/
def Released (s : State) (sc : FScope) : Prop :=
  (∀ p ∈ s.src.pend, match sc with
    | .lane => True
    | .core => (isTile s.cur.core = true → p.owner ≠ s.cur.core) ∧ (p.pod = true ∨ p.amo = false)
    | .quad | .die | .pkg => p.pod = true
    | .pod => False) ∧ s.passedOn s.cur.core sc = true

/-- A release notes the accesses that its scope did not wait for. -/
def noted (s : State) : State := s.setThr { s.thr with pend := s.thr.pend.map fun p => { p with rel := true } }

/-- R345, R348: what a move of the thread's pointstamp leaves: both counts changed, the increment first, with LTIME and STAGE at the new
pointstamp. -/
def movedTo (s : State) (st : Nat) (tm : Word) : State :=
  let s' := counted (counted (noted s) st tm 1) (stageOf s.thr.ctl) s.thr.ctl.ltime (-1)
  s'.modCtl fun k => { k with ltime := tm, stage := putField k.stage (word (st + 1024 * (s.myLaunch.depth st - 1))) 0xC3F }

/-- A move need not wait: its thread is not speculative, what it has accessed has been performed at `.pkg` (the model's reading of R295
and R354, log entry 103), and its counts find room (R344). -/
def movable (s : State) (st : Nat) (tm : Word) : Prop :=
  s.thr.speculative = false ∧ Released s .pkg ∧ roomAt s st tm ∧
  roomAt (counted (noted s) st tm 1) (stageOf s.thr.ctl) s.thr.ctl.ltime

/-- A time may be given to a child or a hold at a stage (R351): the launch reaches it from the thread's pointstamp no later, it has no
counter beyond the stage's depth, and it is a time. -/
def timeAllowed (s : State) (st : Nat) (tm : Word) : Prop :=
  ∃ r, s.myLaunch.reach (stageOf s.thr.ctl) s.thr.ctl.ltime st = some r ∧ r ≤ tm ∧ fitsDepth tm (s.myLaunch.depth st) = true ∧
    tm ≠ BitVec.allOnes 64

/-- The ring through the issuing core that an instruction names, and the core's position on it (R358). -/
def ringHere (s : State) (r : RingKind) : Nat := ringKey r.toBits.toNat s.cur.core

/-- The position of the issuing core on it. -/
def posHere (s : State) (r : RingKind) : Nat := ringPos r.toBits.toNat s.cur.core

/-- The thread's context and launch are those of the enabled ring (R360). -/
def belongs (s : State) (r : RingKind) : Prop :=
  let g := s.ring (ringHere s r)
  g.enabled = true ∧ g.ctx = s.thr.ctx ∧ g.launch = s.thr.launch

/-- The release of an ordering field, if it asks for one, need not wait (R283). -/
def relReady (s : State) (o : MemOrd) : Prop := ∀ sc, o = .at sc → Released s (OrdScope.fence sc)
/-- What it leaves. -/
def relState (s : State) (o : MemOrd) : State :=
  match o with
  | .none => s
  | .at _ => noted s

/-- The tile of a slice address (R258). -/
def sliceTile (ea : Nat) : Nat := (ea - 2 ^ 47) / 2 ^ 22
/-- Its offset there. -/
def sliceOff (ea : Nat) : Nat := (ea - 2 ^ 47) % 2 ^ 22
/-- Its place. -/
def sliceSpot (ea : Nat) : Spot := ⟨⟨2 ^ 41 + sliceTile ea * 2 ^ 22 + sliceOff ea, sliceTile ea⟩, none, word ea⟩

/-- A granule of a slice is the context's, and no image of it is still to be copied back (R420, R426). -/
def Granted (s : State) (ctx ea : Nat) : Prop :=
  s.grantee (sliceTile ea) (sliceOff ea / 2 ^ 16) = some ctx ∧
    FMap.find (imageKey ctx (sliceTile ea) (sliceOff ea / 2 ^ 16)) s.images = none

/-- An aligned access of n bytes of a slice passes the checks of R260: the granule is the context's, its tile is awake, no copy holds a
lock there and no error mark stands; no acquire holds the thread's accesses back (R283), and the thread need not walk (R269). -/
def SliceOpen (s : State) (ea n : Nat) : Prop :=
  2 ^ 47 ≤ ea ∧ ea < 2 ^ 47 + 2 ^ 33 ∧ ea % n = 0 ∧ s.held = false ∧
  Granted s s.thr.ctx ea ∧ s.shutAt (sliceTile ea) = false ∧
  (s.thr.light = false ∨ s.thr.ctl.wmode.getLsbD 1 = false ∨ sliceTile ea = s.cur.core) ∧
  s.rangeLocked (2 ^ 41 + sliceTile ea * 2 ^ 22 + sliceOff ea) true = false ∧ s.poison = []

/-- The thread's earlier accesses of its own core have been performed, and so have its atomics in the package (R282). -/
def NearDone (s : State) : Prop := ∀ p ∈ s.thr.pend, (isTile s.cur.core = true → p.owner ≠ s.cur.core) ∧ (p.pod = true ∨ p.amo = false)

/-- Lines of slices from an aligned address pass the checks of an instruction's own read of its operand (R172, R260, R351), with no
earlier access of the thread's core to wait for (R280), no skim entry in their place and the tiles in reach (R472); the bytes are those of
memory. -/
def LinesOpen (s : State) (ea lines : Nat) : Prop :=
  s.held = false ∧ s.skims = [] ∧ s.poison = [] ∧ s.thr.speculative = false ∧
  NearDone s ∧ 2 ^ 47 ≤ ea ∧ ea + 64 * lines ≤ 2 ^ 47 + 2 ^ 33 ∧
  ∀ i < lines, let a := ea + 64 * i
    Granted s s.thr.ctx a ∧ s.shutAt (sliceTile a) = false ∧
    s.rangeLocked (sliceSpot a).loc.key false = false ∧ s.lineBusy s.cur.core ((sliceSpot a).loc.key / 64) = false ∧
    s.reaches s.cur.core (sliceTile a) = true
/-- The bytes that such an operand has. -/
def linesAt (s : State) (ea lines : Nat) : List Byte := (List.range (64 * lines)).map fun i => s.byte (2 ^ 41 + (ea - 2 ^ 47) + i)
/-- An instruction has read its operand of some lines, which leaves `t`: from slices open to it, or as the checks of its aperture let it. -/
def OperandRead (s : State) (ea lines : Nat) (bs : List Byte) (t : State) : Prop :=
  ea % 64 = 0 ∧ (LinesOpen s ea lines ∧ bs = linesAt s ea lines ∧ t = s ∨ s.bulk ea lines = .ok (bs, t))

/-- n bytes of one line of a slice, aligned, pass the same checks. -/
def PartOpen (s : State) (ea n : Nat) : Prop :=
  s.held = false ∧ s.skims = [] ∧ s.poison = [] ∧ NearDone s ∧
  2 ^ 47 ≤ ea ∧ ea < 2 ^ 47 + 2 ^ 33 ∧ ea % n = 0 ∧ Granted s s.thr.ctx ea ∧
  s.shutAt (sliceTile ea) = false ∧ s.rangeLocked (sliceSpot ea).loc.key false = false ∧
  s.lineBusy s.cur.core ((sliceSpot ea).loc.key / 64) = false ∧ s.reaches s.cur.core (sliceTile ea) = true

/-- The 96 bytes of an entry's place in slices pass the checks of the stack's own access (R240, R260). -/
def EntryOpen (s : State) (ctx ea : Nat) : Prop :=
  s.poison = [] ∧ 2 ^ 47 ≤ ea ∧ ea + 96 ≤ 2 ^ 47 + 2 ^ 33 ∧ ∀ n < 3, let a := ea + 32 * n
    Granted s ctx a ∧ s.shutAt (sliceTile a) = false ∧
    s.rangeLocked (sliceSpot a).loc.key true = false
/-- The three parts of an entry's place are found, which leaves `t`: in slices, or as the checks of their apertures let them; they do not
overlap. -/
def EntryAt (s : State) (core ctx : Nat) (base : Word) (e : Nat) (write : Bool) (p : Nat × Nat × Nat) (t : State) : Prop :=
  let ea := base.toNat + 96 * e; let key := 2 ^ 41 + (ea - 2 ^ 47)
  EntryOpen s ctx ea ∧ p = (key, key + 32, key + 64) ∧ t = s ∨
  s.skimSpots core ctx base e write = .ok (p, t) ∧ [p.1, p.2.1, p.2.2].Pairwise fun x y => x + 32 ≤ y ∨ y + 32 ≤ x

/-- No thread of a slot is out of it with a save record: neither in the pool nor swapped out. -/
def NoneOut (s : State) (core slot : Nat) : Prop :=
  (∀ a ∈ s.away, a.core = core → a.slot ≠ slot) ∧ ∀ e ∈ (s.core core).pool, ∀ i f t b, e = .back i f t b → i ≠ slot

/-- A placement of a descriptor or packet is accepted (R408), which leaves `t`. -/
def Placed (s : State) (kind num ea : Nat) (pl : Place) (t : State) : Prop :=
  (kind = 0 ∨ kind = 1 ∧ num ≤ 2559 ∧ inSpan s.myLaunch.span num = true ∨
    kind = 2 ∧ num < 2048 ∧ num % 2 = 0 ∧ num / 16 % 2 = 0 ∧ inSpan s.myLaunch.span num = true ∨
    kind = 3 ∧ num ≤ 7 ∧ s.myLaunch.span.testBit num = true) ∧ pl = { kind := kind, num := num } ∧ t = s ∨
  kind = 4 ∧ s.place s.cur.core s.thr.ctx s.myLaunch.span kind num ea = .ok (some pl, t)

/-- An aligned access of n bytes of another cube passes the checks that its own cube makes (R260, R450). -/
def FarOpen (s : State) (ea n : Nat) : Prop :=
  2 ^ 60 ≤ ea ∧ ea < 2 ^ 61 ∧ ea / 2 ^ 48 % 4096 ≠ s.selfCube ∧ s.cubeOk (ea / 2 ^ 48 % 4096) = true ∧ ea % 2 ^ 48 < 2 ^ 47 ∧
  ea % n = 0 ∧ s.held = false
/-- The place of an address of another cube, which that cube finds. -/
def farSpot (ea : Nat) : Spot := ⟨⟨0, 2560⟩, some (word ea), word ea⟩

/-- The accesses that an instruction of elements sends: one for each element of a list, in order, with the place, the kind and the
landing of that element, owed to one window. -/
def Sends (s t : State) (n wid : Nat) (ls : List (Nat × Nat)) (spot : Nat → Spot) (kind : Nat → AccKind) (land : Nat → Land) : Prop :=
  ∃ as : List Access, t.net = s.net ++ as.map (fun a => (a.msg, Msg.access a)) ∧ as.length = ls.length ∧
    ∀ j a p, as[j]? = some a → ls[j]? = some p → a.msg = s.nextMsg + j ∧ a.core = s.cur.core ∧ a.slot = s.cur.slot ∧
      a.taskh = s.thr.ctl.taskh ∧ a.ctx = s.thr.ctx ∧ a.wid = wid ∧ a.bytes = n ∧ a.key = (spot p.2).loc.key ∧
      a.owner = (spot p.2).loc.owner ∧ a.pod = none ∧ a.kind = kind p.1 ∧ a.land = land p.1

/-- n bytes from an address lie in the issuing core's own slice. -/
def inSlice (s : State) (ea : Word) (n : Nat) : Prop :=
  2 ^ 47 + s.cur.core * 2 ^ 22 ≤ ea.toNat ∧ ea.toNat + n ≤ 2 ^ 47 + (s.cur.core + 1) * 2 ^ 22

/-- R389, R393: what `coll` instructions check: a resident thread of a compute tile whose context owns the group and whose router has
a local member. -/
def collMay (s : State) (grp : BitVec 8) (e : GroupEntry) : Prop :=
  s.thr.light = false ∧ isTile s.cur.core = true ∧ s.groupAt s.cur.core grp.toNat = some e ∧
  s.ownsGroup s.thr.ctx grp.toNat = true ∧ e.children.testBit 6 = true ∧ s.thr.speculative = false

/-- Element j, of width w, of a line (R176). -/
def el (w : Nat) (x : Line) (j : Nat) : BitVec w := x.extractLsb' (w * j) w

/-- The value of an element by the signedness of its format (R111). -/
def elInt (sg : Bool) {w : Nat} (x : BitVec w) : Int := if sg then x.toInt else x.toNat

/-- An instruction completes element by element (R177): where the mask is 1 the elements of vd are those of `g`, elsewhere they are as
they were, what lies above them is 0; SAT is set where an active element says so. -/
def Lanes (i : Instr) (vd : VSpec) (k : KReg) (s s1 : State) (w : Nat) (g : Nat → BitVec w) (sat : Nat → Bool) : Prop :=
  let act (j : Nat) : Bool := (s1.rk k).getLsbD (w * j / 8)
  ∃ x : Line, Completes i s
      ((s1.wv vd x).addFlags (if (List.range (512 / w)).any (fun j => act j && sat j) then fSat else fNone)) ∧
    (∀ j < 512 / w, el w x j = if act j then g j else el w (s1.rv vd) j) ∧ x.toNat < 2 ^ (w * (512 / w))

/-- A vector instruction of two sources in every integer format and signedness. -/
def LanesInt (op : VSpec → VSpec → VSpec → KReg → Fmt → Energy → Instr) (sgs : List Bool)
    (g : (sg : Bool) → (w : Nat) → BitVec w → BitVec w → BitVec w) (sat : (sg : Bool) → (w : Nat) → BitVec w → BitVec w → Bool) : Prop :=
  ∀ vd va vb k f e s s1 sg w, Ready (op vd va vb k f e) s s1 → s1.env.cf f = .int sg w → sg ∈ sgs →
    Lanes (op vd va vb k f e) vd k s s1 w (fun j => g sg w (el w (s1.rv va) j) (el w (s1.rv vb) j))
      (fun j => sat sg w (el w (s1.rv va) j) (el w (s1.rv vb) j))

/-- A vector instruction of two sources in a float format, element by element on values. -/
def LanesFloat (op : VSpec → VSpec → VSpec → KReg → Fmt → Energy → Instr) (sr : Bool)
    (g : FFmt → RMode → Nat → FV → FV → Nat × Flags) : Prop :=
  ∀ vd va vb k f e s s1 ff, Ready (op vd va vb k f e) s s1 → s1.env.cf f = .flt ff →
    Completes (op vd va vb k f e) s
      (elementwise vd k f sr (fun s j u => g ff s.env.rm u (ff.value (s.el va f j)) (ff.value (s.el vb f j))) s1)

/-- The special functions in the order of their tables (R172). -/
def specialOp (n : Nat) (vd va : VSpec) (k : KReg) (f : Fmt) (l : Look) (e : Energy) : Instr :=
  match n with
  | 0 => .vrcp vd va k f l e
  | 1 => .vrsq vd va k f l e
  | 2 => .vsqrt vd va k f l e
  | 3 => .vexp2 vd va k f l e
  | 4 => .vlog2 vd va k f l e
  | 5 => .vsin vd va k f l e
  | 6 => .vcos vd va k f l e
  | _ => .vtanh vd va k f l e

/-- The stochastic word of element j (R123, R124): of the active elements of a result each that takes one takes the next, in order. -/
def srWord (s : State) (w : Nat) (k : KReg) (take : Nat → Bool) (j : Nat) : Nat :=
  Nat.iterate lfsrWord (((List.range (j + 1)).filter fun i => (s.rk k).getLsbD (w * i / 8) && take i).length) s.env.lfsr

/-- A forward instruction with room on core completes: vd's active elements are its results, and one entry stands on the stack. -/
def Pushes (i : Instr) (w : Fwd) (n : State → Nat) (ok : State → Prop) (aux : State → Word)
    (res : (s : State) → Nat → BitVec (n s)) : Prop :=
  ∀ s s1, Ready i s s1 → ok s1 → let k := s1.mySkim
    s1.srcSkim.depth < s1.srcSkim.capacity → k.onCore.length < 8 → ∃ t : State, ∃ img, Completes i s t ∧ t.mem = s.mem ∧
      t.mySkim = { k with onCore := (k.depth, img) :: k.onCore, depth := k.depth + 1, bad := FMap.del k.depth k.bad } ∧
      img.toNat / 2 ^ 512 = w.tag s1.here.mode (aux s1) (s1.rk w.k) k.last k.lastValid % 2 ^ 256 ∧
      ∀ j < 512 / n s1, el (n s1) (t.rv w.vd) j =
        if (s1.rk w.k).getLsbD (n s1 * j / 8) then res s1 j else el (n s1) (s1.rv w.vd) j

/-- An undo on a core that holds its entry completes: va's elements are the inverses of vd's under the recorded mask, and the entry is
gone; an empty stack, an entry of another instruction, an entry that carries an error mark and a speculative thread fault. -/
def Pops (i : Instr) (w : State → Fwd) (shape : State → Word → PairShape) (inv : State → Word → Nat → Nat → Nat → Nat) : Prop :=
  ∀ s s1, Ready i s s1 → let k := s1.mySkim
    (s1.thr.speculative = true → FaultsWith i s { cause := .skimOrder }) ∧
    (s1.thr.speculative = false → k.depth = 0 → FaultsWith i s { cause := .skimUnderflow }) ∧
    ∀ img rest, s1.thr.speculative = false → 0 < k.depth → k.onCore = (k.depth - 1, img) :: rest → let tag := img.toNat / 2 ^ 512
      let marked := FMap.get 0 k.bad (k.depth - 1) ≠ 0
      (marked → FaultsWith i s { cause := .memError }) ∧
      (¬marked → tagKey tag ≠ tagKey ((w s1).tag s1.here.mode 0 0 0 false) → FaultsWith i s { cause := .skimOrder }) ∧
      (¬marked → tagKey tag = tagKey ((w s1).tag s1.here.mode 0 0 0 false) → ∃ t : State, Completes i s t ∧ t.mem = s.mem ∧
        t.mySkim = k.fall (k.depth - 1) ∧ let aux := word (tag / 2 ^ 64); let p := shape s1 aux
        ∀ j < p.na, el p.wa (t.rv (w s1).va) j = if (word tag).getLsbD (p.wd * j / 8) then
          BitVec.ofNat p.wa (inv s1 aux j (el p.wd (s1.rv (w s1).vd) j).toNat (img.toNat % 2 ^ 512 / 2 ^ (p.mw * j) % 2 ^ p.mw))
          else el p.wa (s1.rv (w s1).va) j)

/-- After a forward instruction, its undo, wherever the stack, vd and the mode are as it left them, restores va's active elements and
the depth, and sets no flag. -/
def Restores (fw un : Instr) (vd va : VSpec) (k : KReg) (ok : State → Prop) (wd wa na : State → Nat) : Prop :=
  ∀ s s1, Ready fw s s1 → ok s1 → s1.srcSkim.depth < s1.srcSkim.capacity → s1.mySkim.onCore.length < 8 → ∃ t : State, Completes fw s t ∧
    ∀ u u1, Ready un u u1 → u1.thr.speculative = false → u1.mySkim = t.mySkim → u1.rv vd = t.rv vd → u1.here.mode = s1.here.mode →
      ∃ v : State, Completes un u v ∧ v.mem = u.mem ∧ v.cur.flags = u1.cur.flags ∧ v.mySkim.depth = s1.mySkim.depth ∧
        ∀ j < na s1, el (wa s1) (v.rv va) j =
          if (s1.rk k).getLsbD (wd s1 * j / 8) then el (wa s1) (s1.rv va) j else el (wa s1) (u1.rv va) j

/-- What an instruction may write beside its PC and its turn: general registers, predicates, lane masks, vector registers of its slot,
flags, and whether ROUND may step. -/
structure Dests where
  g : List Nat := []
  p : List Nat := []
  k : List Nat := []
  v : List Nat := []
  fl : BitVec 5 := 0
  round : Bool := false

/-- The general register that a specifier names; none for a queue register (R41). -/
def gOf (d : GSpec) : List Nat := if isG d then [d.toNat] else []

/-- What the scalar instructions and the transfers may write. -/
def scalarDests : Instr → Option Dests
  | .nop | .br _ | .jmp _ | .ret _ => some {}
  | .call d _ | .calli d _ | .loop d _ => some { g := gOf d }
  | .add d _ _ | .sub d _ _ | .mul d _ _ | .mulh d _ _ | .mulhn d _ _ | .and_ d _ _ | .or_ d _ _ | .xor_ d _ _ | .andn d _ _
  | .orn d _ _ | .shl d _ _ | .shr d _ _ | .sra d _ _ | .rol d _ _ | .min d _ _ | .max d _ _ | .minn d _ _ | .maxn d _ _
  | .neg d _ | .clz d _ | .ctz d _ | .popc d _ | .bswap d _ | .sext d _ _ | .zext d _ _ | .bfx d _ _ _ | .bfi d _ _ _ | .mov d _
  | .sel d _ _ _ _ | .addi d _ _ | .li d _ | .lih d _ | .shli d _ _ | .shri d _ _ | .srai d _ _ | .lea d _ _ _ _
  | .ptrCvtIn d _ _ | .ptrCvtOut d _ _ | .pget d | .ctlGet d _ | .kpop d _ => some { g := gOf d }
  | .adds d _ _ _ | .subs d _ _ _ | .abs d _ => some { g := gOf d, fl := fSat }
  | .div _ _ _ _ | .divn _ _ _ _ | .rem _ _ _ _ | .remn _ _ _ _ => some { fl := fDz }
  | .cmp d _ _ _ | .cmpi d _ _ _ | .ptrIn d _ _ | .pand d _ _ _ | .por d _ _ _ | .pxor d _ _ _ | .pnot d _ | .pmov d _
  | .pset d _ | .capGet d _ => some { p := [d.toNat] }
  | .psetAll _ => some { p := List.range 16 }
  | .kand d _ _ | .kor d _ _ | .kxor d _ _ | .knot d _ | .kmov d _ => some { k := [d.toNat] }
  | _ => none

/-- What the vector instructions of one destination may write. -/
def vectorDests : Instr → Option Dests
  | .vadd d _ _ _ _ _ | .vsub d _ _ _ _ _ | .vmul d _ _ _ _ _ | .vmin d _ _ _ _ _ | .vmax d _ _ _ _ _ | .vadds d _ _ _ _ _
  | .vsubs d _ _ _ _ _ | .vmulh d _ _ _ _ _ | .vabs d _ _ _ _ | .vneg d _ _ _ _ | .vfma d _ _ _ _ _ _ | .vfms d _ _ _ _ _ _
  | .vdot d _ _ _ _ _ _ _ | .vcvt d _ _ _ _ _ | .vpack d _ _ _ _ _ _ | .vunpk d _ _ _ _ _ _ | .vscl d _ _ _ _ _
  | .vred d _ _ _ _ _ | .vscan d _ _ _ _ _ => some { v := [d.toNat], fl := BitVec.allOnes 5, round := true }
  | .vand d _ _ _ _ | .vor d _ _ _ _ | .vxor d _ _ _ _ | .vnot d _ _ _ | .vmov d _ _ _ | .vzero d _ _ | .vsel d _ _ _ _
  | .vclass d _ _ _ _ | .vshl d _ _ _ _ _ | .vshr d _ _ _ _ _ | .vsra d _ _ _ _ _ | .vshli d _ _ _ _ _ | .vshri d _ _ _ _ _
  | .vsrai d _ _ _ _ _ | .vperm d _ _ _ _ _ _ | .vshuf d _ _ _ _ _ | .vbc d _ _ _ _ | .vins d _ _ _ | .vqrecv d _ _ _ =>
    some { v := [d.toNat] }
  | .vcmp d _ _ _ _ _ _ => some { k := [d.toNat] }
  | .vext d _ _ _ => some { g := gOf d }
  | .vqsend _ _ => some {}
  | _ => none

/-- What the memory instructions may write at their issue: nothing in memory; their results come later, to the registers named. -/
def memoryDests : Instr → Option Dests
  | .ld d _ _ _ _ _ | .lr d _ _ _ _ | .amo d _ _ _ _ _ _ => some { g := gOf d }
  | .sc _ _ _ _ p _ => some { p := [p.toNat] }
  | .st _ _ _ _ _ | .stv _ _ _ _ _ _ | .scat _ _ _ _ _ _ _ _ => some {}
  | .ldv d _ _ _ _ _ | .gath d _ _ _ _ _ _ _ | .vamo d _ _ _ _ _ _ _ _ => some { v := [d.toNat] }
  | _ => none

/-- From `s` to `t` the issuing thread completed one instruction, alone at its turn. -/
def Completed (s t : State) : Prop :=
  s.cur.place = .single ∧ s.cur.view = none ∧ s.cur.flags = 0#5 ∧ s.thr.lastIssue ≠ s.cycle + 1 ∧
  (t.thrAt s.cur.core s.cur.slot).lastIssue = s.cycle + 1

/-- The registers of the issuing thread are as they were, but for the destinations. -/
structure KeepsRegs (d : Dests) (s t : State) : Prop where
  g : ∀ r, r ∉ d.g → (t.thrAt s.cur.core s.cur.slot).gr r = s.thr.gr r
  p : ∀ r, r ∉ d.p → (t.thrAt s.cur.core s.cur.slot).pr r = s.thr.pr r
  k : ∀ r, r ∉ d.k → (t.thrAt s.cur.core s.cur.slot).kr r = s.thr.kr r
  v : ∀ row, row ∉ d.v.map (rowOf s.here.mode s.cur.slot) → FMap.get 0 (t.core s.cur.core).rows row = FMap.get 0 s.here.rows row
  ctl : ∃ (f : BitVec 5) (r : Word), (∀ n, f.getLsbD n = true → d.fl.getLsbD n = true) ∧
    (d.round = false → r = s.thr.ctl.round) ∧ r.extractLsb' 0 32 = s.thr.ctl.round.extractLsb' 0 32 ∧
    (t.thrAt s.cur.core s.cur.slot).ctl = { s.thr.ctl with status := s.thr.ctl.status ||| f.setWidth 64, round := r }

/-- What stands beside the registers of a thread is as it was: memory byte by byte, the other threads, the accumulators, the skim
stacks, the registers of the context and of the control window. -/
structure KeepsRest (s t : State) : Prop where
  mem : ∀ a, t.byte a = s.byte a
  threads : ∀ c i, (c, i) ≠ (s.cur.core, s.cur.slot) → t.thrAt c i = s.thrAt c i
  acc : ∀ c, (t.core c).acc = (s.core c).acc ∧ (t.core c).acfg = (s.core c).acfg ∧ (t.core c).bptr = (s.core c).bptr ∧
    (t.core c).mode = (s.core c).mode
  skims : t.skims = s.skims
  context : t.trapvec = s.trapvec ∧ t.wdog = s.wdog ∧ t.cw = s.cw

end Sys2Proof
end

