-- ==== Sys2Proof/Certificates/Slice0/Obligations.lean ====
section
/-!
DEFINITION. The statements for the provers. Each names the rules of spec/ from which it comes; the terms in which they speak of
completion (Completes, Ready, Leaves, Again, Happens) and of frames are defined in Sys2Proof/Safety.lean. A statement of several parts is the
conjunction of its Claims.
-/

open Sys2Proof Sys2Proof.Machine

/-- From R44, R61, R110: a step is one of the moves that are open; where the only one is the issue of a core whose thread is at an
instruction boundary with nothing held, it runs the instruction decoded at the thread's PC under its guard, counts down the windows,
keeps the line of an instruction whose access parked (R434), and offers the position on when the thread did not use it. The order of
moves and of what comes before an instruction is the model's choice, log entries 4, 22, 23 and 125. -/
def Obligations.StepRunsDecoded : Prop :=
  (∀ s : State, ∃ m ∈ s.moves, step s = (if s.moves.length = 1 then s else s.nextFree.2).make m) ∧
  ∀ (s s1 : State) c rest i is hs d,
    s.agenda = [] → s.events = [] → s.issueQ = c :: rest → c < 2560 →
    let s0 : State := { s with issueQ := rest }
    let t := s0.thrAt c i
    let here : State := { s0 with cur := { core := c, slot := i, npc := t.pc, depth := (s0.skim t.ctx c i).depth }, args := [c, i] }
    s0.offersOf c = i :: is → s0.mayIssue c i = true → t.kill = false → t.leave = none → t.heldFlag = false → t.heldXfer = [] →
    t.heldDog = false → s0.dogDue t = false → t.lateErr = none → t.mid = none → t.windowFull = false → here.fetch c t = .ok (hs, s1) →
    let t1 := s1.thrAt c i
    decodeSlot hs (t1.pc.toNat / 2 % 32) = .single d →
    let s2 : State := { s1 with cur := {
      core := c, slot := i, npc := nextPc t1.pc hs 1, heads := 1, depth := (s1.skim t1.ctx c i).depth } }
    step s = andThen (if t1.guarded d.guard = true then exec d.instr s2 else finish s2 (s2.skipped d.instr)) fun u =>
      let u1 := ((u.countDown c i t1.nextWid 1).noteTables c i [d]).keepLine c i hs
      if u1.tookTurn c i = true then .next u1 else u1.offer c is

/-- From R74, R76, R94 to R107: words written out from the encoding tables decode to the instructions that they stand for, and words
that break a rule of R44, R75 or R77 do not decode. -/
def Obligations.DecodeWords : Prop :=
  decodeTableWord 16 0x0000 = some .nop ∧ decodeTableWord 32 0x40A00007 = some (.trap 7) ∧
  decodeTableWord 48 0x820018440000 = some (.add 3 1 2) ∧ decodeTableWord 80 0xC6C02800FFFFFFFFFFFF = some (.li 5 (BitVec.allOnes 48)) ∧
  decodeTableWord 48 0x8693110C0002 = some (.cmp 2 4 6 .lt) ∧
  decodeTableWord 80 0xCA0008A3000000000010 = some (.ld 1 2 .w64 false (.at .pkg) 16) ∧
  decodeTableWord 48 0x94000420E40A = some (.vadd 1 2 3 4 .fp32 2) ∧
  decodeTableWord 48 0x8B000886A335 = some (.amo 1 2 3 .min true (.acqRel .core) 5) ∧
  decodeTableWord 48 0x8D200000012C = some (.barArr 300) ∧ decodeTableWord 80 0xD2208003400000000000 = some (.mzero 2 3 1) ∧
  decodeTableWord 80 0xDC8004200060000000A1 = some (.rvsra 1 2 3 .i16 5 0) ∧ decodeTableWord 48 0x99800420C000 = some (.kand 1 2 3) ∧
  decodeTableWord 48 0x8E0008812001 = some (.spawnLight 1 2 9) ∧ decodeTableWord 48 0x908000800055 = some (.collPut 2 0x55 0) ∧
  decodeTableWord 48 0x8F8000440003 = some (.ringPut 1 2 true .y 0) ∧ decodeTableWord 80 0xC90000C0000000000032 = some (.ctlSet 3 0x032) ∧
  decodeTableWord 48 0x9D4000000009 = some (.skimMark 9) ∧ decodeTableWord 32 0x50000100 = some (.xfer 4) ∧
  decodeTableWord 32 0x49400015 = some (.fenceRel .pod) ∧
  decodeTableWord 16 0x4000 = none ∧ decodeTableWord 16 0x0010 = none ∧ decodeTableWord 48 0x820018440001 = none

/-- From R74 to R78: every well-formed instruction of the opcode map has a head and a tail that decode to it, under every guard but
0b1_0000 and with either pair bit; and whatever decodes is the encoding of what it decodes to. -/
def Obligations.DecodeEncode : Prop :=
  (∀ i e pair (guard : BitVec 5), i.wf = true → encode i = some e → guard ≠ 0b10000#5 →
    decodeHead (e.head pair guard) e.tail.toBits = .ok ⟨pair, guard, i⟩ ∧
    (pair = false → decodeSlot (oneHeadLine (e.head pair guard) e.tail.toBits) 1 = .single ⟨pair, guard, i⟩)) ∧
  ∀ (h : BitVec 16) (tail : BitVec 64) d, decodeHead h tail = .ok d → d.instr.wf = true ∧ d.guard ≠ 0b10000#5 ∧
    ∃ e, encode d.instr = some e ∧ e.head d.pair d.guard = h ∧ layoutOf e.op = some e.tail.layout ∧ e.tail = Tail.ofBits e.tail.layout tail

/-- From R7, R262: memory stays in its one canonical form at every step, whatever happens: addresses rise and no zero byte is listed.
The form is the model's, log entry 1. -/
def Obligations.MemoryStaysCanonical : Prop := Keeps MemOk

/-- The values that the specification gives for reset: R48, R50, R52, R55, R231, R433, R412, R445 to R449, R476, R477, R481, R485, R487,
R488. Memory with nothing listed, which is canonical, is the model's choice of log entry 1, and registers that read zero without a
stated value that of log entry 2. -/
def Obligations.ResetState : Prop :=
  let r := State.reset
  MemOk r ∧ r.mem = [] ∧
  (∀ c i, (r.thrAt c i).st = .empty ∧ (r.core c).mode = 8 ∧ (r.core c).ebud i = (0x400#64 <<< 32) ||| (64#64 <<< 16) ||| 0x400#64 ∧
    (r.core c).acfg = 0#64) ∧
  (let k : Ctl := {}
   k.status = 0#64 ∧ k.qmap = BitVec.allOnes 64 ∧ k.trapcause = 0#64 ∧ k.trappc = 0#64 ∧ k.scla = 0#64 ∧ k.sclb = 0#64 ∧ k.faultrec = 0#64) ∧
  (∀ x, r.trapVec x = 0#64 ∧ r.wdogOf x = 32#64) ∧
  (r.bring.screed = false ∧ r.bring.full = false ∧ r.bring.bstore = false ∧ ∀ z < 8, r.bring.layers.getD z 0 = 0) ∧
  (∀ h reg, r.regionRemap h reg = h * 1024 + reg) ∧
  (bitsOf (r.cwGet 0x80) 47 5 = 1 ∧ bitsOf (r.cwGet 0x80) 42 5 = 1 ∧ bitsOf (r.cwGet 0x80) 37 5 = 1 ∧ bitsOf (r.cwGet 0x80) 52 12 = 0) ∧
  (bitsOf (r.cwGet 0x1100) 56 8 = 8 ∧ bitsOf (r.cwGet 0x1100) 48 8 = 16 ∧ bitsOf (r.cwGet 0x1100) 0 32 = 0x100000 ∧
    r.cwGet 0x1108 = 0x1010101010101010#64 ∧ r.cwGet 0x1110 = 0#64) ∧
  (∀ k < 16, bitsOf (r.cwGet (0x1200 + 8 * k)) 16 16 = 4096 ∧ bitsOf (r.cwGet (0x1200 + 8 * k)) 0 5 = 16) ∧
  (∀ z < 8, ∀ y < 16, r.cwGet (0x2000 + 8 * (16 * z + y)) = 16#64) ∧
  (∀ p < 12, bitsOf (r.cwGet (0x4000 + 8 * p)) 0 32 = 0x76543210 ∧ bitsOf (r.cwGet (0x4000 + 8 * p)) 32 4 = 8 ∧
    bitsOf (r.cwGet (0x4000 + 8 * p)) 40 8 = 12) ∧
  r.capLo.extractLsb' 3 3 = 0#3

/-- From R7: memory operations: a byte written reads back and the others are as they were; a number of n bytes reads back modulo 256^n,
least significant byte first; a masked write changes exactly the bytes that its mask selects; nothing but memory changes. -/
def Obligations.MemoryReadsAndWrites : Prop :=
  (∀ (s : State) k b a, (s.setByte k b).byte a = if a = k then b else s.byte a) ∧
  (∀ (s : State) k v n, (s.writeN k v n).readN k n = v % 256 ^ n) ∧
  (∀ (s : State) k v n a, (s.writeN k v n).byte a =
    if k ≤ a ∧ a < k + n then BitVec.ofNat 8 (v / 256 ^ (a - k)) else s.byte a) ∧
  (∀ (s : State) k mask v n a, (s.writeMasked k mask v n).byte a =
    if k ≤ a ∧ a < k + n ∧ mask.getLsbD (a - k) = true then BitVec.ofNat 8 (v / 256 ^ (a - k)) else s.byte a) ∧
  (∀ (s : State) k bs a, (s.putBytes k bs).byte a = if k ≤ a ∧ a < k + bs.length then bs.getD (a - k) 0 else s.byte a) ∧
  (∀ (s : State) k n, s.readN k n = leNat (s.bytesAt k n) ∧ s.readN k n < 256 ^ n) ∧
  ∀ (s : State) k v n, ({ s.writeN k v n with mem := s.mem } : State) = s

/-- Every instruction and every step of the part answers a next state, whatever the state; a step stops only at a core number that is no
core of the package (R4). -/
def Obligations.NothingStops : Prop :=
  (∀ i s, Goes (exec i s)) ∧
  ∀ s, Goes (step s) ∨ step s = .fault .noSuchCore ∧ ∃ c rest, s.issueQ = c :: rest ∧ 2560 ≤ c

/-- From R110: the order of the checks. Where the static limits, the vector registers of the context or a feature bit fail, ILLEGAL_OP;
then PRIV, LIGHT_VECTOR, MATRIX_OWNER, QUEUE_UNMAPPED; then the queues; then the energy, without which the thread stalls (R232); and
what passes them all debits its energy and is ready for its own effect. The place of the queue checks and of the energy is the
model's reading, log entries 26, 31 and 35. -/
def Obligations.ChecksBeforeEffects : Prop :=
  ∀ i (s : State), (encode i).isSome = true →
    let u := useOf i
    let qs := (u.pops ++ u.push.toList ++ u.stream.toList).filter fun r => !isG r
    let legal : Prop := i.wf = true ∧ (∀ v ∈ u.vregs, v.toNat < 128 / s.here.mode) ∧ ∀ n ∈ u.features, s.capLo.getLsbD n = true
    let priv : Prop := (u.priv = true ∨ ∃ idx, u.ctlIdx = some idx ∧ ctlAccess idx = some .rt) ∧ s.thr.rt = false
    let light : Prop := s.thr.light = true ∧ (u.heavy = true ∨ qs ≠ [] ∨
      ∃ idx, u.ctlIdx = some idx ∧ idx.toNat ≠ 0x000 ∧ idx.toNat ≠ 0x032 ∧ idx.toNat ≠ 0x802)
    let owner : Prop := ∃ a, u.acc = some a ∧ (s.here.acfg.extractLsb' (4 * a.toNat) 4).toNat ≠ 8 + s.cur.slot
    let unmapped : Prop := (∃ r ∈ qs, s.qid (qNum r) = 0xFF) ∨ ∃ n, u.qnum = some n ∧ s.qid n.toNat = 0xFF
    (¬legal → FaultsWith i s { cause := .illegalOp }) ∧
    (legal → priv → FaultsWith i s { cause := .priv }) ∧
    (legal → ¬priv → light → FaultsWith i s { cause := .lightVector }) ∧
    (legal → ¬priv → ¬light → s.cur.slot < 8 → owner → FaultsWith i s { cause := .matrixOwner }) ∧
    (legal → ¬priv → ¬light → s.cur.slot < 8 → ¬owner → unmapped → FaultsWith i s { cause := .queueUnmapped }) ∧
    (legal → ¬priv → ¬light → s.cur.slot < 8 → ¬owner → ¬unmapped →
      s.popCheck ((u.pops.filter fun r => !isG r).map fun r => s.qid (qNum r)) = .ok () →
      (∀ r, u.push = some r → isG r = false → s.pushCheck (s.qid (qNum r)) = .ok ()) →
      (((s.here.ebud s.cur.slot).extractLsb' 0 16).toNat < debit u.energy → s.cur.place = .single → exec i s = .next s.markStalled) ∧
      (debit u.energy ≤ ((s.here.ebud s.cur.slot).extractLsb' 0 16).toNat → Ready i s (s.pay u.energy)))

/-- From R427, R429, R430, R434, R435, R419, R344: the delivery of a fault. The record takes an element of RecFree and holds the words of
R429; the thread keeps its PC and registers and is suspended, or parked for replay; a handler task is made, or the record goes to
FaultQueue when there is no handler, when the fault is replayable, or when a handler task raised it; with no record free, or no room
to count the handler task, the thread waits with nothing written: that it waits as for a record where only the count finds no room is
the model's choice, log entry 87 (R344 speaks of instructions alone), as is what an area that is not mapped does, log entry 14, and
that an instruction which faults after its access had parked gives back what its issue took from queues, log entry 125. -/
def Obligations.FaultEntry : Prop :=
  (∀ (s s1 : State) core slot f pc frec, let t := s.thrAt core slot
    (f.cause.replayable = true ∨ t.handles = true ∨ s.handlerRoom core t = true) → s.takeFree t.ctx 8 (some t.ctl.taskh.toNat) = some (frec, s1) →
    let u := s.deliver core slot f pc; let t' := u.thrAt core slot
    let double := t.handles && !f.cause.replayable
    let flags := (if f.cause.replayable then 1 else 0) + (if f.second then 2 else 0) + if double then 4 else 0
    let q (s : State) := FMap.get [] s.faultQ (s.ctxFaultQ t.ctx)
    (u.mem = (s1.putWords t.ctx frec [word (f.cause.code + 2 ^ 8 * f.aux + 2 ^ 16 * flags + 2 ^ 24 * (slot + if t.light then 8 else 0) +
        2 ^ 32 * core + 2 ^ 48 * t.ctx + 2 ^ 56 * (t.ctl.stage.extractLsb' 0 6).toNat), pc, f.addr, word f.mask,
      word (f.depth.getD (s.skim t.ctx core slot).depth), t.ctl.ltime, t.ctl.taskh, f.resume.getD pc] (some t.ctl.taskh.toNat)).mem) ∧
    t'.pc = pc ∧ t'.g = t.g ∧ t'.pw = t.pw ∧ t'.k = t.k ∧ t'.ctl = t.ctl ∧ t'.fault = none ∧
    t'.st = .parked (if f.cause.replayable then .replay (word frec) else .suspended (word frec)) s.cycle ∧
    (f.cause.replayable = true ∨ s.ctxHandler t.ctx = 0 ∨ double = true → q u = q s ++ [word frec] ∧ u.spawned = s.spawned) ∧
    (f.cause.replayable = false → s.ctxHandler t.ctx ≠ 0 → double = false → q u = q s ∧ ∃ h : Task, u.spawned = s.spawned ++ [h] ∧
      h.ctx = t.ctx ∧ h.launch = t.launch ∧ h.entry = s.ctxHandler t.ctx ∧ h.args = [t.ctl.taskh, word frec] ∧
      h.stage = (t.ctl.stage.extractLsb' 0 6).toNat ∧ h.time = t.ctl.ltime ∧ h.light = false ∧ h.faultrec = word frec ∧
      h.serves = some (core, slot, word frec) ∧ h.place.kind = 1 ∧ h.place.num = core)) ∧
  (∀ (s : State) core slot f pc, let t := s.thrAt core slot
    (s.takeFree t.ctx 8 (some t.ctl.taskh.toNat) = none ∨ f.cause.replayable = false ∧ t.handles = false ∧ s.handlerRoom core t = false) →
    let t' := (s.deliver core slot f pc).thrAt core slot
    t'.fault = some f ∧ t'.pc = pc ∧ t'.st = (if f.cause.replayable then .parked (.replay 0) s.cycle else .stalled) ∧
    (s.deliver core slot f pc).mem = s.mem ∧ (s.deliver core slot f pc).spawned = s.spawned) ∧
  ∀ (s : State) f, (f.cause.replayable = true → s.takeFault f = s.deliver s.cur.core s.cur.slot f s.thr.pc) ∧
    (f.cause.replayable = false → let u := (s.unissue s.cur.core s.thr).setThr { s.thr with mid := none, taken := [] }
      s.takeFault f = u.deliver s.cur.core s.cur.slot f s.thr.pc ∧ (s.thr.mid = none → s.unissue s.cur.core s.thr = s))

/-- R43, R46: PW holds predicate n in bit n; p0 reads true and k0 all ones, and what is written to them is discarded and changes
nothing; any other predicate or mask reads as written, the rest as before; `pget` reads bit 0 of PW as 1. -/
def Obligations.HardWired : Prop :=
  Reads .pget (fun s => (s.src.pw ||| 1#16).setWidth 64) ∧
  ∀ (t : Thread) v w, t.pr 0 = true ∧ t.kr 0 = BitVec.allOnes 64 ∧ t.setP 0 v = t ∧ t.setK 0 w = t ∧
    (∀ p, 0 < p → p < 16 → t.pr p = t.pw.getLsbD p ∧ (t.setP p v).pw.getLsbD p = v ∧ (t.setP p v).pr p = v ∧ ∀ q, q ≠ p → (t.setP p v).pr q = t.pr q) ∧
    ∀ k, 0 < k → (t.setK k w).kr k = w ∧ ∀ j, j ≠ k → (t.setK k w).kr j = t.kr j

/-- From R14, R41, R135: what the scalar instructions and the transfers leave alone when they complete: every register but their
destinations, every flag but those of their entry, the rest of the control registers, EBUDGET but for the debit of their class,
every other thread, and every byte of memory. -/
def Obligations.ScalarFrame : Prop :=
  ∀ i d s t, scalarDests i = some d → exec i s = .next t → Completed s t →
    KeepsRegs d s t ∧ KeepsRest s t ∧ (∀ c n, (t.core c).ebud n = (s.core c).ebud n - if (c, n) = (s.cur.core, s.cur.slot)
      then word (debit (useOf i).energy) else 0#64) ∧
    (t.thrAt s.cur.core s.cur.slot).holds = s.thr.holds ∧ (t.thrAt s.cur.core s.cur.slot).pend = s.thr.pend

/-- From R14, R177: what the vector instructions of one destination leave alone when they complete: every register but the destination,
every flag but the arithmetic ones, ROUND but for the generator's step, EBUDGET but for the debit, every other thread and byte. -/
def Obligations.VectorFrame : Prop :=
  ∀ i d s t, vectorDests i = some d → exec i s = .next t → Completed s t →
    KeepsRegs d s t ∧ KeepsRest s t ∧ ∀ c n, (t.core c).ebud n = (s.core c).ebud n - if (c, n) = (s.cur.core, s.cur.slot)
      then word (debit (useOf i).energy) else 0#64

/-- From R14, R278, R303 to R313: what a memory instruction of a task that is not speculative leaves alone at its issue: every register
but its destinations, every flag, the accumulators and skim stacks, and every byte of memory, for its store goes to the owner. That
every access travels as a message is log entry 7. -/
def Obligations.MemoryFrame : Prop :=
  ∀ i d s t, memoryDests i = some d → s.thr.speculative = false → exec i s = .next t → Completed s t →
    KeepsRegs d s t ∧ (∀ a, t.byte a = s.byte a) ∧ t.skims = s.skims ∧
    ∀ c, (t.core c).acc = (s.core c).acc ∧ (t.core c).acfg = (s.core c).acfg ∧ (t.core c).bptr = (s.core c).bptr

/-- From R62, R75: bundles. Two heads that name one destination raise ILLEGAL_OP without effect; two that complete, each reading what
stood before the bundle, end it at one turn. That the clash is raised under any guard, before every other check and as the first head's
fault is the model's choice, log entry 95. -/
def Obligations.BundlesIssueTogether : Prop :=
  (∀ (pre : State) d e, clash d.instr e.instr = true → pre.bundle d e = .next (pre.takeFault { cause := .illegalOp })) ∧
  ∀ (pre s1 s2 : State) d e, clash d.instr e.instr = false → pre.legal d.instr = true → pre.legal e.instr = true →
    debit (useOf d.instr).energy + debit (useOf e.instr).energy ≤ ((pre.here.ebud pre.cur.slot).extractLsb' 0 16).toNat →
    pre.src.guarded d.guard = true → pre.src.guarded e.guard = true → pre.cur.view = none →
    exec d.instr (pre.asHead .first pre) = .next s1 → s1.cur.out = .ok →
    exec e.instr (s1.asHead .second pre) = .next s2 → s2.cur.out = .ok → pre.bundle d e = .next s2.endInstr

/-- From R137: `add`, `sub`, `mul`, `mulh` and `mulhn` complete with the low or the high half of the exact sum, difference or product in
g[d], in every operand form; none sets a flag. -/
def Claims.IntegerArithmetic : Prop :=
  Binary .add (fun x y => BitVec.ofNat 64 (x.toNat + y.toNat)) ∧
  Binary .sub (fun x y => BitVec.ofInt 64 ((x.toNat : Int) - y.toNat)) ∧
  Binary .mul (fun x y => BitVec.ofInt 64 (x.toInt * y.toInt)) ∧
  Binary .mulh (fun x y => (x.signExtend 128 * y.signExtend 128).extractLsb' 64 64) ∧
  Binary .mulhn (fun x y => (x.setWidth 128 * y.setWidth 128).extractLsb' 64 64) ∧
  ∀ d a b s t, s.cur.place = .single → s.cur.flags = 0#5 → s.cur.view = none → isG d = true → isG a = true → isG b = true →
    ∀ i ∈ [Instr.add d a b, .sub d a b, .mul d a b, .mulh d a b, .mulhn d a b],
      Ready i s s → exec i s = .next t → t.thr.ctl.status = s.thr.ctl.status

/-- From R138: the division family completes: the quotient goes toward zero, the remainder has the sign of the dividend, a zero divisor
gives all ones and the dividend and sets DZ, and −2^63 ÷ −1 wraps with remainder 0. The result arrives late. -/
def Claims.Division : Prop :=
  let dz (y : Word) : BitVec 5 := if y = 0#64 then fDz else fNone
  BinaryL .div (fun x y => if y = 0#64 then BitVec.allOnes 64 else BitVec.ofInt 64 (x.toInt.tdiv y.toInt)) (fun _ y => dz y) ∧
  BinaryL .rem (fun x y => if y = 0#64 then x else BitVec.ofInt 64 (x.toInt.tmod y.toInt)) (fun _ y => dz y) ∧
  BinaryL .divn (fun x y => if y = 0#64 then BitVec.allOnes 64 else BitVec.ofNat 64 (x.toNat / y.toNat)) (fun _ y => dz y) ∧
  BinaryL .remn (fun x y => if y = 0#64 then x else BitVec.ofNat 64 (x.toNat % y.toNat)) (fun _ y => dz y)

/-- From R139, R140: the saturating forms complete: the exact result clamped to the signed range or the unsigned range, with SAT exactly
when it was clamped; `neg` wraps and sets nothing. -/
def Claims.Saturation : Prop :=
  let clampS (n : Int) : Word := if n < -2 ^ 63 then BitVec.ofInt 64 (-2 ^ 63) else if 2 ^ 63 ≤ n then BitVec.ofInt 64 (2 ^ 63 - 1)
    else BitVec.ofInt 64 n
  let satS (n : Int) : BitVec 5 := if n < -2 ^ 63 ∨ 2 ^ 63 ≤ n then fSat else fNone
  let clampU (n : Int) : Word := if n < 0 then 0#64 else if 2 ^ 64 ≤ n then BitVec.allOnes 64 else BitVec.ofInt 64 n
  let satU (n : Int) : BitVec 5 := if n < 0 ∨ 2 ^ 64 ≤ n then fSat else fNone
  BinaryF (fun d a b => .adds d a b false) (fun x y => clampS (x.toInt + y.toInt)) (fun x y => satS (x.toInt + y.toInt)) ∧
  BinaryF (fun d a b => .subs d a b false) (fun x y => clampS (x.toInt - y.toInt)) (fun x y => satS (x.toInt - y.toInt)) ∧
  BinaryF (fun d a b => .adds d a b true) (fun x y => clampU ((x.toNat : Int) + y.toNat)) (fun x y => satU ((x.toNat : Int) + y.toNat)) ∧
  BinaryF (fun d a b => .subs d a b true) (fun x y => clampU ((x.toNat : Int) - y.toNat)) (fun x y => satU ((x.toNat : Int) - y.toNat)) ∧
  (∀ d a s s1, Ready (.abs d a) s s1 →
    let x : Int := (src1 s1 a).toInt.natAbs
    Completes (.abs d a) s (((s1.rd a).2.addFlags (satS x)).wr d (clampS x))) ∧
  Unary .neg (fun x => BitVec.ofInt 64 (-x.toInt))

/-- Integer arithmetic, division and saturation complete. -/
def Obligations.Arithmetic : Prop :=
  Claims.IntegerArithmetic ∧ Claims.Division ∧ Claims.Saturation

/-- R141: `min` and `max` complete with the signed least and greatest of their sources, `minn` and `maxn` with the unsigned. -/
def Claims.MinMax : Prop :=
  Binary .min (fun x y => if x.toInt ≤ y.toInt then x else y) ∧
  Binary .max (fun x y => if x.toInt ≤ y.toInt then y else x) ∧
  Binary .minn (fun x y => if x.toNat ≤ y.toNat then x else y) ∧
  Binary .maxn (fun x y => if x.toNat ≤ y.toNat then y else x) ∧
  ∀ d a b, let t : Tail := .t2s { d := d, a := a, b := b }
    encode (.min d a b) = some ⟨0x22, t⟩ ∧ encode (.max d a b) = some ⟨0x23, t⟩ ∧ encode (.minn d a b) = some ⟨0x24, t⟩ ∧
    encode (.maxn d a b) = some ⟨0x25, t⟩

/-- R142: the logic instructions complete, bit by bit. -/
def Claims.Logic : Prop :=
  Binary .and_ (fun x y => x &&& y) ∧ Binary .or_ (fun x y => x ||| y) ∧ Binary .xor_ (fun x y => x ^^^ y) ∧
  Binary .andn (fun x y => x &&& ~~~y) ∧ Binary .orn (fun x y => x ||| ~~~y) ∧
  ∀ d a b, let t : Tail := .t2s { d := d, a := a, b := b }
    encode (.and_ d a b) = some ⟨0x19, t⟩ ∧ encode (.or_ d a b) = some ⟨0x1A, t⟩ ∧ encode (.xor_ d a b) = some ⟨0x1B, t⟩ ∧
    encode (.andn d a b) = some ⟨0x1C, t⟩ ∧ encode (.orn d a b) = some ⟨0x1D, t⟩

/-- Least, greatest and logic complete. -/
def Obligations.LeastGreatestAndLogic : Prop :=
  Claims.MinMax ∧ Claims.Logic

/-- R145: the counts and `bswap` complete: the leading zeros are those above the highest one bit, the trailing zeros those below the
lowest, both 64 for zero; `popc` counts the one bits; byte i moves to byte 7 − i. -/
def Obligations.BitCounts : Prop :=
  Unary .clz (fun x => BitVec.ofNat 64 ((List.range 64).takeWhile fun i => !x.getLsbD (63 - i)).length) ∧
  Unary .ctz (fun x => BitVec.ofNat 64 ((List.range 64).takeWhile fun i => !x.getLsbD i).length) ∧
  Unary .popc (fun x => BitVec.ofNat 64 ((List.range 64).filter fun i => x.getLsbD i).length) ∧
  (∀ d a s s1, Ready (.bswap d a) s s1 → ∃ v : Word, Completes (.bswap d a) s ((s1.rd a).2.wr d v) ∧
    ∀ i < 8, v.extractLsb' (8 * (7 - i)) 8 = (src1 s1 a).extractLsb' (8 * i) 8) ∧
  ∀ d a, let t : Tail := .t1 { d := d, a := a }
    encode (.clz d a) = some ⟨0x2A, t⟩ ∧ encode (.ctz d a) = some ⟨0x2B, t⟩ ∧ encode (.popc d a) = some ⟨0x2C, t⟩ ∧
    encode (.bswap d a) = some ⟨0x2D, t⟩

/-- From R143, R144: shifts complete. The amount of a register form is the low eight bits of its second source; an amount of 64 or more
gives 0, or all ones for `sra` of a negative word; `rol` turns by the amount mod 64. An immediate form has the effect of the
register form. -/
def Claims.Shifts : Prop :=
  let shl (x : Word) (n : Nat) : Word := if n < 64 then BitVec.ofNat 64 (x.toNat * 2 ^ n) else 0#64
  let shr (x : Word) (n : Nat) : Word := if n < 64 then BitVec.ofNat 64 (x.toNat / 2 ^ n) else 0#64
  let sra (x : Word) (n : Nat) : Word :=
    if n < 64 then BitVec.ofInt 64 (x.toInt / 2 ^ n) else if x.getLsbD 63 then BitVec.allOnes 64 else 0#64
  let amt (y : Word) : Nat := (y.extractLsb' 0 8).toNat
  Binary .shl (fun x y => shl x (amt y)) ∧ Binary .shr (fun x y => shr x (amt y)) ∧ Binary .sra (fun x y => sra x (amt y)) ∧
  Binary .rol (fun x y => (x <<< (amt y % 64)) ||| (x >>> ((64 - amt y % 64) % 64))) ∧
  ∀ n : BitVec 6, Unary (fun d a => .shli d a n) (fun x => shl x n.toNat) ∧ Unary (fun d a => .shri d a n) (fun x => shr x n.toNat) ∧
    Unary (fun d a => .srai d a n) (fun x => sra x n.toNat)

/-- From R146, R147: the field instructions complete: `sext` and `zext` extend the low x + 1 bits; `bfx` takes a field of w + 1 bits
from a position; `bfi` replaces such a field of g[d] with the low bits of its source and leaves the others. -/
def Claims.BitFields : Prop :=
  (∀ w : BitVec 6, Unary (fun d a => .sext d a w) (fun x => (x.setWidth (w.toNat + 1)).signExtend 64)) ∧
  (∀ w : BitVec 6, Unary (fun d a => .zext d a w) (fun x => (x.setWidth (w.toNat + 1)).setWidth 64)) ∧
  (∀ p w : BitVec 6, Unary (fun d a => .bfx d a p w) (fun x => (x.extractLsb' p.toNat (w.toNat + 1)).setWidth 64)) ∧
  ∀ (p w : BitVec 6) d a s s1, Ready (.bfi d a p w) s s1 → ∃ v : Word, Completes (.bfi d a p w) s ((s1.rd a).2.wr d v) ∧
    ∀ n < 64, v.getLsbD n = if p.toNat ≤ n ∧ n ≤ p.toNat + w.toNat then (src1 s1 a).getLsbD (n - p.toNat)
      else ((s1.rd a).2.rg d).getLsbD n

/-- Shifts and bit fields complete. -/
def Obligations.ShiftsAndFields : Prop :=
  Claims.Shifts ∧ Claims.BitFields

/-- From R148, R149, R151: moves, constants, selection and `lea` complete. -/
def Claims.MovesAndConstants : Prop :=
  Unary .mov (fun x => x) ∧
  (∀ p nt d a b s s1, Ready (.sel d a b p nt) s s1 → Completes (.sel d a b p nt) s
    ((read2 s1 a b).wr d (if (s.rp p).xor nt then src1 s1 a else src2 s1 a b))) ∧
  (∀ imm : BitVec 11, Unary (fun d a => .addi d a imm) (fun x => x + imm.signExtend 64)) ∧
  (∀ imm : BitVec 48, Reads (fun d => .li d imm) (fun _ => imm.signExtend 64)) ∧
  (∀ (imm : BitVec 16) d, Acts (.lih d imm) (fun s => s.wr d (imm ++ (s.rg d).extractLsb' 0 48))) ∧
  ∀ (sh : BitVec 2) (disp : BitVec 9), Binary (fun d a b => .lea d a b sh disp)
    (fun x y => x + y * BitVec.ofNat 64 (2 ^ sh.toNat) + disp.signExtend 64)

/-- From R150: `cmp` and `cmpi` complete: pD takes whether the condition holds, of the 48-bit immediate sign-extended in `cmpi`. -/
def Claims.Compares : Prop :=
  (∀ d a b c s s1, Ready (.cmp d a b c) s s1 → ∃ v : Bool, (v = true ↔ condHolds c (src1 s1 a) (src2 s1 a b)) ∧
    Completes (.cmp d a b c) s ((read2 s1 a b).wp d v)) ∧
  ∀ d a c imm s s1, Ready (.cmpi d a c imm) s s1 → ∃ v : Bool,
    (v = true ↔ condHolds c (src1 s1 a) (imm.signExtend 64)) ∧ Completes (.cmpi d a c imm) s ((s1.rd a).2.wp d v)

/-- From R152, R153: the pointer instructions complete, never faulting: an address in the aperture of the issuing core becomes an offset
and an offset below its size an address; anything else becomes all ones; `ptr.in` tells whether the address lies in it. -/
def Claims.Pointers : Prop :=
  ∀ ap d a s s1, let b := (apertureOf s.cur.core ap).1; let n := (apertureOf s.cur.core ap).2; let x := (src1 s1 a).toNat
    (Ready (.ptrCvtIn d a ap) s s1 → Completes (.ptrCvtIn d a ap) s
      ((s1.rd a).2.wr d (if b ≤ x ∧ x < b + n then BitVec.ofNat 64 (x - b) else BitVec.allOnes 64))) ∧
    (Ready (.ptrCvtOut d a ap) s s1 → Completes (.ptrCvtOut d a ap) s
      ((s1.rd a).2.wr d (if x < n then BitVec.ofNat 64 (b + x) else BitVec.allOnes 64))) ∧
    ∀ p, Ready (.ptrIn p a ap) s s1 → Completes (.ptrIn p a ap) s ((s1.rd a).2.wp p (decide (b ≤ x ∧ x < b + n)))

/-- Moves, constants, compares and pointers complete. -/
def Obligations.MovesComparesPointers : Prop :=
  Claims.MovesAndConstants ∧ Claims.Compares ∧ Claims.Pointers

/-- From R154, R155, R167, R201: predicates and lane masks complete; PW reads with bit 0 set. -/
def Obligations.PredicatesAndMasks : Prop :=
  (∀ a b nt, SetsP (fun d => .pand d a b nt) (fun s => s.rp a && (s.rp b).xor nt) ∧
    SetsP (fun d => .por d a b nt) (fun s => s.rp a || (s.rp b).xor nt) ∧
    SetsP (fun d => .pxor d a b nt) (fun s => (s.rp a).xor ((s.rp b).xor nt))) ∧
  (∀ a, SetsP (fun d => .pnot d a) (fun s => !s.rp a) ∧ SetsP (fun d => .pmov d a) (fun s => s.rp a)) ∧
  (∀ v, SetsP (fun d => .pset d v) (fun _ => v)) ∧
  (∀ n : BitVec 7, SetsP (fun d => .capGet d n) (fun s => s.capLo.getLsbD n.toNat)) ∧
  (∀ a s s1, Ready (.psetAll a) s s1 → ∃ t, Completes (.psetAll a) s t ∧
    t.thr.pw = (src1 s1 a).setWidth 16 ||| 1#16 ∧ ∀ r, t.thr.gr r = (s1.rd a).2.thr.gr r) ∧
  Reads .pget (fun s => (s.src.pw ||| 1#16).setWidth 64) ∧
  (∀ d a b, Acts (.kand d a b) (fun s => s.wk d (s.rk a &&& s.rk b)) ∧ Acts (.kor d a b) (fun s => s.wk d (s.rk a ||| s.rk b)) ∧
    Acts (.kxor d a b) (fun s => s.wk d (s.rk a ^^^ s.rk b)) ∧ Acts (.knot d a) (fun s => s.wk d (~~~(s.rk a))) ∧
    Acts (.kmov d a) (fun s => s.wk d (s.rk a))) ∧
  ∀ a, Reads (fun d => .kpop d a) (fun s => BitVec.ofNat 64 ((List.range 64).filter fun i => (s.rk a).getLsbD i).length)

/-- From R79, R156 to R160: the transfers complete at their targets, with their links and their count; `nop` completes with no effect. -/
def Obligations.Transfers : Prop :=
  Acts .nop (fun s => s) ∧
  (∀ disp, Acts (.br disp) (fun s => s.jump (dispTarget s.src.pc 11 disp))) ∧
  (∀ d disp, Acts (.call d disp) (fun s => (s.wr d s.cur.npc).jump (dispTarget s.src.pc 48 disp))) ∧
  (∀ a, Acts (.jmp a) (fun s => s.jump (s.rg a)) ∧ Acts (.ret a) (fun s => s.jump (s.rg a))) ∧
  (∀ d a, Acts (.calli d a) (fun s => (s.wr d s.cur.npc).jump (s.rg a))) ∧
  ∀ a disp, ActsIf (.loop a disp) (fun s => s.rg a = 1#64) (fun s => s.wr a 0#64) ∧
    ActsIf (.loop a disp) (fun s => s.rg a ≠ 1#64)
      (fun s => (s.wr a (s.rg a - 1#64)).jump (dispTarget s.src.pc 11 disp))

/-- From R162, R163, R432: with a trap PC and no handler active, `trap` enters the handler at TRAPVEC: TRAPPC takes the next PC and
TRAPCAUSE the cause, its code and Active; `tret` leaves it for TRAPPC. -/
def Claims.TrapsEnterAndReturn : Prop :=
  (∀ code : BitVec 6, ActsIf (.trap code) (fun s => s.thr.ctl.trapcause.getLsbD 16 = false ∧ s.trapVec s.thr.ctx ≠ 0#64)
    (fun s => (s.modCtl fun c => { c with
      trappc := s.cur.npc &&& ~~~1#64, trapcause := BitVec.ofNat 64 (0x48 + 256 * code.toNat + 65536) }).jump (s.trapVec s.thr.ctx))) ∧
  ActsIf .tret (fun s => s.thr.ctl.trapcause.getLsbD 16 = true)
    (fun s => (s.modCtl fun c => { c with trapcause := c.trapcause &&& ~~~0x10000#64 }).jump s.thr.ctl.trappc)

/-- From R162, R163: where `trap` and `tret` fault instead. -/
def Claims.TrapFaults : Prop :=
  (∀ code s s1, Ready (.trap code) s s1 → s1.thr.ctl.trapcause.getLsbD 16 = true →
    FaultsWith (.trap code) s { cause := .trapNested }) ∧
  (∀ code s s1, Ready (.trap code) s s1 → s1.thr.ctl.trapcause.getLsbD 16 = false → s1.trapVec s1.thr.ctx = 0#64 →
    FaultsWith (.trap code) s { cause := .trap, aux := code.toNat, resume := some s1.cur.npc }) ∧
  ∀ s s1, Ready .tret s s1 → s1.thr.ctl.trapcause.getLsbD 16 = false → FaultsWith .tret s { cause := .illegalOp }

/-- Traps enter, return and fault. -/
def Obligations.Traps : Prop :=
  Claims.TrapsEnterAndReturn ∧ Claims.TrapFaults

/-- From R160, R161, R164, R320, R324, R356, R431: the instructions by which a thread leaves its turn. `sysc` parks on its service. `yield` in a slot
that nothing wants, or in one that its thread may not leave, goes on with the watchdog's count anew; in a slot that a task of another
context wants it stalls while its windows are open, and then its thread stands in the pool, to go on at the next PC, and no longer in
its slot. `end` stalls while its windows are open or its accesses not performed; then an uncommitted ordered task awaits its commit,
and any other ends, once what others released toward its core has been performed (the model's reading of R284, log entry 123): its slot
is empty, its holds and its pointstamp are counted off, its reservation is gone, and a queue that it bound which is empty and has no
other binding belongs to no context and is open (R320, R324); and what a handler task decided is done to the task that it served, if
that is no ordered task that has read, which the return of the record might abort (R291). -/
def Obligations.LeavingTheTurn : Prop :=
  (∀ n : BitVec 6, Acts (.sysc n) (fun s => s.park (.service n.toNat))) ∧
  (let wanted (s : State) : Prop := s.thr.light = false ∧ s.cur.slot + 1 ≠ s.here.mode ∧ FMap.find s.cur.slot s.here.pins = none ∧
    ∃ e ∈ s.here.pool, s.wantsSlot s.cur.core s.cur.slot s.thr.ctx e = true
  ActsIf .yield (fun s => ¬wanted s) (fun s => s.setThr { s.thr with dog := s.cycle, dogPer := (s.wdogOf s.thr.ctx).toNat }) ∧
  (∀ s s1, Ready .yield s s1 → wanted s1 → s1.src.windows ≠ [] → s.cur.place = .single → exec .yield s = .next s.markStalled) ∧
  ∀ s s1 frec s2, Ready .yield s s1 → wanted s1 → s1.src.windows = [] → s1.thr.windows = [] →
    s1.takeFree s1.thr.ctx 0 (some s1.thr.ctl.taskh.toNat) = some (frec, s2) → ∃ t : State, ∃ u : Thread, Leaves .yield s t ∧
      .back s1.cur.slot (word frec) u false ∈ (t.core s1.cur.core).pool ∧ u.pc = s1.cur.npc ∧ u.g = s1.thr.g ∧ u.pw = s1.thr.pw ∧
      u.k = s1.thr.k ∧ u.ctl.taskh = s1.thr.ctl.taskh ∧ ((t.thrAt s1.cur.core s1.cur.slot).st = .empty ∨
        (t.thrAt s1.cur.core s1.cur.slot).ctx ≠ s1.thr.ctx)) ∧
  (let closed (s : State) : Prop := s.src.windows = [] ∧ s.src.pend = [] ∧ s.thr.windows = [] ∧ s.thr.pend = []
  (∀ s s1, Ready .end_ s s1 → (s1.src.windows ≠ [] ∨ s1.src.pend ≠ []) → s.cur.place = .single → exec .end_ s = .next s.markStalled) ∧
  (∀ s s1, Ready .end_ s s1 → closed s1 → s1.thr.speculative = true →
    Leaves .end_ s (s1.setThr { s1.thr with st := .stalled, ended := true })) ∧
  ∀ s s1 s2, Ready .end_ s s1 → closed s1 → s1.thr.speculative = false → let t := s1.thr; let c := s1.cur.core; let i := s1.cur.slot
    s1.passedOn c .pkg = true → s1.countAll c t.launch ((s1.holdsOf t).map (fun h => (h.1, h.2, (-1 : Int))) ++ [((t.ctl.stage.extractLsb' 0 6).toNat, t.ctl.ltime, -1)])
      = some s2 → ∃ u : State, Leaves .end_ s u ∧ (∀ q, (u.quad q).times = (s2.quad q).times) ∧ u.dieTimes = s2.dieTimes ∧
      (u.thrAt c i).st = .empty ∧ (∀ g, u.holdsPair g t.ctl.taskh.toNat = false) ∧
      (∀ id, qGrad id = false → binds t.ctl.qmap id = true → (∀ e ∈ qEnds c id, u.endEmpty e.1 e.2 = true ∧ u.bound e.1 e.2 = false) →
        ∀ e ∈ qEnds c id, (u.queue e.1 e.2).owner = none ∧ (u.queue e.1 e.2).closed = false) ∧
      (t.ctl.faultrec = 0#64 → u.mem = s1.mem ∧ ∀ d j, (d, j) ≠ (c, i) → u.thrAt d j = s1.thrAt d j) ∧
      ∀ d j r, t.ctl.faultrec = r → r ≠ 0#64 → t.serves = some (d, j, r) → (d, j) ≠ (c, i) → let v := s1.thrAt d j; let w := u.thrAt d j
        let action := s1.areaNat t.ctx (r.toNat + 36) 1; (∃ n, v.st = .parked (.suspended r) n) →
        (∀ e ∈ (s1.core d).spec, e.task ≠ v.ctl.taskh.toNat) →
        (action = 2 → w = v ∧ r ∈ FMap.get [] u.faultQ (s1.ctxFaultQ t.ctx)) ∧
        (action = 1 → w.st = .running ∧ w.pc = word (s1.areaNat t.ctx (r.toNat + 56) 8) ∧ w.g = v.g) ∧
        (action ≠ 1 → action ≠ 2 → w.st = .running ∧ w.kill = true ∧ w.pc = v.pc))

/-- From R39, R49, R335: what `ctl.get` reads of each control register in a resident thread alone at its turn, and of those of its walking
context in a light one. -/
def Claims.ControlRegisterReads : Prop :=
  (∀ idx : BitVec 12, Reads (fun d => .ctlGet d idx) (fun s => s.ctlRead idx.toNat)) ∧
  ∀ s : State, s.cur.view = none → let t := s.thr; let c := t.ctl; let k := s.skim t.ctx s.cur.core s.cur.slot
    (∀ p ∈ [(0x000, c.status), (0x030, c.ltime), (0x031, c.stage), (0x032, c.wmode), (0x050, c.taskh), (0x051, word s.cur.core),
      (0x053, word t.ctx), (0x090, s.capLo), (0x091, 0#64), (0x802, s.here.acfg)], s.ctlRead p.1 = p.2) ∧
    (t.light = false → ∀ p ∈ [(0x001, c.efmt), (0x002, c.round), (0x010, c.fmta), (0x011, c.fmtb), (0x012, c.fmtc), (0x013, c.scla),
      (0x014, c.sclb), (0x020, c.qmap), (0x040, c.xferid), (0x041, c.xstat), (0x060, c.faultrec),
      (0x070, word (k.depth + 2 ^ 32 * k.last + if k.lastValid then 2 ^ 37 else 0)), (0x071, k.base), (0x072, k.lim),
      (0x080, s.here.ebud s.cur.slot), (0x0A0, c.trappc), (0x0A1, c.trapcause), (0x800, s.trapVec t.ctx), (0x801, s.wdogOf t.ctx)],
      s.ctlRead p.1 = p.2) ∧
    (let g := s.ctlRead 0x054; let code (g : Gate) : Nat := match g with
        | .none => 0
        | .pending | .closing _ => 1
        | .gated | .waking _ => 2
      (isTile s.cur.core = false → g = 0#64) ∧
      (isTile s.cur.core = true → s.here.whyAbove < 3 → s.here.whyBelow < 3 → g.toNat < 256 ∧
        ∀ p ∈ [(0, (quadOf s.cur.core + 64) % 512, s.here.whyAbove), (4, (quadOf s.cur.core + 448) % 512, s.here.whyBelow)],
          (g.extractLsb' p.1 2).toNat = (if p.2.2 = 0 then code (s.quad p.2.1).gate else 3) ∧
          (g.extractLsb' (p.1 + 2) 2).toNat = p.2.2)) ∧
    let w := s.ctlRead 0x052; let m := s.here.mode
    (s.cur.slot < 8 → m ∈ [8, 4, 2] → t.role < 8 → (w.extractLsb' 0 3).toNat = s.cur.slot ∧
      (w.getLsbD 3 = true ↔ s.cur.slot + 1 = m) ∧ (w.extractLsb' 4 2).toNat = (if m = 8 then 0 else if m = 4 then 1 else 2) ∧
      (w.extractLsb' 8 3).toNat = t.role ∧ w.getLsbD 11 = t.light ∧ w.getLsbD 12 = t.rt)

/-- From R49, R50, R52, R53, R55, R165, R204, R206, R207, R238, R412, R432, R433: `ctl.set` and `ctl.swap` of each register that may be
written complete with what the register's map lets the value change, and `ctl.swap` gives the value that stood before: reserved fields
stay zero, a field that would take a reserved value keeps its own, SKIMBASE and SKIMLIM change only over an empty stack to an aligned
and ordered pair where a region may lie, and ACFG once no operation is accepted on an accumulator whose owner it changes. -/
def Claims.ControlRegisterWrites : Prop :=
  let always (_ : State) (_ : Word) : Prop := True
  let ctl (f : Word → Ctl → Ctl) (s : State) (v : Word) : State := s.modCtl (f v)
  let keep (old v mask : Word) : Word := (old &&& ~~~mask) ||| (v &&& mask)
  let fmt (ok : Fmt → Bool) (old v : Word) : Word := match Fmt.ofBits (v.extractLsb' 0 5) with
    | some f => if ok f then keep old v 0x1F#64 else old
    | none => old
  let mySkim (s : State) : Skim := s.skim s.thr.ctx s.cur.core s.cur.slot
  let area (s : State) (v base lim : Word) : Prop := s.srcSkim.depth = 0 ∧ v.extractLsb' 0 6 = 0#6 ∧ base ≤ lim ∧ areaOk base lim = true
  ∀ p ∈ ([(0x000#12, always, ctl fun v c => { c with status := v &&& 0x1F1F#64 }),
      (0x001#12, always, ctl fun v c => { c with efmt := keep c.efmt v (if v.getLsbD 1 then 0xFF04#64 else 0xFF07#64) }),
      (0x002#12, always, fun s v => let r0 := s.src.ctl.round
        let r := if v.extractLsb' 32 32 = 0#32 then r0 else keep r0 v 0xFFFFFFFF00000000#64
        let t := s.modCtl fun c => { c with round := if (v.extractLsb' 0 3).toNat ≤ 4 then keep r v 7#64 else r }
        { t with cur := { t.cur with wroteRound := true } }),
      (0x010#12, always, ctl fun v c => { c with fmta := fmt Fmt.isMat c.fmta v }),
      (0x011#12, always, ctl fun v c => { c with fmtb := fmt Fmt.isMat c.fmtb v }),
      (0x012#12, always, ctl fun v c => { c with fmtc := keep (fmt Fmt.isRow c.fmtc v) v 0xFF00#64 }),
      (0x013#12, always, ctl fun v c => { c with scla := v &&& 0x8000FFFF003FFFFF#64 }),
      (0x014#12, always, ctl fun v c => { c with sclb := v &&& 0x8000FFFF003FFFFF#64 }),
      (0x032#12, always, ctl fun v c => { c with wmode := v &&& 3#64 }),
      (0x071#12, (fun s v => area s v v s.srcSkim.lim), fun s v => s.setSkim s.thr.ctx s.cur.core s.cur.slot { mySkim s with base := v }),
      (0x072#12, (fun s v => area s v s.srcSkim.base v), fun s v => s.setSkim s.thr.ctx s.cur.core s.cur.slot { mySkim s with lim := v }),
      (0x0A0#12, always, ctl fun v c => { c with trappc := v &&& ~~~1#64 }),
      (0x800#12, always, fun s v => { s with trapvec := FMap.set s.trapvec s.thr.ctx (v &&& ~~~1#64) }),
      (0x801#12, always, fun s v => let n := v.toNat % 64
        if n = 0 ∨ 16 ≤ n ∧ n ≤ 40 then { s with wdog := FMap.set s.wdog s.thr.ctx (word n) } else s),
      (0x802#12, (fun s v => ∀ o ∈ s.acceptedOps,
          s.here.acfg.extractLsb' (4 * o.acc) 4 = (v &&& 0xFFFF#64).extractLsb' (4 * o.acc) 4),
        fun s v => s.modHere fun k => { k with acfg := v &&& 0xFFFF#64 })] :
      List (BitVec 12 × (State → Word → Prop) × (State → Word → State))),
    ∀ d a s s1, let s2 := (s1.rd a).2; let v := src1 s1 a
      (Ready (.ctlSet a p.1) s s1 → p.2.1 s2 v → Completes (.ctlSet a p.1) s (p.2.2 s2 v)) ∧
      (Ready (.ctlSwap d a p.1) s s1 → p.2.1 s2 v →
        Completes (.ctlSwap d a p.1) s ((p.2.2 s2 v).wr d (s2.ctlRead p.1.toNat)))

/-- From R49, R165, R204, R238: where a write faults or waits instead: the registers that are read only, an area that may not be placed,
and a write of ACFG that would take an accumulator from an operation accepted on it. That a write of a register which is read only is
ILLEGAL_OP at check 1, before LIGHT_VECTOR and in every state, is the model's choice, log entry 31. -/
def Claims.ControlRegisterFaults : Prop :=
  (∀ a s s1, Ready (.ctlSet a 0x802#12) s s1 → s.cur.place = .single → (∃ o ∈ (s1.rd a).2.acceptedOps,
      (s1.rd a).2.here.acfg.extractLsb' (4 * o.acc) 4 ≠ (src1 s1 a &&& 0xFFFF#64).extractLsb' (4 * o.acc) 4) →
    exec (.ctlSet a 0x802#12) s = .next s.markStalled) ∧
  (∀ d a s, ∀ i ∈ [0x020#12, 0x030#12, 0x031#12, 0x040#12, 0x041#12, 0x050#12, 0x051#12, 0x052#12, 0x053#12, 0x054#12, 0x060#12, 0x070#12,
      0x080#12, 0x090#12, 0x091#12, 0x0A1#12],
    FaultsWith (.ctlSet a i) s { cause := .illegalOp } ∧ FaultsWith (.ctlSwap d a i) s { cause := .illegalOp }) ∧
  ∀ a s s1, ∀ i ∈ [0x071#12, 0x072#12], let v := src1 s1 a; let k := (s1.rd a).2.srcSkim
    let base := if i = 0x071#12 then v else k.base; let lim := if i = 0x071#12 then k.lim else v
    Ready (.ctlSet a i) s s1 → (k.depth ≠ 0 → FaultsWith (.ctlSet a i) s { cause := .skimOrder }) ∧
      (k.depth = 0 → v.extractLsb' 0 6 ≠ 0#6 → FaultsWith (.ctlSet a i) s { cause := .misaligned }) ∧
      (k.depth = 0 → v.extractLsb' 0 6 = 0#6 → (lim < base ∨ areaOk base lim = false) →
        FaultsWith (.ctlSet a i) s { cause := .matrixRange })

/-- Control registers read and take writes. -/
def Obligations.ControlRegisters : Prop :=
  Claims.ControlRegisterReads ∧ Claims.ControlRegisterWrites ∧ Claims.ControlRegisterFaults

/-- From R168, R282, R284: a fence of scope lane completes at once. Any other full or release fence completes when every earlier access
of its thread has been performed at its scope, as the table of R282 gives it, and with them those that other threads released toward
its core; it notes which accesses it did not wait for. An acquire fence completes when every earlier load has returned. Until then they
stall. That a release passes on what others released is the model's reading, log entry 123. -/
def Claims.Fences : Prop :=
  let stalls (i : Instr) (c : State → Prop) : Prop := ∀ s s1, Ready i s s1 → s.cur.place = .single → c s1 → exec i s = .next s.markStalled
  (∀ i ∈ [Instr.fence .lane, .fenceRel .lane, .fenceAcq .lane], Acts i (fun s => s)) ∧
  ∀ sc ≠ FScope.lane, ActsIf (.fence sc) (fun s => Released s sc) noted ∧ ActsIf (.fenceRel sc) (fun s => Released s sc) noted ∧
    ActsIf (.fenceAcq sc) (fun s => ∀ p ∈ s.src.pend, p.load = false) (fun s => s) ∧
    stalls (.fence sc) (fun s => ¬Released s sc) ∧ stalls (.fenceRel sc) (fun s => ¬Released s sc) ∧
    stalls (.fenceAcq sc) (fun s => ∃ p ∈ s.src.pend, p.load = true)

/-- From R169, R333, R335: the gate forms complete on a compute tile: a request toward a quad that is not gated is refused with its
reason while the quad holds work of another context or a pinned role, and else is pending; a release takes a pending request back, or
wakes a gated quad, which takes 4,096 cycles; on a channel core they are illegal. -/
def Claims.Gates : Prop :=
  let onTile (s : State) : Prop := isTile s.cur.core = true
  let asks (i : Instr) (q : State → Nat) (why : Nat → Core → Core) : Prop :=
    ActsIf i (fun s => onTile s ∧ (s.quad (q s)).gate = .none ∧ s.quadOther (q s) s.thr.ctx = true) (fun s => s.modHere (why 1)) ∧
    ActsIf i (fun s => onTile s ∧ (s.quad (q s)).gate = .none ∧ s.quadOther (q s) s.thr.ctx = false ∧ s.quadPinned (q s) = true)
      (fun s => s.modHere (why 2)) ∧
    ActsIf i (fun s => onTile s ∧ (s.quad (q s)).gate = .none ∧ s.quadOther (q s) s.thr.ctx = false ∧ s.quadPinned (q s) = false)
      (fun s => (s.modHere (why 0)).modQuad (q s) fun k => { k with gate := .pending }) ∧
    ActsIf i (fun s => onTile s ∧ (s.quad (q s)).gate ≠ .none) (fun s => s.modHere (why 0))
  let frees (i : Instr) (q : State → Nat) (why : Nat → Core → Core) : Prop :=
    ActsIf i (fun s => onTile s ∧ ((s.quad (q s)).gate = .pending ∨ ∃ n, (s.quad (q s)).gate = .closing n))
      (fun s => (s.modHere (why 0)).modQuad (q s) fun k => { k with gate := .none }) ∧
    ActsIf i (fun s => onTile s ∧ (s.quad (q s)).gate = .gated)
      (fun s => (s.modHere (why 0)).modQuad (q s) fun k => { k with gate := .waking (s.cycle + 4096) }) ∧
    ActsIf i (fun s => onTile s ∧ ((s.quad (q s)).gate = .none ∨ ∃ n, (s.quad (q s)).gate = .waking n)) (fun s => s.modHere (why 0))
  let above (s : State) : Nat := (quadOf s.cur.core + 64) % 512
  let below (s : State) : Nat := (quadOf s.cur.core + 448) % 512
  asks .gateUp above (fun n k => { k with whyAbove := n }) ∧ asks .gateDown below (fun n k => { k with whyBelow := n }) ∧
  frees .gateFreeUp above (fun n k => { k with whyAbove := n }) ∧ frees .gateFreeDown below (fun n k => { k with whyBelow := n }) ∧
  ∀ i ∈ [Instr.gateUp, .gateDown, .gateFreeUp, .gateFreeDown], ∀ s s1, Ready i s s1 → ¬onTile s1 → FaultsWith i s { cause := .illegalOp }

/-- From R57, R170: repartition of a quiet compute tile completes, and the core takes the new mode at the next rotation boundary, with
vector registers, lane masks and ACFG zero; in the mode that it cannot leave, and on a channel core, it is illegal, and on a core that
is not quiet it raises REPART_BUSY. -/
def Claims.Repartition : Prop :=
  let quiet (s : State) : Prop := s.cur.slot = 0 ∧ (∀ p ∈ s.here.slots, p.1 = 0 ∨ p.2.st = .empty) ∧ s.here.arrival = []
  let reparts (i : Instr) (last : Nat) (m : Nat → Nat) : Prop :=
    ActsIf i (fun s => isTile s.cur.core = true ∧ s.here.mode ≠ last ∧ quiet s ∧ s.here.modeNext = none)
      (fun s => s.modHere fun k => { k with modeNext := some (m k.mode) }) ∧
    ∀ s s1, Ready i s s1 → (isTile s1.cur.core = false ∨ s1.here.mode = last → FaultsWith i s { cause := .illegalOp }) ∧
      (isTile s1.cur.core = true → s1.here.mode ≠ last → ¬quiet s1 → FaultsWith i s { cause := .repartBusy })
  reparts .repartHalf 2 (fun n => n / 2) ∧ reparts .repartDbl 8 (fun n => n * 2) ∧
  ∀ (k : Core) m, k.modeNext = some m → let k' := k.remode
    k'.mode = m ∧ k'.modeNext = none ∧ k'.acfg = 0#64 ∧ (∀ row, FMap.get 0 k'.rows row = 0) ∧
    ∀ i n, (k.slot i).st ≠ .empty → n ≠ 0 → (k'.slot i).kr n = 0#64 ∧ (k'.slot i).pc = (k.slot i).pc ∧ (k'.slot i).g = (k.slot i).g

/-- From R171, R439: the invalidations complete with a result still to come, and what it removes when it comes: no translation that it
names is left in any TLB of the package. -/
def Claims.Invalidations : Prop :=
  (∀ a s s1, Ready (.tlbInvPage a) s s1 →
    Completes (.tlbInvPage a) s ((s1.rd a).2.openWindow 0 [] 0 [.inv (some (s1.rd a).2.thr.ctx) (some (src1 s1 a).toNat)]).2) ∧
  (∀ a s s1, Ready (.tlbInvCtx a) s s1 →
    Completes (.tlbInvCtx a) s ((s1.rd a).2.openWindow 0 [] 0 [.inv (some ((src1 s1 a).toNat % 64)) none]).2) ∧
  Acts .tlbInvAll (fun s => (s.openWindow 0 [] 0 [.inv none none]).2) ∧
  (∀ (s : State) c i wid w ctx va, (s.thrAt c i).windows.find? (fun x => x.wid == wid) = some w → w.need = 0 → w.tab = none →
    w.writes = [.inv ctx va] → let t := s.closeWindow c i wid
    (∀ p ∈ t.cores, ∀ e ∈ p.2.tlb, e.hit ctx va = false) ∧ (∀ p ∈ t.quads, ∀ e ∈ p.2.tlb, e.hit ctx va = false) ∧
    (∀ p ∈ t.l2walk, ∀ e ∈ p.2, e.hit ctx va = false) ∧ t.mem = s.mem) ∧
  ∀ (e : TlbEntry) c a, (e.hit none none = true) ∧ (e.hit (some c) none = true ↔ e.ctx = c) ∧
    (e.hit (some c) (some a) = true ↔ e.ctx = c ∧ e.va = a / 2 ^ e.bits * 2 ^ e.bits)

/-- Fences, gates, repartition and invalidation. -/
def Obligations.FencesAndPrivileged : Prop :=
  Claims.Fences ∧ Claims.Gates ∧ Claims.Repartition ∧ Claims.Invalidations

/-- From R303, R304, R283, R260: a load and a store whose place has passed the checks complete by sending their access to its owner, a
releasing store once what its release waits for has been performed; a load's destination is in a window that waits for the value, sign-extended or
zero-extended from its width. An aligned access of a granule of a slice that is open to the thread passes them. -/
def Claims.LoadsAndStores : Prop :=
  (∀ d a w sx o (imm : BitVec 48) s s1 sp s2, Ready (.ld d a w sx o imm) s s1 → let n := Width.bytes w
    let ea := (src1 s1 a + imm.signExtend 64).toNat; let u := (s1.rd a).2
    (u.reach .ld n n ea allBytes false false = .ok (sp, s2) ∨ SliceOpen u ea n ∧ sp = sliceSpot ea ∧ s2 = u) →
    sp.pod = none → s2.thr.speculative = false → let r := s2.longDest d; let p := r.2.openWindow 0 r.1 0 [] (MemOrd.acq o)
    Completes (.ld d a w sx o imm) s (p.2.sendAccess p.1 sp n .load (s2.landReg d (8 * n) sx))) ∧
  ∀ d a w o (imm : BitVec 48) s s1 sp s2, Ready (.st d a w o imm) s s1 → let n := Width.bytes w
    let ea := (src1 s1 a + imm.signExtend 64).toNat; let u := read2 (relState s1 o) a d
    relReady s1 o → s1.thr.podAns = none →
    (u.reach .st n n ea allBytes true true = .ok (sp, s2) ∨ SliceOpen u ea n ∧ sp = sliceSpot ea ∧ s2 = u) →
    sp.pod = none → s2.thr.speculative = false → let p := s2.openWindow 0 [] 0 []
    Completes (.st d a w o imm) s
      (p.2.sendAccess p.1 sp n (.store (allBytes >>> (64 - n)) ((src2 s1 a d).setWidth 512)) .none)

/-- From R290, R292: a load and a store of an ordered task that has not committed complete in its core's buffer: the load returns the
task's own bytes over memory's while the owner is in reach (R472), the store's bytes stand in the buffer, and neither memory nor the
network changes. -/
def Claims.BufferedAccesses : Prop :=
  let room (s : State) (line : Nat) : Prop := (s.specFind line).isSome = true ∨ s.here.spec.length < 256
  let bufByte (s : State) (k : Nat) : Byte := match s.specFind (k / 64) with
    | some e => if e.mask.getLsbD (k % 64) then e.data.extractLsb' (8 * (k % 64)) 8 else s.byte k
    | none => s.byte k
  (∀ d a w sx o (imm : BitVec 48) s s1, Ready (.ld d a w sx o imm) s s1 → let n := Width.bytes w
    let ea := (src1 s1 a + imm.signExtend 64).toNat; let u := (s1.rd a).2; let k := (sliceSpot ea).loc.key
    SliceOpen u ea n → u.thr.speculative = true → room u (k / 64) → u.reaches u.cur.core (sliceTile ea) = true → s1.skims = [] → ∃ t : State, Completes (.ld d a w sx o imm) s t ∧
      t.mem = s1.mem ∧ t.net = s1.net ∧ t.thr.pend = s1.thr.pend ∧ ∃ w' ∈ t.thr.windows, w'.wid = s1.thr.nextWid ∧ w'.need = 0 ∧
        w'.writes = (s1.landReg d (8 * n) sx).write (BitVec.ofNat 512 (leNat ((List.range n).map fun i => bufByte u (k + i)))) true) ∧
  ∀ d a w o (imm : BitVec 48) s s1, Ready (.st d a w o imm) s s1 → let n := Width.bytes w
    let ea := (src1 s1 a + imm.signExtend 64).toNat; let u := read2 (relState s1 o) a d; let k := (sliceSpot ea).loc.key
    relReady s1 o → s1.thr.podAns = none → SliceOpen u ea n → u.thr.speculative = true → room u (k / 64) → ∃ t : State,
      Completes (.st d a w o imm) s t ∧ t.mem = s1.mem ∧ t.net = s1.net ∧ t.thr.pend = u.thr.pend ∧
        ∀ x, bufByte t x = if k ≤ x ∧ x < k + n then (src2 s1 a d).extractLsb' (8 * (x - k)) 8 else bufByte u x

/-- From R66, R304, R311, R441, R450: a load, a store and an atomic of another cube: the request leaves and the thread stalls at its
instruction; when the other cube has answered, the instruction completes with the value, or raises the cause that the answer names. -/
def Claims.FarAccesses : Prop :=
  let asks (i : Instr) (s s1 : State) (ea n : Nat) (k : AccKind) (land : Land) : Prop := s1.thr.podAns = none →
    s1.thr.speculative = false → let u := s1.sendAccess s1.thr.nextWid (farSpot ea) n k land
    Again i s (u.setThr { u.thr with st := .stalled, podAns := some none })
  let hears (i : Instr) (s s1 : State) (l : Nat) (acq : Bool) (land : Land) (popped : State → State) (d : Option GSpec) : Prop :=
    ∀ (v : Word) (fl : BitVec 5), s1.thr.podAns = some (some (0, v, fl)) →
      let u := popped (s1.setThr { s1.thr with podAns := none })
      let r := match d with
        | some d => u.longDest d
        | none => ([], u)
      let p := r.2.openWindow l r.1 0 (land.write (v.setWidth 512) true) acq
      Completes i s (p.2.modWindow p.1 fun w => { w with flags := fl, late := false })
  let fails (i : Instr) (s s1 : State) (ea : Nat) : Prop := ∀ (code : Nat) (v : Word) (fl : BitVec 5),
    s1.thr.podAns = some (some (code, v, fl)) → code ≠ 0 → code ≠ 0x100 → s.cur.place = .single →
      exec i s = .next ((s1.setThr { s1.thr with podAns := none }).takeFault
        { cause := farCause code, addr := word ea, aux := v.toNat % 256 })
  (∀ d a w sx o (imm : BitVec 48) s s1, let i := Instr.ld d a w sx o imm; let n := Width.bytes w
    let ea := (src1 s1 a + imm.signExtend 64).toNat; let land := s1.landReg d (8 * n) sx
    Ready i s s1 → FarOpen s1 ea n → asks i s s1 ea n .load land ∧ fails i s s1 ea ∧
      hears i s s1 0 (MemOrd.acq o) land (fun s => (s.rd a).2) (some d)) ∧
  (∀ d a w o (imm : BitVec 48) s s1, let i := Instr.st d a w o imm; let n := Width.bytes w
    let ea := (src1 s1 a + imm.signExtend 64).toNat
    Ready i s s1 → FarOpen s1 ea n →
      (relReady s1 o → asks i s (relState s1 o) ea n (.store (allBytes >>> (64 - n)) ((src2 s1 a d).setWidth 512)) .none) ∧
      fails i s s1 ea ∧ hears i s s1 0 false .none (fun s => ((s.rd a).2.rd d).2) none) ∧
  ∀ d a b op dbl o l s s1, let i := Instr.amo d a b op dbl o l; let n := if dbl then 8 else 4
    let ea := (src1 s1 a).toNat; let land := s1.landReg d (8 * n) false
    Ready i s s1 → FarOpen s1 ea n →
      (relReady s1 (AmoOrd.release o) → asks i s (relState s1 (AmoOrd.release o)) ea n
        (.amo op dbl (src2 s1 a b) (if op = .cas then (read2 s1 a b).rg d else 0)) land) ∧
      fails i s s1 ea ∧ hears i s s1 l.toNat (AmoOrd.acquires o) land (fun s => ((s.rd a).2.rd b).2) (some d)

/-- From R305, R283: the line forms complete: with no active byte without an access, else with one access of the line under its mask. -/
def Claims.LineAccesses : Prop :=
  (∀ vd a k (imm : BitVec 26) o l, let i := Instr.ldv vd a k imm o l
    ActsIf i (fun s => s.rk k = 0#64) (fun s => s) ∧
    ∀ s s1 sp s2, Ready i s s1 → s1.rk k ≠ 0#64 → let ea := (s1.rg a + imm.signExtend 64).toNat
      (s1.reach .ldv 64 64 ea (s1.rk k) false false = .ok (sp, s2) ∨ SliceOpen s1 ea 64 ∧ sp = sliceSpot ea ∧ s2 = s1) →
      s2.thr.speculative = false → let p := s2.openWindow l.toNat [.v vd.toNat] 0 [] (MemOrd.acq o)
      Completes i s (p.2.sendAccess p.1 sp 64 .load (.line vd.toNat (s1.rk k)))) ∧
  ∀ vd a k (imm : BitVec 26) o l, let i := Instr.stv vd a k imm o l
    ActsIf i (fun s => s.rk k = 0#64) (fun s => s) ∧
    ∀ s s1 sp s2, Ready i s s1 → s1.rk k ≠ 0#64 → relReady s1 o → let u := relState s1 o
      let ea := (s1.rg a + imm.signExtend 64).toNat
      (u.reach .stv 64 64 ea (s1.rk k) true true = .ok (sp, s2) ∨ SliceOpen u ea 64 ∧ sp = sliceSpot ea ∧ s2 = u) →
      s2.thr.speculative = false → let p := s2.openWindow l.toNat [] 0 []
      Completes i s (p.2.sendAccess p.1 sp 64 (.store (s1.rk k) (s1.rv vd)) .none)

/-- From R306, R307, R313, R283: gathers, scatters and vector atomics complete when the place of every active element passes its checks:
one access for each, in lane order, owed to one window; with no active element, with none. -/
def Claims.ElementAccesses : Prop :=
  let open_ (k : AKind) (n : Nat) (write cover : Bool) (s : State) (ls : List (Nat × Nat)) (spot : Nat → Spot) : Prop :=
    s.held = false ∧ s.thr.done = 0 ∧ s.thr.speculative = false ∧ ∀ p ∈ ls,
      s.reach k n n p.2 allBytes write cover = .ok (spot p.2, s) ∧ (spot p.2).pod = none ∨
      SliceOpen s p.2 n ∧ spot p.2 = sliceSpot p.2
  let opens (s t : State) (l : Look) (ls : List (Nat × Nat)) (ds : List Dest) (acq : Bool) : Prop := ∃ w ∈ t.thr.windows,
    w.wid = s.thr.nextWid ∧ w.left = l.toNat ∧ w.dests = ds ∧ w.need = ls.length ∧ w.writes = [] ∧ w.acq = acq
  (∀ vd a vb k w sh o l s s1 spot, let i := Instr.gath vd a vb k w sh o l; let n := Width.bytes w
    let ls := activeLanes s1 a vb k (8 * n) (if n = 8 then 64 else 32) (if n = 8 then 8 else 16) sh.toNat
    Ready i s s1 → open_ .ldv n false false s1 ls spot → ∃ t : State, Completes i s t ∧ t.mem = s1.mem ∧
      Sends s1 t n s1.thr.nextWid ls spot (fun _ => .load) (fun j => .elem vd.toNat j (8 * n)) ∧
      opens s1 t l ls [.v vd.toNat] (MemOrd.acq o)) ∧
  (∀ vd a vb k w sh o l s s1 spot, let i := Instr.scat vd a vb k w sh o l; let n := Width.bytes w
    let ls := activeLanes s1 a vb k (8 * n) (if n = 8 then 64 else 32) (if n = 8 then 8 else 16) sh.toNat
    Ready i s s1 → relReady s1 o → open_ .stv n true true (relState s1 o) ls spot → ∃ t : State, Completes i s t ∧ t.mem = s1.mem ∧
      Sends s1 t n s1.thr.nextWid ls spot (fun j => .store (allBytes >>> (64 - n)) (BitVec.ofNat 512 (elemAt (8 * n) (s1.rv vd) j)))
        (fun _ => .none) ∧ opens s1 t l ls [] false) ∧
  ∀ vd a vb vc k op dbl o l s s1 spot, let i := Instr.vamo vd a vb vc k op dbl o l; let n := if dbl then 8 else 4
    let ls := activeLanes s1 a vb k (8 * n) (8 * n) (if dbl then 8 else 16) 0; let r := AmoOrd.release o
    Ready i s s1 → relReady s1 r → open_ .vamo n true false (relState s1 r) ls spot → ∃ t : State, Completes i s t ∧ t.mem = s1.mem ∧
      Sends s1 t n s1.thr.nextWid ls spot (fun j => .amo op dbl (word (elemAt (8 * n) (s1.rv vc) j)) 0)
        (fun j => .elem vd.toNat j (8 * n)) ∧ opens s1 t l ls [.v vd.toNat] (AmoOrd.acquires o)

/-- Loads, stores, lines and elements complete. A load or store without a lookahead field opens a window of lookahead 0, log entry 5;
every access travels as a message, log entry 7. -/
def Obligations.MemoryInstructions : Prop :=
  Claims.LoadsAndStores ∧ Claims.BufferedAccesses ∧ Claims.FarAccesses ∧ Claims.LineAccesses ∧ Claims.ElementAccesses

/-- From R309, R310, R311, R314, R283: reservations and atomics whose place has passed the checks complete: `lr`, `sc` and `amo` by sending their
access to the owner of the word, `wrs` by parking on the granule when the thread's pair names it and at once when it does not. Every
access travels as a message, log entry 7. -/
def Obligations.ReservationsAndAtomics : Prop :=
  (∀ d a dbl o l s s1 sp s2, let i := Instr.lr d a dbl o l; let n := if dbl then 8 else 4
    let ea := (src1 s1 a).toNat; let u := (s1.rd a).2
    Ready i s s1 → (u.reach .lr n n ea allBytes false false = .ok (sp, s2) ∨ SliceOpen u ea n ∧ sp = sliceSpot ea ∧ s2 = u) →
    s2.thr.speculative = false →
    let r := s2.longDest d; let p := r.2.openWindow l.toNat r.1 0 [] (MemOrd.acq o)
    Completes i s (p.2.sendAccess p.1 sp n .loadResv (s2.landReg d (8 * n) false))) ∧
  (∀ d a dbl o q l s s1 sp s2, let i := Instr.sc d a dbl o q l; let n := if dbl then 8 else 4
    let ea := (src1 s1 a).toNat; let u := read2 (relState s1 o) a d
    Ready i s s1 → relReady s1 o →
    (u.reach .sc n n ea allBytes true false = .ok (sp, s2) ∨ SliceOpen u ea n ∧ sp = sliceSpot ea ∧ s2 = u) →
    s2.thr.speculative = false → let p := s2.openWindow l.toNat [.p q.toNat] 0 []
    Completes i s (p.2.sendAccess p.1 sp n (.sc dbl (src2 s1 a d) q.toNat) (.pred q.toNat))) ∧
  (∀ d a b op dbl o l s s1 sp s2, let i := Instr.amo d a b op dbl o l; let n := if dbl then 8 else 4
    let ea := (src1 s1 a).toNat; let u := read2 (relState s1 (AmoOrd.release o)) a b
    Ready i s s1 → relReady s1 (AmoOrd.release o) → s1.thr.podAns = none →
    (u.reach .amo n n ea allBytes true false = .ok (sp, s2) ∨ SliceOpen u ea n ∧ sp = sliceSpot ea ∧ s2 = u) →
    sp.pod = none → s2.thr.speculative = false →
    let r := s2.longDest d; let p := r.2.openWindow l.toNat r.1 0 [] (AmoOrd.acquires o)
    Completes i s (p.2.sendAccess p.1 sp n (.amo op dbl (src2 s1 a b) (if op = .cas then s2.rg d else 0)) (s2.landReg d (8 * n) false))) ∧
  ∀ a s s1 sp s2, let i := Instr.wrs a; let ea := (src1 s1 a).toNat; let u := (s1.rd a).2
    Ready i s s1 → s1.thr.speculative = false →
    (u.reach .wrs 8 8 ea 0 false false = .ok (sp, s2) ∨ SliceOpen u ea 8 ∧ sp = sliceSpot ea ∧ s2 = u) →
    s2.thr.pend = [] → let g := sp.loc.key / 8
    Completes i s (if s2.holdsPair g s2.thr.ctl.taskh.toNat then s2.park (.reservation g) else s2)

/-- From R315, R316, R38, R269, R270: `walk` and `walk.home` have no effect in a resident thread or at their target; a light thread whose
windows have closed and whose accesses have been performed leaves its slot empty and travels, with the 256 bytes of R38, to go on at
the next PC. That its counts have reached the package table by then is log entry 102. -/
def Claims.WalksOnRequest : Prop :=
  let may (s : State) : Prop := s.thr.speculative = false ∧ s.thr.windows = [] ∧ s.thr.pend = [] ∧
    (s.thr.counted = false ∨ s.countsIn s.cur.core s.thr.launch = true)
  let gone (s : State) (to_ : Nat) : State := let t := s.thr.walking s.cur.npc
    ((s.unreserve s.thr.ctl.taskh.toNat).setThr {}).send
      (.walk ⟨t, to_, t.walkBytes, s.cur.core, s.orderOf s.cur.core s.thr.launch 2⟩)
  (∀ a, ActsIf (.walk a) (fun s => s.thr.light = false) (fun s => (s.rd a).2)) ∧
  (∀ a s s1, Ready (.walk a) s s1 → s1.thr.light = true → let ea := (src1 s1 a).toNat; let u := (s1.rd a).2
    2 ^ 47 ≤ ea → ea < 2 ^ 47 + 2 ^ 33 → u.held = false → Granted u u.thr.ctx ea →
    u.shutAt (sliceTile ea) = false →
    (sliceTile ea = u.cur.core → Completes (.walk a) s u) ∧
    (sliceTile ea ≠ u.cur.core → may u → Again (.walk a) s (gone u (sliceTile ea)))) ∧
  ActsIf .walkHome (fun s => s.thr.light = false ∨ (s.thr.ctl.taskh.extractLsb' 52 12).toNat = s.cur.core) (fun s => s) ∧
  ∀ s s1, Ready .walkHome s s1 → s1.thr.light = true → let home := (s1.thr.ctl.taskh.extractLsb' 52 12).toNat
    home ≠ s1.cur.core →
    (s1.shutAt home = true → FaultsWith .walkHome s { cause := .gated }) ∧
    (s1.shutAt home = false → may s1 → Again .walkHome s (gone s1 home))

/-- From R38: the walking context is 256 bytes, of which byte 215 and the last 32 are zero; what a thread unpacks from them is what it
had: g0 to g23, PC, LTIME, PW, the low bits of STATUS, STAGE and WMODE, and TASKH. The thread's context and launch travel in the
message's envelope, log entry 101. -/
def Claims.WalkingContext : Prop :=
  ∀ (t : Thread) (pc : Word), let w := t.walking pc; let bs := w.walkBytes; let u := w.unwalk bs
    bs.length = 256 ∧ bs.getD 215 0 = 0#8 ∧ (∀ n, 224 ≤ n → bs.getD n 0 = 0#8) ∧
    (∀ r < 24, u.gr r = t.gr r) ∧ u.pc = pc ∧ u.pw = t.pw ∧ u.ctl.ltime = t.ctl.ltime ∧ u.ctl.taskh = t.ctl.taskh ∧
    u.ctl.status = t.ctl.status &&& 0xFFFF#64 ∧ u.ctl.stage = t.ctl.stage &&& 0xFFFF#64 ∧ u.ctl.wmode = t.ctl.wmode &&& 0xFF#64 ∧
    u.light = true ∧ u.ctx = t.ctx ∧ u.launch = t.launch

/-- From R270, R272, R274, R40, R236, R413, R454: a walking context whose turn it is and whose way is in service joins a buffer that has
room; the oldest of a
context that is not pre-empted there takes the lowest slot that a light thread may take, its watchdog count started anew. -/
def Claims.WalksArrive : Prop :=
  (∀ s w, s.msg (s.arg 0) = some (.walk w) → (s.core w.target).arrival.length < 16 → s.mayArrive (s.arg 0) (.walk w) = true →
    Happens .walkContextArrival s
      ((s.unsend (s.arg 0)).modCore w.target fun k => { k with arrival := k.arrival ++ [w] })) ∧
  ∀ s pre w rest i, let c := s.arg 0; let k := s.core c
    k.arrival = pre ++ w :: rest → (∀ v ∈ pre, v.thr.ctx ∈ k.out) → w.thr.ctx ∉ k.out → k.modeNext = none →
    let free (j : Nat) : Prop := (s.thrAt c j).st = .empty ∧ FMap.find j k.pins = none
    i < k.mode - 1 → free i → (∀ j < i, ¬free j) → (∀ x, x ≠ w.thr.ctx → (s.skim x c i).onCore = []) →
    ∃ t : State, Happens .arrivalPlacement s t ∧ (t.core c).arrival = pre ++ rest ∧ t.mem = s.mem ∧
      t.thrAt c i = { w.thr.unwalk w.msg with dog := s.cycle, dogPer := (s.wdogOf w.thr.ctx).toNat } ∧
      ∀ j, j ≠ i → t.thrAt c j = s.thrAt c j

/-- Walks leave and arrive. -/
def Obligations.Walks : Prop :=
  Claims.WalksOnRequest ∧ Claims.WalkingContext ∧ Claims.WalksArrive

/-- From R260: the checks of an access in their order: a thread's access whose address is in no aperture, or in one that does not allow
its kind, raises BAD_APERTURE; then a misaligned one MISALIGNED; then, in the slice of a tile, one on a granule of another context
GRANULE, one of its own whose image has not come back PAGE_ABSENT (R420, R426), one of a gated quad GATED, and one that meets a copy's
lock RANGE_LOCK, `lr` and `wrs` as a write does. -/
def Obligations.ChecksInOrder : Prop :=
  ∀ (s : State) k align n ea mask write cover, s.held = false → s.thr.podAns = none →
    let got := s.reach k align n ea mask write cover
    (2 ^ 47 + 2 ^ 35 ≤ ea → ea < 2 ^ 60 ∨ 2 ^ 61 ≤ ea → got = .error (badAt .badAperture ea)) ∧
    (2 ^ 47 + 2 ^ 34 ≤ ea → ea < 2 ^ 47 + 2 ^ 35 → k ∉ [AKind.ld, .ldv] → got = .error (badAt .badAperture ea)) ∧
    (ea < 2 ^ 47 + 2 ^ 34 → ea % align ≠ 0 → got = .error (badAt .misaligned ea)) ∧
    (2 ^ 47 ≤ ea → ea < 2 ^ 47 + 2 ^ 33 → ea % align = 0 → let tile := (ea - 2 ^ 47) / 2 ^ 22; let off := (ea - 2 ^ 47) % 2 ^ 22
      (s.grantee tile (off / 2 ^ 16) ≠ some s.thr.ctx → FMap.find (imageKey s.thr.ctx tile (off / 2 ^ 16)) s.images = none →
        got = .error (badAt .granule ea)) ∧
      (∀ img, FMap.find (imageKey s.thr.ctx tile (off / 2 ^ 16)) s.images = some img → got = .error (badAt .pageAbsent ea 2)) ∧
      (s.grantee tile (off / 2 ^ 16) = some s.thr.ctx → FMap.find (imageKey s.thr.ctx tile (off / 2 ^ 16)) s.images = none →
        (s.shutAt tile = true → got = .error (badAt .gated ea)) ∧
        (s.shutAt tile = false → s.thr.light = false →
          (s.rangeLocked (2 ^ 41 + tile * 2 ^ 22 + off) (write || k == .lr || k == .wrs) = true → got = .error (badAt .rangeLock ea)) ∧
          (s.rangeLocked (2 ^ 41 + tile * 2 ^ 22 + off) (write || k == .lr || k == .wrs) = false → s.poison = [] →
            got = .ok (⟨⟨2 ^ 41 + tile * 2 ^ 22 + off, tile⟩, none, word ea⟩, s)))))

/-- From R264, R268, R278, R279, R287, R470: an owner performs an access in its turn: a load answers with the bytes as they are and writes
nothing, but that a byte in the place of a skim entry may be the entry's (R242); a store writes exactly its bytes, all at one point, one of
several granules, such as a line, once no queue stands at any of them; an atomic, and a store of one granule behind one, joins the queue
of its granule; a load or store that meets an error mark is refused and writes nothing. Accesses of the own slice take the step of remote
ones, log entry 7, and an error that arises after an access has issued is log entry 125. -/
def Obligations.OwnersPerform : Prop :=
  ∀ s i a, (i = .remoteAccessRequest ∧ a.proxied = false ∨ i = .proxiedAccessRequest ∧ a.proxied = true) →
    s.msg (s.arg 0) = some (.access a) → a.pod = none → s.mayArrive (s.arg 0) (.access a) = true → s.accessReady (s.arg 0) a = true →
    let u := (s.unsend (s.arg 0)).countLine a.key
    let mem (n : Nat) : Line := BitVec.ofNat 512 (s.readN a.key n)
    (∀ n, a.kind = .load ∨ a.kind = .loadResv → s.marked a = some n → Happens i s (u.refuse a n)) ∧
    (∀ mask data n, a.kind = .store mask data → s.marked a = some n → (∀ g, granulesOf a.key a.bytes mask = [g] → s.granQ g = []) →
      FMap.get 0 s.netMarks (s.arg 0) = 0 → Happens i s (u.refuse a n)) ∧
    (a.kind = .load → s.marked a = none → s.overlays a.key a.bytes = [] → Happens i s (u.respond a (mem a.bytes) true)) ∧
    (a.kind = .loadResv → s.marked a = none → s.overlays a.key a.bytes = [] →
      Happens i s ((u.reserve a.key a.taskh.toNat).respond a (mem a.bytes) true) ∧
      (u.reserve a.key a.taskh.toNat).holdsPair (a.key / 8) a.taskh.toNat = true) ∧
    (a.kind = .load → s.marked a = none → ∃ (v : Nat) (t : State), Happens i s (t.respond a (BitVec.ofNat 512 v) true) ∧ t.mem = s.mem ∧ t.cores = s.cores ∧
      ∀ j < a.bytes, BitVec.ofNat 8 (v / 256 ^ j) = s.byte (a.key + j) ∨
        ∃ o ∈ s.overlays a.key a.bytes, ∃ m < 3, ∃ b, o.1.getD m none = some b ∧ b ≤ a.key + j ∧ a.key + j < b + 32 ∧
          BitVec.ofNat 8 (v / 256 ^ j) = BitVec.ofNat 8 (o.2.toNat / 256 ^ (32 * m + (a.key + j - b)))) ∧
    (∀ mask data, a.kind = .store mask data →
      (s.marked a = none → (∀ g, granulesOf a.key a.bytes mask = [g] → s.granQ g = []) → ∃ t : State, Happens i s t ∧
        ∀ x, t.byte x = if a.key ≤ x ∧ x < a.key + a.bytes ∧ mask.getLsbD (x - a.key) = true
          then BitVec.ofNat 8 (data.toNat / 256 ^ (x - a.key)) else s.byte x) ∧
      (1 < (granulesOf a.key a.bytes mask).length → ∀ g ∈ granulesOf a.key a.bytes mask, s.granQ g = []) ∧
      ∀ g, granulesOf a.key a.bytes mask = [g] → s.granQ g ≠ [] → a.key / 8 = g → ∃ t : State, Happens i s t ∧ t.mem = s.mem ∧
        t.granQ g = s.granQ g ++ [⟨a.msg, a, .waiting⟩]) ∧
    ((∃ op dbl v c, a.kind = .amo op dbl v c) ∨ (∃ dbl v p, a.kind = .sc dbl v p) → ∃ t : State, Happens i s t ∧ t.mem = s.mem ∧
      t.granQ (a.key / 8) = s.granQ (a.key / 8) ++ [⟨a.msg, a, .waiting⟩])

/-- From R264, R268, R65, R173, R454: a response whose turn it is and whose way is in service completes at its thread: the window of the
access owes one less and holds the value it will write, and the access counts as performed; then the result is written and its window
closes. The window of a table load stays open while a function that reads the old table is in flight. The refusal of an access that met
an error mark after it had issued is held as MEM_ERROR to the thread's next boundary, which is the model's choice, log entry 125. -/
def Obligations.ResponsesAndResults : Prop :=
  (∀ s a v fl ok, s.msg (s.arg 0) = some (.response a v fl ok) → s.mayArrive (s.arg 0) (.response a v fl ok) = true →
    FMap.get 0 s.netMarks (s.arg 0) = 0 → Happens .accessResponse s ((s.unsend (s.arg 0)).fill a v fl ok)) ∧
  (∀ s a off, s.msg (s.arg 0) = some (.failed a off) → s.mayArrive (s.arg 0) (.failed a off) = true →
    Happens .accessResponse s ((s.unsend (s.arg 0)).fail a off)) ∧
  (∀ (s : State) a off, a.core < 2560 → (∀ id b sx, a.land ≠ .q id b sx) → (s.thrAt a.core a.slot).st ≠ .empty →
    (s.thrAt a.core a.slot).ctl.taskh = a.taskh → let t := s.thrAt a.core a.slot; let t' := (s.fail a off).thrAt a.core a.slot
    (∀ p ∈ t'.pend, p.msg ≠ a.msg) ∧ t'.g = t.g ∧ (t.lateErr = none → ∃ f, t'.lateErr = some f ∧ f.cause = .memError ∧
      f.addr = a.ea + word off) ∧ (s.fail a off).mem = s.mem) ∧
  (∀ (s : State) a v fl ok, a.core < 2560 → (s.thrAt a.core a.slot).st ≠ .empty →
    (s.thrAt a.core a.slot).ctl.taskh = a.taskh → let t := (s.fill a v fl ok).thrAt a.core a.slot
    (∀ p ∈ t.pend, p.msg ≠ a.msg) ∧ t.g = (s.thrAt a.core a.slot).g ∧
    ∀ w ∈ (s.thrAt a.core a.slot).windows, w.wid = a.wid → ∃ w' ∈ t.windows, w'.wid = a.wid ∧ w'.need = w.need - 1 ∧
      w'.writes = w.writes ++ a.land.write v ok) ∧
  (∀ s w r v rest, let c := s.arg 0; let i := s.arg 1
    (s.thrAt c i).windows = w :: rest → w.dests = [.g r] → w.need = 0 → w.writes = [.g r v] → w.tab = none →
    (∀ w' ∈ rest, w'.wid ≠ w.wid) → s.arg 2 = w.wid → ∃ t : State, Happens .longResultWritten s t ∧
      (t.thrAt c i).gr r = v ∧ (t.thrAt c i).windows = rest ∧ (∀ q, q ≠ r → (t.thrAt c i).gr q = (s.thrAt c i).gr q) ∧ t.mem = s.mem) ∧
  ∀ s w, let c := s.arg 0; let i := s.arg 1
    (s.thrAt c i).windows.find? (fun w => w.wid == s.arg 2) = some w →
    (0 < w.need ∨ ∃ n, w.tab = some (.loads n) ∧ ∃ j t, (j, t) ∈ (s.core c).slots ∧ ∃ x ∈ t.windows, x.tab = some (.reads n)) →
    Happens .longResultWritten s s

/-- From R287, R288, R310, R311, R470: an atomic at the head of its granule's queue: its value goes out, the unit computes, the new value is
written and nothing else, and the next of the queue is served: an atomic's value goes out, a store is performed, a conditional store
stands at the head; a conditional store writes exactly where its thread holds the pair; one that meets an error mark is refused, and the
queue moves on (R470). Elements of free lists that waited behind the queue then return (R419). -/
def Obligations.AtomicsAtTheGranule : Prop :=
  (∀ s : State, s.gives = [] → s.giveWaiting = s) ∧
  (∀ s e rest op dbl v c, s.granQ (s.arg 0) = e :: rest → e.phase = .waiting → e.acc.kind = .amo op dbl v c →
    (s.marked e.acc = none → Happens .amoQueueHead s
      (s.setGranQ (s.arg 0) ({ e with phase := .sent (word (s.readN e.acc.key e.acc.bytes)) } :: rest)).giveWaiting) ∧
    ∀ n, s.marked e.acc = some n → rest = [] → Happens .amoQueueHead s ((s.setGranQ (s.arg 0) []).refuse e.acc n).giveWaiting) ∧
  (∀ s e rest op dbl v c old, s.granQ (s.arg 0) = e :: rest → e.phase = .sent old → e.acc.kind = .amo op dbl v c →
    e.acc.returns s = true →
    let w := if dbl then 64 else 32; let r := amoNew op w old.toNat (v.toNat % 2 ^ w) (c.toNat % 2 ^ w)
    Happens .amoUnitCompute s
      ((s.setGranQ (s.arg 0) ({ e with phase := .computed old (word r.1) } :: rest)).fill e.acc (old.setWidth 512) r.2 true false)) ∧
  (let written (s : State) (e : GEntry) (new : Word) (t : State) : Prop :=
    ∀ x, t.byte x = if e.acc.key ≤ x ∧ x < e.acc.key + e.acc.bytes ∧ x < e.acc.key + 64
      then BitVec.ofNat 8 (new.toNat / 256 ^ (x - e.acc.key)) else s.byte x
   (∀ s e old new, s.granQ (s.arg 0) = [e] → e.phase = .computed old new → e.acc.goes s = true → ∃ t : State,
      Happens .amoWriteHalf s t.giveWaiting ∧ t.granQ (s.arg 0) = [] ∧ written s e new t) ∧
   ∀ s e n rest old new, s.granQ (s.arg 0) = e :: n :: rest → e.phase = .computed old new → e.acc.goes s = true →
      n.phase = .waiting → s.poison = [] → ∃ t : State, Happens .amoWriteHalf s t.giveWaiting ∧
        ((∃ op dbl v c, n.acc.kind = .amo op dbl v c) → written s e new t ∧
          t.granQ (s.arg 0) = { n with phase := .sent (word (t.readN n.acc.key n.acc.bytes)) } :: rest) ∧
        ((∃ dbl v p, n.acc.kind = .sc dbl v p) → written s e new t ∧ t.granQ (s.arg 0) = n :: rest) ∧
        ∀ mask data, n.acc.kind = .store mask data → rest = [] → t.granQ (s.arg 0) = [] ∧ ∃ u : State, written s e new u ∧
          ∀ x, t.byte x = if n.acc.key ≤ x ∧ x < n.acc.key + n.acc.bytes ∧ mask.getLsbD (x - n.acc.key) = true
            then BitVec.ofNat 8 (data.toNat / 256 ^ (x - n.acc.key)) else u.byte x) ∧
  (∀ s e dbl data p, s.granQ (s.arg 0) = [e] → e.phase = .waiting → e.acc.kind = .sc dbl data p → s.marked e.acc = none → ∃ t : State,
    Happens .scQueueHead s t.giveWaiting ∧ t.granQ (s.arg 0) = [] ∧ ∀ x, t.byte x = if s.holdsPair (s.arg 0) e.acc.taskh.toNat = true ∧ e.acc.key ≤ x ∧
        x < e.acc.key + e.acc.bytes ∧ x < e.acc.key + 64 then BitVec.ofNat 8 (data.toNat / 256 ^ (x - e.acc.key)) else s.byte x) ∧
  ∀ w o v c, (w = 32 ∨ w = 64) → o < 2 ^ w → v < 2 ^ w → c < 2 ^ w →
    (amoNew .add w o v c).1 = (o + v) % 2 ^ w ∧ (amoNew .and_ w o v c).1 = o &&& v ∧ (amoNew .or_ w o v c).1 = o ||| v ∧
    (amoNew .xor_ w o v c).1 = o ^^^ v ∧ (amoNew .swap w o v c).1 = v ∧ (amoNew .cas w o v c).1 = (if o = c then v else o) ∧
    (amoNew .minn w o v c).1 = min o v ∧ (amoNew .maxn w o v c).1 = max o v ∧
    (amoNew .min w o v c).1 = (if (BitVec.ofNat w v).slt (BitVec.ofNat w o) then v else o) ∧
    (amoNew .max w o v c).1 = (if (BitVec.ofNat w o).slt (BitVec.ofNat w v) then v else o)

/-- From R320, R321, R53: `qmap` completes: the byte of the queue number takes the id and no other byte changes; a queue that belongs to
a context from its first binding is the thread's context's then, and one of another context raises QUEUE_OWNER. -/
def Claims.QueueBinding : Prop :=
  ∀ (n : BitVec 3) (id : BitVec 8) s s1, Ready (.qmap n id) s s1 →
    let ours := ∀ e ∈ qEnds s1.cur.core id.toNat, ∀ o, (s1.queue e.1 e.2).owner = some o → o = s1.thr.ctx
    (id = 0xFF#8 ∨ (qExists s1.cur.core s1.cur.slot s1.here.mode id.toNat = true ∧ (qOwned id.toNat = true → ours)) →
      ∃ t : State, Completes (.qmap n id) s t ∧
        (∀ m < 8, t.thr.ctl.qmap.extractLsb' (8 * m) 8 = if m = n.toNat then id else s1.thr.ctl.qmap.extractLsb' (8 * m) 8) ∧
        (id ≠ 0xFF#8 → qOwned id.toNat = true → s1.qid n.toNat ≠ id.toNat →
          ∀ e ∈ qEnds s1.cur.core id.toNat, (t.queue e.1 e.2).owner = some s1.thr.ctx)) ∧
    (qExists s1.cur.core s1.cur.slot s1.here.mode id.toNat = true → id ≠ 0xFF#8 → qOwned id.toNat = true → ¬ours →
      FaultsWith (.qmap n id) s { cause := .queueOwner })

/-- From R322, R323, R324, R396, R42: the queue instructions complete: the counts, the peek, and the non-blocking pop and push with what
they do to the entries; on a closed queue they give all ones or raise QUEUE_CLOSED; `qclose` closes every end and leaves the entries. -/
def Claims.QueueInstructions : Prop :=
  (∀ d n, ActsIf (.qfree d n) (fun s => qCanPush s.cur.core (s.qid n.toNat) = true) (fun s => let id := s.qid n.toNat
    s.wr d (if (s.srcQueue id).closed || s.fifoShut s.cur.core id then BitVec.allOnes 64 else word (s.srcRoom id)))) ∧
  (∀ d n, Reads (fun d => .qlen d n) (fun s => word (s.qLen s.cur.core (s.qid n.toNat))) ∧
    ∀ s s1, Ready (.qpeek d n) s s1 → qCanPop s1.cur.core (s1.qid n.toNat) = true →
      (∀ v rest, s1.srcHead (s1.qid n.toNat) = v :: rest → Completes (.qpeek d n) s (s1.wr d (v.setWidth 64))) ∧
      (s1.srcHead (s1.qid n.toNat) = [] → s1.srcEnded (s1.qid n.toNat) = true → FaultsWith (.qpeek d n) s { cause := .queueClosed })) ∧
  (∀ d (n : BitVec 3) p s s1, Ready (.qtry d n p) s s1 → let c := s1.cur.core; let id := s1.qid n.toNat
    qCanPop c id = true → (s1.queue c id).marks.getD 0 0 = 0 →
    (∀ v rest, qPort id = false → (s1.queue c id).items = v :: rest → s1.cur.landed.count id ≤ rest.length → ∃ t : State,
      Completes (.qtry d n p) s ((t.wr d (v.setWidth 64)).wp p true) ∧ (t.queue c id).items = rest ∧ t.thr = s1.thr ∧ t.mem = s1.mem) ∧
    (s1.srcItems id = 0 → s1.srcEnded id = false → Completes (.qtry d n p) s (s1.wp p false)) ∧
    (s1.srcItems id = 0 → s1.srcEnded id = true → FaultsWith (.qtry d n p) s { cause := .queueClosed })) ∧
  (∀ (n : BitVec 3) a p s s1, Ready (.qput n a p) s s1 → let c := s1.cur.core; let id := s1.qid n.toNat; qCanPush c id = true →
    ((s1.srcQueue id).closed = true ∨ s1.targetGated c id = true → FaultsWith (.qput n a p) s { cause := .queueClosed }) ∧
    ((s1.srcQueue id).closed = false → s1.targetGated c id = false →
      (s1.srcFree id = 0 → Completes (.qput n a p) s (s1.wp p false)) ∧
      (s1.srcFree id ≠ 0 → ∃ t : State, Completes (.qput n a p) s (t.wp p true) ∧ t.thr = s1.thr ∧
        ((s1.queue c (qSend id)).resv = [] →
          (t.queue c (qSend id)).items = (s1.queue c (qSend id)).items ++ [(s1.rg a).setWidth 512]) ∧
        ((s1.queue c (qSend id)).resv ≠ [] → ∃ src,
          (t.queue c (qSend id)).resv = (s1.queue c (qSend id)).resv ++ [⟨0, 0, some ((s1.rg a).setWidth 512), src⟩] ∧
          (t.queue c (qSend id)).items = (s1.queue c (qSend id)).items)))) ∧
  ∀ (n : BitVec 3) s s1, Ready (.qclose n) s s1 → ∃ t : State, Completes (.qclose n) s t ∧
    ∀ c id, (t.queue c id).items = (s1.queue c id).items ∧
      ((t.queue c id).closed = true ↔ (s1.queue c id).closed = true ∨ (c, id) ∈ qEnds s1.cur.core (s1.qid n.toNat))

/-- From R318, R325, R326, R472, R475: what moves between the ends of a queue while its way is in service: an entry goes from the head
of what waits at one end to the tail at the other; reports of pops and window updates raise what the pushing end sees free; where a
link of the way is out, nothing moves. -/
def Claims.QueueTransport : Prop :=
  let moves (i : Instr) (at_ to_ : State → Nat × Nat) (cap : Nat) (up : State → Bool) : Prop :=
    (∀ s v rest, (s.queue (at_ s).1 (at_ s).2).items = v :: rest → (s.queue (to_ s).1 (to_ s).2).items.length < cap → up s = true →
      ∃ t : State, Happens i s t ∧ (t.queue (at_ s).1 (at_ s).2).items = rest ∧
        (t.queue (to_ s).1 (to_ s).2).items = (s.queue (to_ s).1 (to_ s).2).items ++ [v] ∧
        ∀ c id, (c, id) ≠ at_ s → (c, id) ≠ to_ s → t.queue c id = s.queue c id) ∧
    ∀ s, up s = false → Happens i s s
  moves .fifoEntryArrival (fun s => (s.arg 0, if s.arg 1 = 1 then 0x10 else 0x11))
    (fun s => if s.arg 1 = 1 then (portTile (s.arg 0) 4, 0x12) else (portTile (s.arg 0) 5, 0x13)) 16
    (fun s => s.portUp (s.arg 0) (if s.arg 1 = 1 then 4 else 5)) ∧
  moves .networkQueueArrival (fun s => (s.arg 0, 0x120 + s.arg 1 % 6))
    (fun s => (portTile (s.arg 0) (s.arg 1 % 6), if s.arg 1 % 6 % 2 = 0 then 0x21 + s.arg 1 % 6 else 0x1F + s.arg 1 % 6)) 16
    (fun s => s.portUp (s.arg 0) (s.arg 1 % 6)) ∧
  (∀ s v rest, isTile (s.arg 0) = true → s.pathUp 0 (s.arg 0) (gradCore (s.arg 0)) = true →
    let id := 0x28 + s.arg 1 % 4; (s.queue (s.arg 0) id).items = v :: rest →
    (s.queue (gradCore (s.arg 0)) id).items.length < 64 → ∃ t : State, Happens .gradientEntryArrival s t ∧
      (t.queue (s.arg 0) id).items = rest ∧
      (t.queue (gradCore (s.arg 0)) id).items = (s.queue (gradCore (s.arg 0)) id).items ++ [v] ∧
      (t.queue (gradCore (s.arg 0)) id).srcs = (s.queue (gradCore (s.arg 0)) id).srcs ++ [s.arg 0]) ∧
  (∀ s, let c := s.arg 0; let e := if s.arg 1 = 1 then (0x10, portTile c 4, 0x12) else (0x11, portTile c 5, 0x13)
    (s.queue e.2.1 e.2.2).popped ≠ 0 → s.portUp e.2.1 (if s.arg 1 = 1 then 5 else 4) = true → ∃ t : State, Happens .fifoPopReport s t ∧
      (t.queue c e.1).seenFull = (s.queue c e.1).seenFull - 1 ∧ (t.queue e.2.1 e.2.2).popped = (s.queue e.2.1 e.2.2).popped - 1) ∧
  ∀ s, let c := s.arg 0; let id := 0x28 + s.arg 1 % 4; isTile c = true → s.pathUp 0 (gradCore c) c = true → ∃ t : State,
    Happens .gradientWindowUpdate s t ∧
    (t.queue c id).seenFull = (s.queue c id).seenFull - FMap.get 0 (s.queue (gradCore c) id).owed c ∧
    FMap.get 0 (t.queue (gradCore c) id).owed c = 0

/-- Queues: binding, instructions, transport. What closing a gradient stream does is the model's reading, log entry 11. -/
def Obligations.Queues : Prop :=
  Claims.QueueBinding ∧ Claims.QueueInstructions ∧ Claims.QueueTransport

/-- From R328, R329, R331, R296: the barrier instructions of the owning context complete with their effect on the barrier for the slot
of the issuing thread; an arrival, a drop and a leave are releases at the barrier's scope. A barrier that is not the context's raises
BAR_BUSY, and so does `bar.init` of one that another context owns, that is not bound or that still holds arrivals or bytes; `bar.init`
of members that there cannot be raises ILLEGAL_OP; an arrival out of order BAR_ORDER; a posting beyond the top BAR_OVERFLOW. -/
def Obligations.BarrierInstructions : Prop :=
  let member (s : State) (id : BitVec 9) : Bool := (barHere s id).members.getLsbD (barIndex s)
  let waits (s : State) (id : BitVec 9) : Bool := (barHere s id).waiting.getLsbD (barIndex s)
  let passed (s : State) (id : BitVec 9) : Bool := (barHere s id).passed.getLsbD (barIndex s)
  (∀ a id s s1, Ready (.barInit a id) s s1 → let s2 := (s1.rd a).2; let b := barHere s2 id
    let own : Nat := if isTile s2.cur.core then 0xFF * 2 ^ (8 * inQuad s2.cur.core) else 0xFF
    (b.owner = none ∨ b.owner = some s2.thr.ctx) → b.arrivals = 0#32 → b.pending = 0 → b.credit = 0 →
    (src1 s1 a).extractLsb' 32 32 = 0#32 →
    (448 ≤ id.toNat → b.bound ≠ none ∧ (src1 s1 a).setWidth 32 &&& ~~~(BitVec.ofNat 32 own) = 0#32) →
    Completes (.barInit a id) s (putBar s2 id { b with
      members := (src1 s1 a).setWidth 32, arrivals := 0, pending := 0, credit := 0, waiting := 0, passed := 0, droppers := 0
      joins := 0, owner := some s2.thr.ctx })) ∧
  (∀ a id s s1, Ready (.barInit a id) s s1 → let s2 := (s1.rd a).2; let b := barHere s2 id
    let own : Nat := if isTile s2.cur.core then 0xFF * 2 ^ (8 * inQuad s2.cur.core) else 0xFF
    let busy := (∃ o, b.owner = some o ∧ o ≠ s2.thr.ctx) ∨ b.arrivals ≠ 0#32 ∨ b.pending ≠ 0 ∨ b.credit ≠ 0 ∨ 448 ≤ id.toNat ∧ b.bound = none
    (busy → FaultsWith (.barInit a id) s { cause := .barBusy }) ∧
    (¬busy → ((src1 s1 a).extractLsb' 32 32 ≠ 0#32 ∨ 448 ≤ id.toNat ∧ (src1 s1 a).setWidth 32 &&& ~~~(BitVec.ofNat 32 own) ≠ 0#32) →
      FaultsWith (.barInit a id) s { cause := .illegalOp })) ∧
  (∀ id, ActsIf (.barJoin id) (fun s => barMine s id)
    (fun s => putBar s id { barHere s id with joins := (barHere s id).joins ||| (1#32 <<< barIndex s) })) ∧
  (∀ id, let sc (s : State) : FScope := if id.toNat < 448 then .quad else match (barHere s id).bound with
      | some 2 => .pod
      | some 3 => .die
      | _ => .pkg
    let may (s : State) : Prop := barMine s id ∧ member s id = true ∧ Released s (sc s)
    let arr (s : State) : Barrier := let b := barHere s id; let m := 1#32 <<< barIndex s
      { b with arrivals := b.arrivals ||| m, waiting := b.waiting ||| m, passed := b.passed &&& ~~~m }
    ActsIf (.barArr id) (fun s => may s ∧ waits s id = false) (fun s => putBar (noted s) id (arr s)) ∧
    ActsIf (.barDrop id) (fun s => may s ∧ waits s id = false)
      (fun s => putBar (noted s) id { arr s with droppers := (arr s).droppers ||| (1#32 <<< barIndex s) }) ∧
    ActsIf (.barLeave id) may (fun s => let b := barHere s id; let m := ~~~(1#32 <<< barIndex s)
      putBar (noted s) id { b with members := b.members &&& m, arrivals := b.arrivals &&& m, waiting := b.waiting &&& m
                                   passed := b.passed &&& m, droppers := b.droppers &&& m })) ∧
  (∀ a id s s1, Ready (.barExp a id) s s1 → let s2 := (s1.rd a).2; let b := barHere s2 id; let u := min (src1 s1 a).toNat b.credit
    (¬barMine s2 id → FaultsWith (.barExp a id) s { cause := .barBusy }) ∧
    (barMine s2 id → b.pending + ((src1 s1 a).toNat - u) < 2 ^ 48 →
      Completes (.barExp a id) s (putBar s2 id { b with credit := b.credit - u, pending := b.pending + ((src1 s1 a).toNat - u) })) ∧
    (barMine s2 id → 2 ^ 48 ≤ b.pending + ((src1 s1 a).toNat - u) → FaultsWith (.barExp a id) s { cause := .barOverflow })) ∧
  (∀ id, let idle (s : State) : State :=
      putBar s id { barHere s id with passed := (barHere s id).passed &&& ~~~(1#32 <<< barIndex s) }
    ActsIf (.barWait id) (fun s => barMine s id ∧ (waits s id = true ∨ passed s id = false ∧ member s id = false))
      (fun s => s.park (.barrier id.toNat (barHere s id).phase (waits s id))) ∧
    ActsIf (.barWait id) (fun s => barMine s id ∧ waits s id = false ∧ passed s id = true) idle ∧
    ∀ p, ActsIf (.barTry p id) (fun s => barMine s id ∧ waits s id = false ∧ passed s id = true) (fun s => (idle s).wp p true) ∧
      ActsIf (.barTry p id) (fun s => barMine s id ∧ (waits s id = true ∨ passed s id = false)) (fun s => s.wp p false)) ∧
  (∀ d id, ActsIf (.barBits d id) (fun s => barMine s id) (fun s => s.wr d ((barHere s id).arrivals ++ (barHere s id).members))) ∧
  ∀ id d p, (∀ i ∈ [Instr.barJoin id, .barArr id, .barDrop id, .barLeave id, .barWait id, .barTry p id, .barBits d id],
      ∀ s s1, Ready i s s1 → ¬barMine s1 id → FaultsWith i s { cause := .barBusy }) ∧
    (∀ i ∈ [Instr.barArr id, .barDrop id], ∀ s s1, Ready i s s1 → barMine s1 id → (member s1 id = false ∨ waits s1 id = true) →
      FaultsWith i s { cause := .barOrder }) ∧
    (∀ s s1, Ready (.barLeave id) s s1 → barMine s1 id → member s1 id = false → FaultsWith (.barLeave id) s { cause := .barOrder }) ∧
    ∀ s s1, Ready (.barWait id) s s1 → barMine s1 id → waits s1 id = false → passed s1 id = false → member s1 id = true →
      FaultsWith (.barWait id) s { cause := .barOrder }

/-- From R328, R330, R331: at the end of a cycle the bytes delivered in it apply, after its postings; a phase completes exactly when every
member has arrived, there is one, and no byte is owed; a join of that cycle is a member of the next phase only; and a barrier that
nothing keeps belongs to no context. Bytes posted and delivered balance, in either order. -/
def Claims.BarrierPhases : Prop :=
  (∀ (b : Barrier) parked sends named, let t := b.endCycle parked true sends named; let d := b.deliver b.got
    let full := b.members ≠ 0#32 ∧ b.arrivals = b.members ∧ d.pending = 0
    (full → t.members = ((b.members &&& ~~~b.droppers) ||| b.joins) ∧ t.arrivals = 0#32 ∧ t.waiting = 0#32 ∧
      t.passed = (b.passed ||| (b.waiting &&& ~~~parked)) ∧ t.phase = b.phase + 1 ∧ t.credit = d.credit) ∧
    (¬full → t.members = (b.members ||| b.joins) ∧ t.arrivals = b.arrivals ∧ t.waiting = b.waiting ∧ t.passed = b.passed ∧
      t.phase = b.phase ∧ t.pending = d.pending ∧ t.credit = d.credit) ∧ t.joins = 0#32 ∧ t.got = 0 ∧
    t.owner = if t.members = 0#32 ∧ t.arrivals = 0#32 ∧ t.pending = 0 ∧ t.credit = 0 ∧ named = false then none else b.owner) ∧
  (∀ (s : State) q id, FMap.get {} (s.endBarriers.quad q).bars id =
    (FMap.get {} (s.quad q).bars id : Barrier).endCycle (s.barWaiters (quadCores q) id) true false (s.barNamed (quadCores q) id)) ∧
  (∀ (b b' : Barrier) e, b.post e = some b' → (b'.pending : Int) - b'.credit = b.pending - b.credit + e ∧ b'.pending < 2 ^ 48) ∧
  ∀ (b : Barrier) n, b.credit + n < 2 ^ 48 → ((b.deliver n).pending : Int) - (b.deliver n).credit = b.pending - b.credit - n

/-- From R332, R333, R334, R472: a member of a wide barrier whose own members have all arrived sends its arrival; its network completes a
phase when every member core of its list has sent, and then owes each of them the completion, which ends the phase there; at pod scope only
when the other cubes' members have arrived too; neither crosses a link out of service. A quad that has stayed ready for 256 cycles saves
what it holds and gates, and one that is disturbed waits anew; a wake ends when its cycles have passed. -/
def Claims.NetworksAndGates : Prop :=
  let wide (s : State) : Barrier := FMap.get {} (s.core (s.arg 0)).wide (s.arg 1)
  let sent (s : State) (n : Nat) : Prop := s.netOf (s.arg 0) (s.arg 1) = some n ∧ (wide s).sent = true ∧
    s.arg 0 ∈ (s.wideNet n).members ∧ s.arg 0 ∉ (s.wideNet n).arrived ∧ s.arg 0 ∉ (s.wideNet n).owing ∧
    s.pathUp 0 (s.arg 0) (wideHub (s.arg 0) (wide s).bound) = true
  let back (s : State) : Bool := s.pathUp 0 (wideHub (s.arg 0) (wide s).bound) (s.arg 0)
  let all_ (s : State) (n : Nat) : Prop := ∀ m ∈ (s.wideNet n).members, m ∈ (s.wideNet n).arrived ∨ m = s.arg 0
  let put (s : State) (n : Nat) (w : WideNet) : State := { s with wideNets := s.wideNets.set n w }
  let done (s : State) : State := s.modCore (s.arg 0) fun k => { k with
    wide := k.wide.set (s.arg 1) ((wide s).complete (s.barWaiters [s.arg 0] (s.arg 1))) }
  (∀ (b : Barrier) parked named, (b.endCycle parked false true named).sent =
    (b.sent || (b.arrivals == b.members && (b.deliver b.got).pending == 0)) ∧ (b.endCycle parked false true named).phase = b.phase) ∧
  (∀ n, HappensIf .wideBarrierArrival (fun s => sent s n ∧ ((wide s).bound = some 2 ∨ ¬all_ s n))
      (fun s => put s n { s.wideNet n with arrived := (s.wideNet n).arrived ++ [s.arg 0] }) ∧
    HappensIf .wideBarrierArrival (fun s => sent s n ∧ (wide s).bound ≠ some 2 ∧ all_ s n)
      (fun s => put s n { s.wideNet n with
        arrived := ((s.wideNet n).arrived ++ [s.arg 0]).filter fun c => !(s.wideNet n).members.contains c
        owing := (s.wideNet n).members }) ∧
    HappensIf .wideBarrierCompletion (fun s => s.netOf (s.arg 0) (s.arg 1) = some n ∧
        (∃ m ∈ (s.wideNet n).members, m ∉ (s.wideNet n).arrived) ∧ s.arg 0 ∈ (s.wideNet n).owing ∧ back s = true)
      (fun s => put (done s) n { s.wideNet n with owing := (s.wideNet n).owing.filter fun x => x != s.arg 0 }) ∧
    HappensIf .wideBarrierCompletion (fun s => s.netOf (s.arg 0) (s.arg 1) = some n ∧
        (∃ m ∈ (s.wideNet n).members, m ∉ (s.wideNet n).arrived) ∧ s.arg 0 ∉ (s.wideNet n).owing) (fun s => s) ∧
    HappensIf .wideBarrierCompletion (fun s => s.netOf (s.arg 0) (s.arg 1) = some n ∧ (wide s).bound = some 2 ∧ s.arg 2 = 1 ∧
        back s = true ∧ s.arg 0 ∈ (s.wideNet n).members ∧ ∀ m ∈ (s.wideNet n).members, m ∈ (s.wideNet n).arrived)
      (fun s => put (done s) n { s.wideNet n with
        arrived := (s.wideNet n).arrived.filter fun c => !(s.wideNet n).members.contains c
        owing := (s.wideNet n).members.filter fun x => x != s.arg 0 })) ∧
  HappensIf .wideBarrierArrival (fun s => s.pathUp 0 (s.arg 0) (wideHub (s.arg 0) (wide s).bound) = false) (fun s => s) ∧
  HappensIf .wideBarrierCompletion (fun s => back s = false) (fun s => s) ∧
  (let gate (s : State) (g : Gate) : State := s.modQuad (s.arg 0) fun k => { k with gate := g }
  HappensIf .quadGated (fun s => (s.quad (s.arg 0)).gate = .pending ∧ s.gateReady (s.arg 0) = true)
    (fun s => gate s (.closing (s.cycle + 256))) ∧
  (∀ n, HappensIf .quadGated (fun s => (s.quad (s.arg 0)).gate = .closing n ∧ s.gateReady (s.arg 0) = false) (fun s => gate s .pending) ∧
    (∀ s u, (s.quad (s.arg 0)).gate = .closing n → s.gateReady (s.arg 0) = true → n ≤ s.cycle → s.saveQuad (s.arg 0) = some u →
      Happens .quadGated s (gate u .gated)) ∧
    HappensIf .quadGated (fun s => (s.quad (s.arg 0)).gate = .closing n ∧ s.gateReady (s.arg 0) = true ∧ n ≤ s.cycle ∧
        (∀ p ∈ s.skims, p.2.onCore = []) ∧ ∀ i < 4, let k := s.core (quadTile (s.arg 0) i)
          k.tabOwner = none ∧ ∀ n < 4, k.accSlot n = none)
      (fun s => gate s .gated)) ∧
  ∀ n, HappensIf .quadWakeComplete (fun s => (s.quad (s.arg 0)).gate = .waking n ∧ n ≤ s.cycle)
    (fun s => gate ((List.range 4).foldl (fun s i => s.loadGated (quadTile (s.arg 0) i)) s) .none))

/-- Barrier phases, wide barriers and gating. Joins at the end of a cycle are log entry 13. -/
def Obligations.BarrierPhases : Prop :=
  Claims.BarrierPhases ∧ Claims.NetworksAndGates

/-- From R336, R341: the summaries: `add n` adds one to a counter and `leave` clears the last, and both leave every other counter;
`enter` keeps the word; a counter at its top and a result of all ones give no time. -/
def Claims.Summaries : Prop :=
  let c (t : Word) (n : Nat) : Nat := (t.extractLsb' (48 - 16 * n) 16).toNat
  ∀ (t : Word) d n, n < 4 → 1 ≤ d → d ≤ 4 →
    (∀ u, summary d 0 n t = some u → c u n = c t n + 1 ∧ u ≠ BitVec.allOnes 64 ∧ ∀ m < 4, m ≠ n → c u m = c t m) ∧
    (summary d 0 n t = none → c t n = 0xFFFF ∨ t + BitVec.ofNat 64 (2 ^ (48 - 16 * n)) = BitVec.allOnes 64) ∧
    (t ≠ BitVec.allOnes 64 → summary d 1 n t = some t) ∧
    ∃ u, summary d 2 n t = some u ∧ c u (d - 1) = 0 ∧ ∀ m < 4, m ≠ d - 1 → c u m = c t m

/-- From R347, R348: `lt.get` completes with a counter of LTIME; the moves complete along the one edge of their kind, or a step forward;
with no such edge, or more than one, they raise TIME_EDGE, and where the summary overflows TIME_OVERFLOW. -/
def Claims.LogicalTimeMoves : Prop :=
  (∀ c : BitVec 2, Reads (fun d => .ltGet d c) (fun s => (s.src.ctl.ltime.extractLsb' (48 - 16 * c.toNat) 16).setWidth 64)) ∧
  (∀ p ∈ [(Instr.ltEnter, 1), (Instr.ltLeave, 2)], ∀ s s1, Ready p.1 s s1 → let st := stageOf s1.thr.ctl
    let edges := s1.myLaunch.edges.filter fun e => e.1 == st && e.2.2.1 == p.2
    (∀ e tm, edges = [e] → summary (s1.myLaunch.depth st) p.2 0 s1.thr.ctl.ltime = some tm → movable s1 e.2.1 tm →
      Completes p.1 s (movedTo s1 e.2.1 tm)) ∧
    (∀ e, edges = [e] → summary (s1.myLaunch.depth st) p.2 0 s1.thr.ctl.ltime = none → FaultsWith p.1 s { cause := .timeOverflow }) ∧
    (edges.length ≠ 1 → FaultsWith p.1 s { cause := .timeEdge })) ∧
  ∀ s s1, Ready .ltStep s s1 → let st := stageOf s1.thr.ctl
    let next := summary (s1.myLaunch.depth st) 0 (s1.myLaunch.depth st - 1) s1.thr.ctl.ltime
    (∀ tm, next = some tm → movable s1 st tm → Completes .ltStep s (movedTo s1 st tm)) ∧
    (next = none → FaultsWith .ltStep s { cause := .timeOverflow })

/-- Logical time: summaries and moves. -/
def Obligations.LogicalTime : Prop :=
  Claims.Summaries ∧ Claims.LogicalTimeMoves

/-- From R350, R351, R408: the four spawns, of a descriptor that passes the checks, complete: the child is counted at its pointstamp and
created, to start once the spawner's accesses have been performed, and those that others released to it (the model's reading of R284,
log entry 123), and its handle is owed to a window. A descriptor with a reserved bit
set or of a stage that the launch has not raises BAD_TASK; one out of alignment MISALIGNED. -/
def Claims.SpawnsCreate : Prop :=
  ∀ op ∈ [(Instr.spawn, false, false), (Instr.spawnLight, false, true), (Instr.ordSpawn, true, false), (Instr.ordSpawnLight, true, true)],
  ∀ d a l s s1, let i := op.1 d a l; let ord := op.2.1
    Ready i s s1 → let ea := (src1 s1 a).toNat
    (ea % 64 ≠ 0 → FaultsWith i s { cause := .misaligned, addr := word ea }) ∧
    ∀ bs s3, OperandRead (s1.rd a).2 ea 2 bs s3 → let f (at_ n : Nat) : Nat := leNat ((bs.drop at_).take n); let st := f 64 1
      let wellMade := f 65 1 < 2 ∧ f 67 1 = 0 ∧ f 70 2 = 0 ∧ f 80 48 = 0 ∧ st < s3.myLaunch.stages.length
      (¬wellMade → FaultsWith i s { cause := .badTask }) ∧
      ∀ pl s4 tm, wellMade → Placed s3 (f 66 1) (f 68 2) (f 72 8) pl s4 → let own := stageOf s4.thr.ctl; let now := s4.thr.ctl.ltime
        (f 65 1 = 0 ∧ st = own ∧ tm = now ∨
          f 65 1 = 0 ∧ st ≠ own ∧ (∃ e, (s4.myLaunch.edges.filter fun e => e.1 == own && e.2.1 == st) = [e] ∧
            summary (s4.myLaunch.depth own) e.2.2.1 e.2.2.2 now = some tm) ∨
          f 65 1 = 1 ∧ tm = word (f 56 8) ∧ timeAllowed s4 st tm) →
        let after_ := ord = true ∧ ordered s4.thr.ctl = true ∧ st = own ∧ tm = now
        (after_ → FaultsWith i s { cause := .timeOrder }) ∧
        (¬after_ → s4.ctxValid s4.thr.ctx = true → s4.thr.speculative = false →
          s4.dispatchFull (s4.layerOf { launch := s4.thr.launch, place := pl, origin := some s4.cur.core }) = false → roomAt s4 st tm →
          let r := (counted s4 st tm 1).longDest d; let p := r.2.openWindow l.toNat r.1 1 [r.2.longWrite d 0]
          Completes i s { p.2 with spawned := p.2.spawned ++ [{
            ctx := s4.thr.ctx, launch := s4.thr.launch, entry := word (f 0 8)
            args := (List.range 6).map fun n => word (f (8 + 8 * n) 8), stage := st, time := tm, ordered := ord, light := op.2.2
            place := pl, reply := some (s4.cur.core, s4.cur.slot, p.1), origin := some s4.cur.core
            after := ((p.2.thr.pend.filter fun q => !q.pod).map fun q => q.msg) ++ (p.2.owedBy p.2.cur.core).map Prod.snd }] })

/-- From R403, R404, R296: `launch` of a packet that keeps R400 and finds room completes: the packet is queued, in the device queue or in
its context's overflow region, and the predicate will be false; where neither has room, it will be true and nothing is queued. A kind-1
packet counts nothing; a task packet is counted at its stage and time. A packet that breaks R400 raises BAD_TASK. -/
def Claims.LaunchEnqueues : Prop :=
  (∀ d a l s s1 bs s2, let i := Instr.launch d a l
    Ready i s s1 → let ea := (src1 s1 a).toNat; let u := (s1.rd a).2
    Released u .pkg → OperandRead (noted u) ea 1 bs s2 → let kind := field bs 0 1
    (kind ≠ 1 → kind ≠ 2 → FaultsWith i s { cause := .badTask }) ∧ (packetBad bs = true → FaultsWith i s { cause := .badTask }) ∧
    (s2.thr.speculative = false → packetBad bs = false → ∀ pl s3, let l0 := s3.myLaunch; let st := field bs 7 1; let tm := word (field bs 24 8)
      (kind = 1 ∧ pl = {} ∧ s3 = s2 ∨ kind = 2 ∧ st < s2.myLaunch.stages.length ∧ s2.ctxValid s2.thr.ctx = true ∧
        Placed s2 (field bs 6 1) (field bs 16 8) (field bs 16 8) pl s3 ∧ timeAllowed s3 st tm) → s3.thr.speculative = false →
      let p : Packet := {
        bytes := bs, device := true, queue := l0.queue, ctx := s3.thr.ctx, prio := l0.prio, parent := s3.thr.launch
        origin := s3.cur.core, since := s3.scr4, owner := pl.owner }
      let answers (s : State) (busy : Bool) : State := (s.openWindow l.toNat [.p d.toNat] 0 [.p d.toNat busy]).2
      let lists (t : State) : Prop := (kind = 1 → Completes i s (answers t false)) ∧
        (kind = 2 → roomAt t st tm → Completes i s (answers (counted t st tm 1) false))
      let near := s3.devQ.length < 4096 ∧ ∀ q ∈ s3.ovf, q.prio ≠ l0.prio
      let far := (s3.ovf.filter fun q => q.ctx == s3.thr.ctx).length < (s3.cwGet (ctxOff s3.thr.ctx + 48)).toNat % 2 ^ 32
      (near → lists { s3 with devQ := s3.devQ ++ [p] }) ∧ (¬near → far → lists (s3.overflow p)) ∧
      (¬near → ¬far → Completes i s (answers s3 true)))) ∧
  ∀ (s : State) (p : Packet), s.gran = [] → s.ovf.length < 2 ^ 34 → let t := s.overflow p; ∃ n, t.ovf = s.ovf ++ [{ p with spill := n }] ∧
    (∀ q ∈ s.ovf, q.ctx = p.ctx → q.spill ≠ n) ∧ (∃ m, n = ((s.cwGet (ctxOff p.ctx + 40)).toNat + 64 * m) % 2 ^ 40) ∧
    ∀ x, t.byte x = if (s.hbmLoc n).key ≤ x ∧ x < (s.hbmLoc n).key + 64
      then BitVec.ofNat 8 (leNat p.bytes / 256 ^ (x - (s.hbmLoc n).key)) else s.byte x

/-- Spawns create and launches enqueue. The descriptor is read at issue, log entry 9; the checks of a packet are split as log entry 63
says; that an overflow region stands at a physical address of HBM and a packet takes its first free entry is the model's choice, log
entry 38. -/
def Obligations.SpawnsAndLaunches : Prop :=
  Claims.SpawnsCreate ∧ Claims.LaunchEnqueues

/-- From R352, R353: holds: a resident thread's are kept with it and counted; a light thread asks its home core and stalls, the home core
decides and keeps its record, and the count is made where the thread stands. A ninth hold raises HOLD_FULL; freeing what is not held
TIME_ORDER. -/
def Claims.Holds : Prop :=
  let asks (s : State) (st : Nat) (tm : Word) (free : Bool) : State :=
    (s.setThr { s.thr with homeAns := some none, st := .stalled }).send
      (.home s.cur.core s.cur.slot s.thr.ctl.taskh (s.thr.ctl.taskh.extractLsb' 52 12).toNat s.thr.ctx st tm free
        (s.orderOf s.cur.core s.thr.launch 3))
  let told (s : State) : State := s.setThr { s.thr with homeAns := none }
  (∀ a (stg : BitVec 6) s s1, let i := Instr.tcapHold a stg; let st := stg.toNat
    Ready i s s1 → let tm := src1 s1 a; let s2 := (s1.rd a).2
    st < s1.myLaunch.stages.length → timeAllowed s2 st tm → s2.thr.speculative = false →
    (s2.thr.light = false → s2.thr.holds.length < 8 → roomAt s2 st tm → let s3 := counted s2 st tm 1
      Completes i s (s3.setThr { s3.thr with holds := s3.thr.holds ++ [(st, tm)] })) ∧
    (s2.thr.light = false → 8 ≤ s2.thr.holds.length → FaultsWith i s { cause := .holdFull }) ∧
    (s2.thr.light = true → s2.thr.homeAns = none → Again i s (asks s2 st tm false)) ∧
    (s2.thr.light = true → s2.thr.homeAns = some (some 0) → roomAt (told s2) st tm → Completes i s (counted (told s2) st tm 1)) ∧
    (s2.thr.light = true → s2.thr.homeAns = some (some 1) → s.cur.place = .single →
      exec i s = .next ((told s2).takeFault { cause := .holdFull }))) ∧
  (∀ a (stg : BitVec 6) s s1, let i := Instr.tcapFree a stg; let st := stg.toNat
    Ready i s s1 → let tm := src1 s1 a; let s2 := (s1.rd a).2
    st < s1.myLaunch.stages.length → s2.thr.speculative = false →
    (s2.thr.light = false → (st, tm) ∈ s2.thr.holds → roomAt s2 st tm → let s3 := counted s2 st tm (-1)
      Completes i s (s3.setThr { s3.thr with holds := s3.thr.holds.erase (st, tm) })) ∧
    (s2.thr.light = false → (st, tm) ∉ s2.thr.holds → FaultsWith i s { cause := .timeOrder }) ∧
    (s2.thr.light = true → s2.thr.homeAns = none → Again i s (asks s2 st tm true)) ∧
    (s2.thr.light = true → s2.thr.homeAns = some (some 0) → roomAt (told s2) st tm → Completes i s (counted (told s2) st tm (-1))) ∧
    (s2.thr.light = true → s2.thr.homeAns = some (some 2) → s.cur.place = .single →
      exec i s = .next ((told s2).takeFault { cause := .timeOrder }))) ∧
  (∀ s core slot h home ctx st tm free order, let m := Msg.home core slot h home ctx st tm free order
    s.msg (s.arg 0) = some m → s.mayArrive (s.arg 0) m = true →
    let rs := (s.core home).homes; let mine := rs.find? fun r => r.taskh == h
    let old := match mine with
      | some r => r.holds
      | none => []
    let others := rs.filter fun r => r.taskh != h
    let keeps (hs : List (Nat × Word)) : List HomeRec := others ++ [⟨h, ctx, hs, s.homeOut home ctx⟩]
    let answers (rs : List HomeRec) (code : Nat) : Prop := ∃ t : State,
      Happens .homeRecordRequest s (t.send (.homeAns core slot h home code order)) ∧ (t.core home).homes = rs ∧ t.mem = s.mem
    let full := 8 ≤ old.length ∨ mine = none ∧ s.homeOut home ctx = false ∧ 64 ≤ (rs.filter fun r => !r.out).length
    (free = false → ¬full → answers (keeps (old ++ [(st, tm)])) 0) ∧
    (free = false → full → answers rs 1) ∧
    (free = true → (st, tm) ∈ old → answers (keeps (old.erase (st, tm))) 0) ∧
    (free = true → (st, tm) ∉ old → answers rs 2)) ∧
  ∀ s core slot h home code order, let m := Msg.homeAns core slot h home code order; let u := s.thrAt core slot
    s.msg (s.arg 0) = some m → s.mayArrive (s.arg 0) m = true → ∃ t : State, Happens .homeRecordAnswer s t ∧ t.msg (s.arg 0) = none ∧
    (core < 2560 → u.st ≠ .empty → u.ctl.taskh = h → t.thrAt core slot = { u with homeAns := some (some code) }) ∧
    (u.st = .empty ∨ u.ctl.taskh ≠ h → t.thrAt core slot = u)

/-- From R354, R355: `plumb.get` completes with the core's view of a stage; `plumb.wait` goes on at once where the view is greater than
the time, else parks, asking its quad's table to flush; it raises PLUMB_SELF where the thread itself holds the time back. -/
def Claims.FrontierWaits : Prop :=
  (∀ (stg : BitVec 6) d, ActsIf (.plumbGet d stg) (fun s => stg.toNat < s.myLaunch.stages.length)
    (fun s => s.wr d (s.view s.cur.core s.thr.launch stg.toNat))) ∧
  ∀ a (stg : BitVec 6) s s1, let i := Instr.plumbWait a stg; let st := stg.toNat
    Ready i s s1 → let tm := src1 s1 a; let s2 := (s1.rd a).2; st < s1.myLaunch.stages.length →
    let self := ∃ p ∈ (stageOf s2.thr.ctl, s2.thr.ctl.ltime) :: s2.holdsOf s2.thr, ∃ r, s1.myLaunch.reach p.1 p.2 st = some r ∧ r ≤ tm
    (self → FaultsWith i s { cause := .plumbSelf }) ∧
    (¬self → tm < s2.view s2.cur.core s2.thr.launch st → Completes i s s2) ∧
    (¬self → ¬tm < s2.view s2.cur.core s2.thr.launch st → isTile s2.cur.core = false → Completes i s (s2.park (.frontier st tm))) ∧
    (¬self → ¬tm < s2.view s2.cur.core s2.thr.launch st → isTile s2.cur.core = true →
      Completes i s ((s2.park (.frontier st tm)).modQuad (quadOf s2.cur.core) fun q => { q with flush := true }))

/-- Holds and frontier waits. -/
def Obligations.HoldsAndFrontiers : Prop :=
  Claims.Holds ∧ Claims.FrontierWaits

/-- From R344, R346, R472: flushes carry a table's whole content, positive deltas first, and a batch is added entry by entry, in order after the
others of its source, where no link of its way is out and only where its table can hold it: no count is ever lost on the way. A view never falls, takes only a frontier
of the package's table, starts as the launch's entry task gives it, and is exact once no count has changed for 2,048 cycles. -/
def Claims.CountsTravel : Prop :=
  let small (cap : Nat) (ds : List Delta) : Prop := ds.length ≤ cap ∧ ∀ d ∈ ds, d.d.natAbs < 2 ^ 31
  let first (s : State) (src : Nat) : Prop := ∀ m ∈ s.net.takeWhile fun m => m.1 != s.arg 0, ∀ dst es, m.2 ≠ .batch src dst es
  HappensIf .quadTableFlush (fun s => (s.quad (s.arg 0)).times ≠ [])
    (fun s => (s.modQuad (s.arg 0) fun k => { k with times := [], flush := false }).send
      (.batch (16 + s.arg 0) (s.arg 0 / 64) (batchOrder (s.quad (s.arg 0)).times))) ∧
  HappensIf .dieTableFlush (fun s => FMap.get [] s.dieTimes (s.arg 0) ≠ [] ∧ s.arg 0 ≤ 8)
    (fun s => { s with dieTimes := FMap.set s.dieTimes (s.arg 0) [] }.send
      (.batch (s.arg 0) 9 (batchOrder (FMap.get [] s.dieTimes (s.arg 0))))) ∧
  (∀ s src dst ds, s.msg (s.arg 0) = some (.batch src dst ds) → let up := s.mayArrive (s.arg 0) (.batch src dst ds)
    (up = true → first s src → dst = 9 → small 32768 (addDeltas ds s.pkgTimes) →
      Happens .pointstampBatchArrival s { s.unsend (s.arg 0) with pkgTimes := addDeltas ds s.pkgTimes }) ∧
    (∀ table, table = addDeltas ds (FMap.get [] s.dieTimes dst) → up = true → first s src → dst ≠ 9 → small 2048 table →
      Happens .pointstampBatchArrival s { s.unsend (s.arg 0) with dieTimes := FMap.set s.dieTimes dst table }) ∧
    (up = false ∨ ¬first s src ∨ dst = 9 ∧ ¬small 32768 (addDeltas ds s.pkgTimes) ∨
        dst ≠ 9 ∧ ¬small 2048 (addDeltas ds (FMap.get [] s.dieTimes dst)) →
      Happens .pointstampBatchArrival s s)) ∧
  (∀ ds table n st tm, sumAt n st tm (addDeltas ds table) = sumAt n st tm ds + sumAt n st tm table ∧
    sumAt n st tm (batchOrder ds) = sumAt n st tm ds ∧
    ∀ a b : Nat, ∀ x y, (batchOrder ds)[a]? = some x → (batchOrder ds)[b]? = some y → x.d ≤ 0 → 0 < y.d → b < a) ∧
  (∀ s, ∃ t : State, Happens .frontierViewUpdate s t ∧ (∀ st, s.view (s.arg 0) (s.arg 1) st ≤ t.view (s.arg 0) (s.arg 1) st) ∧
    ∀ st, st < (s.launch (s.arg 1)).stages.length → t.view (s.arg 0) (s.arg 1) st ≠ s.view (s.arg 0) (s.arg 1) st →
      t.view (s.arg 0) (s.arg 1) st = s.frontier (s.arg 1) st) ∧
  (∀ (s : State) c n st, FMap.find (64 * n + st) (s.core c).views = none → let l := s.launch n
    s.view c n st = (l.reach l.first.1 l.first.2 st).getD (BitVec.allOnes 64)) ∧
  ∀ (s : State) c k n l st, s.countAt + 2048 ≤ s.cycle → FMap.find c s.cores = some k → s.pathUp 0 2560 c = true →
    (∀ p ∈ s.launches, s.launch p.1 = p.2 ∧ p.2.stages.length ≤ 64) → (n, l) ∈ s.launches → l.active = true → st < l.stages.length →
    s.settleViews.view c n st = l.frontier (s.stamps n) st

/-- From R161, R290, R295, R356, R472: an ordered task that has ended commits when it is next to commit, no atomic stands between its halves
where it writes, the owners of its lines are in reach and what it did, and what others released to it (the model's reading of R284, log
entry 123), has been performed: its bytes are written at one point, its count is taken back and its slot is empty. -/
def Claims.OrderedCommit : Prop :=
  (∀ s, let c := s.arg 0; let i := s.arg 1; let u := s.thrAt c i; let v := s.commitTask c i
    u.st ≠ .empty → u.ended = true → u.speculative = true → s.nextToCommit u = true →
    (∀ p ∈ u.pend, p.pod = true) → s.passedOn c .pkg = true → v.passedOn c .pkg = true →
    (∀ e ∈ (s.core c).spec, e.task = u.ctl.taskh.toNat → e.mask ≠ 0#64 → s.reaches c (s.ownerAt (64 * e.line)) = true) →
    (∀ e ∈ (s.core c).spec, e.task = u.ctl.taskh.toNat → ∀ n < 8, e.mask.extractLsb' (8 * n) 8 ≠ 0#8 → s.granQ (8 * e.line + n) = []) →
    u.light = false → u.holds = [] → u.ctl.faultrec = 0#64 → v.countRoom c u.launch (stageOf u.ctl) u.ctl.ltime = true →
    ∃ t : State, Happens .orderedTaskCommit s t ∧ (t.thrAt c i).st = .empty ∧ t.mem = v.mem ∧
      t.quads = (v.count c u.launch (stageOf u.ctl) u.ctl.ltime (-1)).quads ∧
      t.dieTimes = (v.count c u.launch (stageOf u.ctl) u.ctl.ltime (-1)).dieTimes) ∧
  (∀ s, let u := s.thrAt (s.arg 0) (s.arg 1)
    (u.ended = false ∨ u.speculative = false ∨ s.nextToCommit u = false ∨ (∃ p ∈ u.pend, p.pod = false) ∨
      s.passedOn (s.arg 0) .pkg = false) →
    Happens .orderedTaskCommit s s) ∧
  ∀ (s : State) c i, let h := (s.thrAt c i).ctl.taskh.toNat; let t := s.commitTask c i
    (∀ e ∈ (t.core c).spec, e.task ≠ h) ∧ committed (t.thrAt c i).ctl = true ∧
    (∀ x, (∀ e ∈ (s.core c).spec, e.task = h → e.line = x / 64 → e.mask.getLsbD (x % 64) = false) → t.byte x = s.byte x) ∧
    ∀ e x, (s.core c).spec.filter (fun e => e.task == h && e.line == x / 64) = [e] → e.mask.getLsbD (x % 64) = true →
      t.byte x = e.data.extractLsb' (8 * (x % 64)) 8

/-- Counts travel whole and ordered tasks commit. -/
def Obligations.CountsAndCommit : Prop :=
  Claims.CountsTravel ∧ Claims.OrderedCommit

/-- From R361, R362: `ring.put` completes when its injection buffer is free: the tile with its tag stands in the buffer and is counted;
the window waits for its entry. Before that come RING_OFF, RING_TAG, MISALIGNED and BAD_APERTURE, in this order. -/
def Claims.RingPut : Prop :=
  ∀ a b perch r l s s1, let i := Instr.ringPut a b perch r l
    Ready i s s1 → isTile s1.cur.core = true → let ea := s1.rg a; let w := s1.rg b
    let tagOk := w.extractLsb' 36 28 = 0#28 ∧ w.extractLsb' 24 8 ≠ 0#8 ∧ w.extractLsb' 32 4 ≠ 0#4
    (¬belongs s1 r → FaultsWith i s { cause := .ringOff }) ∧
    (belongs s1 r → ¬tagOk → FaultsWith i s { cause := .ringTag }) ∧
    (belongs s1 r → tagOk → ea.toNat % 64 ≠ 0 → FaultsWith i s { cause := .misaligned, addr := ea }) ∧
    (belongs s1 r → tagOk → ea.toNat % 64 = 0 → ¬inSlice s1 ea 512 → FaultsWith i s { cause := .badAperture, addr := ea }) ∧
    ∀ bs s2, belongs s1 r → tagOk → inSlice s1 ea 512 → s1.thr.speculative = false →
      FMap.find (posHere s1 r) ((s1.ring (ringHere s1 r)).buf perch) = none → OperandRead s1 ea.toNat 8 bs s2 →
      let st := stageOf s1.thr.ctl; let tm := s1.thr.ctl.ltime; roomAt s2 st tm →
      let p := (counted s2 st tm 1).openWindow l.toNat [] 1 []
      Completes i s (p.2.modRing (ringHere s1 r) fun g => g.setBuf perch (FMap.set (g.buf perch) (posHere s1 r) ({
        perch := perch, key := (w.extractLsb' 0 24).toNat, stage := st, time := tm
        remaining := (w.extractLsb' 24 8).toNat, laps := 0, lapLimit := (w.extractLsb' 32 4).toNat, home := s1.cur.core
        ctx := s1.thr.ctx, launch := s1.thr.launch, data := bs }, s1.cur.core, s1.cur.slot, p.1)))

/-- From R360, R363, R369, R370, R371, R372: the other ring instructions complete: `ring.match` and `ring.cfg` leave a write for the
next step boundary; `ring.take` stores the entries still held and gives the delivered word; `ring.st` gives the status word, and of a
ring that is not the thread's only whether it is enabled; `ring.drain` goes on or parks. A ring that another launch holds, or that
still holds live tiles and is not halted, raises RING_BUSY when it is configured. -/
def Claims.RingInstructions : Prop :=
  (∀ a (e : BitVec 6) l s s1 bs s2, let i := Instr.ringMatch a e l; let ea := src1 s1 a; let u := (s1.rd a).2
    Ready i s s1 → isTile s1.cur.core = true → ea.toNat % 16 = 0 → inSlice s1 ea 16 → u.thr.speculative = false →
    (PartOpen u ea.toNat 16 ∧ bs = (List.range 16).map (fun j => u.byte ((sliceSpot ea.toNat).loc.key + j)) ∧ s2 = u ∨
      u.operand ea.toNat 16 = .ok (bs, s2)) → let st := field bs 14 1; let rs := field bs 15 1
    st.testBit 6 = false → rs < 8 → (st.testBit 7 = true → rs ≠ 0) → let p := s2.openWindow l.toNat [] 1 []
    Completes i s { p.2 with ringWrites := p.2.ringWrites ++ [(s2.cur.core, s2.cur.slot, p.1, .match_ s2.cur.core e.toNat {
      valid := st.testBit 7, pole := field bs 8 3, perch := field bs 11 3, entry := word (field bs 0 8), stage := st % 64
      rings := rs, ctx := s2.thr.ctx, launch := s2.thr.launch })] }) ∧
  (∀ a r l s s1 bs s2, let i := Instr.ringCfg a r l; let u := (s1.rd a).2
    Ready i s s1 → isTile s1.cur.core = true → u.thr.speculative = false → OperandRead u (src1 s1 a).toNat 1 bs s2 →
    field bs 0 1 < 2 → field bs 1 1 < 64 → field bs 16 48 = 0 → let g := s2.ring (ringHere s2 r)
    let free := (r = .z → ∀ z < 8, s2.joined z = true) ∧ (field bs 0 1 = 1 → g.enabled = true → g.launch = field bs 2 2) ∧
      (field bs 0 1 = 0 → g.holds = false ∨ g.halted = true)
    (¬free → FaultsWith i s { cause := .ringBusy }) ∧
    (free → let p := s2.openWindow l.toNat [] 1 []
      Completes i s { p.2 with ringWrites := p.2.ringWrites ++ [(s2.cur.core, s2.cur.slot, p.1,
        .cfg (ringHere s2 r) (field bs 0 1 == 1) (field bs 1 1) (field bs 2 2) (field bs 4 4) (word (field bs 8 8)))] })) ∧
  (∀ d a perch r l s s1 q, let i := Instr.ringTake d a perch r l; let ea := s1.rg a
    Ready i s s1 → isTile s1.cur.core = true →
    (s1.myPair s1.cur.core = none → FaultsWith i s { cause := .ringEmpty }) ∧
    (s1.myPair s1.cur.core = some q → (q.ring ≠ ringHere s1 r ∨ (if perch then q.perchTaken else q.poleTaken) = true) →
      FaultsWith i s { cause := .ringEmpty }) ∧
    (s1.myPair s1.cur.core = some q → q.ring = ringHere s1 r → (if perch then q.perchTaken else q.poleTaken) = false →
      ea.toNat % 64 = 0 → inSlice s1 ea 512 → s1.thr.speculative = false →
      let tile := if perch then q.perch else q.pole; let left := if perch then q.perchLeft else q.poleLeft
      (∀ j ∈ left, SliceOpen s1 (ea.toNat + 64 * j) 64) →
      let m := s1.longDest d; let p := m.2.openWindow l.toNat m.1 0 [m.2.longWrite d tile.word]
      ∃ t : State, Completes i s (t.setPair s1.cur.core
          (if perch then { q with perchLeft := [], perchTaken := true } else { q with poleLeft := [], poleTaken := true })) ∧
        t.mem = s1.mem ∧ t.deliveries = s1.deliveries ∧
        Sends p.2 t 64 p.1 (left.map fun j => (j, ea.toNat + 64 * j)) sliceSpot (fun j => .store allBytes (tile.entry j)) (fun _ => .none) ∧
        ∃ w ∈ t.thr.windows, w.wid = p.1 ∧ w.left = l.toNat ∧ w.dests = m.1 ∧ w.need = left.length ∧
          w.writes = [m.2.longWrite d tile.word])) ∧
  (∀ d r, ActsIf (.ringSt d r) (fun s => isTile s.cur.core = true ∧ s.thr.speculative = false)
    (fun s => s.wr d ((s.ring (ringHere s r)).status s.thr (posHere s r)))) ∧
  (∀ (g : Ring) t p, let mine := g.enabled = true ∧ g.ctx = t.ctx ∧ g.launch = t.launch; let w := g.status t p
    (¬mine → w = if g.enabled then 0x800#64 else 0#64) ∧
    (mine → g.ctx < 64 → w.extractLsb' 32 32 = BitVec.ofNat 32 (FMap.get 0 g.deferred p) ∧ w.extractLsb' 24 8 = BitVec.ofNat 8 (min 255 g.missed) ∧
      w.extractLsb' 12 6 = BitVec.ofNat 6 g.liveShown ∧ w.extractLsb' 18 6 = 0#6 ∧ w.getLsbD 11 = true ∧
      w.getLsbD 10 = (FMap.find p g.bufPerch).isSome ∧ w.getLsbD 9 = (FMap.find p g.bufPole).isSome ∧
      w.getLsbD 8 = (FMap.find p g.perches).isSome ∧ w.getLsbD 7 = (FMap.find p g.poles).isSome ∧
      w.extractLsb' 0 6 = BitVec.ofNat 6 g.ctx)) ∧
  ∀ r, ActsIf (.ringDrain r) (fun s => isTile s.cur.core = true ∧ s.thr.speculative = false ∧
      ((s.ring (ringHere s r)).enabled = false ∨ belongs s r ∧ (s.ring (ringHere s r)).idle = true)) (fun s => s) ∧
    ActsIf (.ringDrain r) (fun s => isTile s.cur.core = true ∧ belongs s r ∧ s.thr.speculative = false ∧
      (s.ring (ringHere s r)).idle = false) (fun s => s.park (.ringDrain (ringHere s r))) ∧
    ∀ s s1, Ready (.ringDrain r) s s1 → isTile s1.cur.core = true → s1.thr.speculative = false →
      (s1.ring (ringHere s1 r)).enabled = true → ¬belongs s1 r → FaultsWith (.ringDrain r) s { cause := .ringOff }

/-- From R373, R374, R376, R379, R380, R387: `xfer`, when its core's FIFO has room and a record is free, the thread's accesses have been
performed and it is its core's turn at the engine, completes with its request accepted and its record kept; `xfer.try` the same with a false predicate, or, without room, with a
true one and nothing else; the reads complete with the write pointer and the status word of the record, or what stands for none. A
request with a reserved bit set raises XFER_BAD, one of a live XferId XFER_ID. A linear request of bytes that its context can name is
accepted. -/
def Claims.CopyInstructions : Prop :=
  let w (s : State) (a : GSpec) (n : Nat) : Word := s.src.gr (a.toNat + n)
  let turn (s : State) : State := { s with engLast := s.engLast.set (engineOf s.cur.core) s.cur.core }
  let room (s : State) : Prop := 4 ≤ s.srcFree 0x1A ∧ (s.xfers.filter fun x => x.core == s.cur.core && x.live).length < 64
  let may (s : State) : Prop := room s ∧ s.held = false ∧ (∀ p ∈ s.thr.pend, p.pod = true) ∧ s.thr.speculative = false ∧
    (s.queue s.cur.core 0x1A).items.length < 4 ∧ s.nextAsker (engineOf s.cur.core) [s.cur.core] = some s.cur.core
  let req (s : State) (a : GSpec) : Except Stop State :=
    (turn s).request s.asker (w s a 0) (w s a 1) (w s a 2) (w s a 3) fun s ea => s.bulk ea 2
  let told (s : State) (p : PReg) (busy : Bool) : State := (s.openWindow 0 [.p p.toNat] 0 [.p p.toNat busy]).2
  let makes (s : State) (u : Asker) (w0 w1 w2 w3 : Word) (t : State) : Prop := ∃ x, t.xfers = s.xfers ++ [x] ∧ t.mem = s.mem ∧
    x.core = u.core ∧ x.ctx = u.ctx ∧ x.taskh = u.taskh ∧ x.xid = (w0.extractLsb' 0 16).toNat ∧ x.op = (w0.extractLsb' 32 8).toNat ∧
    x.w1 = w1 ∧ x.w2 = w2 ∧ x.wp = 0 ∧ x.intr = false ∧ (w3 = 0#64 → x.status = .done ∧ x.live = false) ∧
    (w3 ≠ 0#64 → x.status = .queued ∧ x.live = true ∧ x.total = if x.op = 3 then 8 * w3.toNat else w3.toNat)
  let linearOk (s : State) (u : Asker) (w0 w1 w2 w3 : Word) : Prop :=
    let op := (w0.extractLsb' 32 8).toNat; let id := (w0.extractLsb' 16 9).toNat; let g := linear w3.toNat
    w0.getLsbD 41 = false ∧ w0.getLsbD 40 = false ∧ w0.extractLsb' 26 6 = 0#6 ∧ w0.extractLsb' 42 22 = 0#22 ∧
    (op = 0 ∨ op = 1 ∨ op = 3 ∧ w2 = 0#64 ∧ w3.toNat ≤ 4096) ∧
    (∀ x, s.xfer u.core u.ctx (w0.extractLsb' 0 16).toNat = some x → x.live = false) ∧
    (op = 0 → ∀ p ∈ g.pieces w1, s.rangeOk p.addr true = true) ∧ (op ≠ 3 → ∀ p ∈ g.pieces w2, s.rangeOk p.addr true = true) ∧
    (op = 3 → ∀ p ∈ (linear (8 * w3.toNat)).pieces w1, s.rangeOk p.addr false = true) ∧
    (op = 0 → overlaps (s.footprint u.ctx g w1) (s.footprint u.ctx g w2) = false) ∧
    (op ≠ 3 → w0.getLsbD 25 = true → (s.bar u.core id).owner = some u.ctx ∧ (448 ≤ id → (s.bar u.core id).bound ≠ none))
  (∀ a p s s1 t, may s1 → req s1 a = .ok t → (Ready (.xfer a) s s1 → Completes (.xfer a) s t.keep) ∧
    (Ready (.xferTry a p) s s1 → Completes (.xferTry a p) s (told t.keep p false))) ∧
  (∀ (s : State) u w0 w1 w2 w3 block, linearOk s u w0 w1 w2 w3 → ∃ t, s.request u w0 w1 w2 w3 block = .ok t ∧ makes s u w0 w1 w2 w3 t) ∧
  (∀ a s s1, Ready (.xfer a) s s1 → may s1 →
    ((w s1 a 0).extractLsb' 48 16 ≠ 0#16 → FaultsWith (.xfer a) s { cause := .xferBad }) ∧
    ∀ x, requestBad (w s1 a 0) (w s1 a 2) (w s1 a 3) s1.thr.light = false →
      s1.xfer s1.cur.core s1.thr.ctx ((w s1 a 0).extractLsb' 0 16).toNat = some x → x.live = true →
      FaultsWith (.xfer a) s { cause := .xferId }) ∧
  (∀ a p s s1, Ready (.xferTry a p) s s1 → s1.thr.speculative = false → ¬room s1 → Completes (.xferTry a p) s (told s1 p true)) ∧
  ∀ d a s s1, let s2 := (s1.rd a).2; let x := s2.xfer s2.cur.core s2.thr.ctx ((src1 s1 a).extractLsb' 0 16).toNat
    s2.thr.speculative = false →
    (Ready (.xferWp d a) s s1 → Completes (.xferWp d a) s (s2.longG d 0 (match x with
      | some x => BitVec.ofNat 64 x.wp
      | none => BitVec.allOnes 64))) ∧
    (Ready (.xferSt d a) s s1 → Completes (.xferSt d a) s (s2.longG d 0 (match x with
      | some x => x.statusWord
      | none => 0#64)))

/-- From R393, R394, R395: `coll.put` contributes from Idle and leaves Put; `coll.get` takes a result that is Ready, with its flags, and
leaves Idle; `coll.agree` does the one when it first issues and the other when the result has come; a TREE of the context, applied
record by record, holds contributions back and waits for groups in Put. -/
def Claims.CollInstructions : Prop :=
  let state (s : State) (grp : BitVec 8) : CollState := s.collAt s.cur.core grp.toNat s.thr.ctx
  let set (s : State) (grp : BitVec 8) (c : CollState) : State := s.setColl s.cur.core grp.toNat s.thr.ctx c
  let put (s : State) (grp : BitVec 8) (e : GroupEntry) (v : Word) : State :=
    (set s grp ⟨1, {}⟩).send (.coll s.cur.core 6 grp.toNat e.version (contribution e.op e.mark v))
  let got (s : State) (grp : BitVec 8) (d : GSpec) : State :=
    ((set s grp {}).wr d (BitVec.ofInt 64 (state s grp).res.lo)).addFlags (state s grp).res.flags
  (∀ a grp l s s1 e, Ready (.collPut a grp l) s s1 → collMay s1 grp e → (state s1 grp).st = 0 → s1.treeLive s1.thr.ctx = false →
    Completes (.collPut a grp l) s ((put (s1.rd a).2 grp e (src1 s1 a)).openWindow l.toNat [] 0 []).2) ∧
  (∀ d grp l s s1 e, Ready (.collGet d grp l) s s1 → collMay s1 grp e → (state s1 grp).st = 2 → (state s1 grp).res.stale = false →
    Completes (.collGet d grp l) s (got s1 grp d)) ∧
  (∀ d a grp l s s1 e, Ready (.collAgree d a grp l) s s1 → collMay s1 grp e → e.op = 6 → s1.thr.latch = none → (state s1 grp).st = 0 →
    s1.treeLive s1.thr.ctx = false → let s2 := put (s1.rd a).2 grp e (src1 s1 a)
    Again (.collAgree d a grp l) s (s2.setThr { s2.thr with st := .stalled, latch := some 1 })) ∧
  (∀ d a grp l s s1, Ready (.collAgree d a grp l) s s1 → s1.thr.latch ≠ none → (state s1 grp).st = 2 →
    (state s1 grp).res.stale = false → Completes (.collAgree d a grp l) s (got s1 grp d)) ∧
  ∀ s x s' y bs node grp e, s.op (s.arg 0) = some x → x.status = .running → x.op = 3 → x.fin = none → x.wp < x.total →
    let ea := (x.w1.toNat + x.wp) % 2 ^ 64
    ea % 8 = 0 → s.engRead x ea 8 true = .bytes s' y bs → bs.length = 8 → s.treeRecord x.ctx (word (leNat bs)) = some (node, grp, e) →
    s.someInPut grp = false → ∃ t : State, Happens .treeRecordApply s t ∧
      t.groupAt node grp = e ∧ t.mem = s.mem

/-- Ring, copy and collective instructions complete. Operands in memory are read at issue, log entry 9; an `xfer` goes ahead past one to
three words left over in register 0x1A, log entry 57; ranges are judged address by address, log entry 58; `coll.put` closes its window at
once, log entry 61: these are the model's choices. -/
def Obligations.EngineInstructions : Prop :=
  Claims.RingPut ∧ Claims.RingInstructions ∧ Claims.CopyInstructions ∧ Claims.CollInstructions

/-- From R359, R365, R366, R368, R370: a step boundary moves a tile by one position, a pole upward and a perch downward, counts its laps
at its home, shows the live tiles, and empties the writes that waited. A match fires only with a free delivery pair: both tiles owe one
less, the entry is spent, and the task is created and counted at the greater time; else the encounter is deferred. The order within a
step is the model's reading, log entry 56. -/
def Obligations.RingSteps : Prop :=
  (∀ s, s.cycle % 32 = 0 → ∃ t : State, Happens .ringStep s t ∧ t.ringWrites = []) ∧
  (∀ (s : State) r g p (c : Carried) perch, s.cycle % 32 = 0 → s.ringWrites = [] → s.rings = [(r, g)] → g.enabled = true → g.halted = false →
    g.lost = [] → g.bufPole = [] → g.bufPerch = [] → g.tiles perch = [(p, c)] → g.tiles (!perch) = [] → c.remaining ≠ 0 → p < ringLen r →
    let q := (p + if perch then ringLen r - 1 else 1) % ringLen r
    (ringTile r q ≠ c.home → ∃ t : State, Happens .ringStep s t ∧ (t.ring r).tiles perch = [(q, { c with still := false })] ∧
      (t.ring r).liveShown = 1) ∧
    (ringTile r q = c.home → c.laps + 1 < c.lapLimit → ∃ t : State, Happens .ringStep s t ∧
      (t.ring r).tiles perch = [(q, { c with still := false, laps := c.laps + 1 })])) ∧
  ∀ (s : State) r c pp qp a b i e, let g := s.ring r; let t := s.encounter r c pp qp
    FMap.find pp g.poles = some a → FMap.find qp g.perches = some b → a.remaining ≠ 0 → b.remaining ≠ 0 →
    s.matchFor r c a b = some (i, e) →
    (8 ≤ (FMap.get [] s.deliveries c).length → t.spawned = s.spawned ∧ t.deliveries = s.deliveries ∧ (t.ring r).poles = g.poles ∧
      FMap.get 0 (t.ring r).deferred (ringPos (kindOf r) c) = FMap.get 0 g.deferred (ringPos (kindOf r) c) + 1) ∧
    ((FMap.get [] s.deliveries c).length < 8 → let tm := if a.time < b.time then b.time else a.time
      FMap.find pp (t.ring r).poles = some { a with remaining := a.remaining - 1 } ∧
      FMap.find qp (t.ring r).perches = some { b with remaining := b.remaining - 1 } ∧
      FMap.find i (t.core c).matches_ = some { e with valid := false } ∧
      (FMap.get [] t.deliveries c).length = (FMap.get [] s.deliveries c).length + 1 ∧
      (isTile c = true → s.countRoom c e.launch e.stage tm = true →
        (t.quad (quadOf c)).times = addDelta ⟨e.launch, e.stage, tm, 1⟩ (s.quad (quadOf c)).times) ∧
      ∃ task, t.spawned = s.spawned ++ [task] ∧ task.entry = e.entry ∧ task.stage = e.stage ∧ task.time = tm ∧
        task.args = [Carried.word { a with remaining := a.remaining - 1 }, Carried.word { b with remaining := b.remaining - 1 }])

/-- From R373, R381, R382, R384, R385, R497: a queued operation takes a channel of its engine and runs when no earlier one conflicts; a
delivery whose way is in service writes its bytes and nothing else; completion releases the locks and marks the record; its interrupt
enters the handler with the id and the status word; an engine takes four words of a queue together, and its cores' requests in round
robin. Ranges and pieces are read as log entry 58 says. -/
def Obligations.CopiesRun : Prop :=
  (∀ s x, s.op (s.arg 0) = some x → x.status = .queued → let mine := s.xfers.filter fun y => y.live && y.eng == x.eng
    (∀ y ∈ mine, y.chan = true ∨ x.seq ≤ y.seq) → (mine.filter fun y => y.chan).length < 16 →
    (∀ y ∈ s.xfers, y.live = true → y.seq < x.seq → x.clash y = false) →
    Happens .copyChannelStart s (s.setOpx { x with chan := true, status := .running })) ∧
  (∀ s x s' y bs, s.op (s.arg 0) = some x → x.status = .running → (x.op = 0 ∨ x.op = 1) → x.fin = none → x.sent < x.total →
    s.source x x.next = .bytes s' y bs → Happens .copyDelivery s (s'.deliverTo y bs)) ∧
  (∀ (s : State) x bs k y, let d := x.dst.at_ x.w2 x.sent; let n := bs.length; n ≤ 64 →
    s.engKey x.ctx d true x.self = .ok (some k) → s.lateLine x k (x.sent + n - 1) true = .ok y → y.reaches s k = true →
    s.poisonHit k n (lowBytes n) true = none → (∀ g ∈ granulesOf k n (lowBytes n), s.granQ g = []) → s.mmaReads y k = false →
    ∀ a, (s.deliverTo x bs).byte a = if k ≤ a ∧ a < k + n then bs.getD (a - k) 0#8 else s.byte a) ∧
  (∀ s x st, s.op (s.arg 0) = some x → x.outcome = some st → ∃ t : State, Happens .copyCompletion s t ∧
    { x with status := st, live := false, chan := false, rlocks := [], wlocks := [] } ∈ t.xfers ∧ (x.intr = false → t.mem = s.mem) ∧
    ∀ z ∈ t.xfers, z.seq = x.seq → z.live = false) ∧
  (∀ s x, s.op (s.arg 0) = some x → x.status = .parked → x.owed = [] → x.frec = 0#64 →
    Happens .copyResume s (s.setOpx { x with status := .running, sent := x.wp, frec := 0, pend := none, asked := false, got := none })) ∧
  (∀ s x n rest, s.op (s.arg 0) = some x → x.owed = (s.arg 1, n) :: rest → s.arg 2 = 0 → s.arg 1 < x.sent → x.bar = none →
    let y := { x with owed := x.owed.filter fun p => p.1 != s.arg 1 }
    Happens .podDeliveryAck s (s.setOpx { y with wp := y.front })) ∧
  (∀ s xid stat handler rest, let t := s.thrAt (s.arg 0) (s.arg 1)
    t.heldXfer = (xid, stat, handler) :: rest → t.ctl.trapcause.getLsbD 16 = false → t.st ≠ .empty → ∃ u, Happens .xferDone s u ∧
    let t' := u.thrAt (s.arg 0) (s.arg 1)
    t'.pc = handler ∧ t'.ctl.trappc = t.pc &&& ~~~1#64 ∧ t'.ctl.trapcause = 0x1003A#64 ∧ t'.ctl.xferid = BitVec.ofNat 64 xid ∧
      t'.ctl.xstat = stat ∧ t'.g = t.g ∧ t'.heldXfer = rest) ∧
  (∀ s c, let e := engineOf (s.arg 0); let q := s.queue c 0x1A
    s.nextAsker e = some c → ((q.items.getD 0 0).setWidth 64 : Word).getLsbD 41 = false → ∃ t : State,
      Happens .copyQueueRequest s t ∧ (t.queue c 0x1A).items = q.items.drop 4 ∧ t.mem = s.mem ∧ FMap.get 4095 t.engLast e = c) ∧
  ∀ (s : State) e c, s.nextAsker e = some c → engineOf c = e ∧ 4 ≤ (s.queue c 0x1A).items.length ∧
    s.recFree c = true ∧ ∀ p ∈ s.cores, engineOf p.1 = e → 4 ≤ (s.queue p.1 0x1A).items.length → s.recFree p.1 = true →
      (c + 4095 - FMap.get 4095 s.engLast e) % 4096 ≤ (p.1 + 4095 - FMap.get 4095 s.engLast e) % 4096

/-- From R391, R392, R394, R456, R472: a round: a current input whose link is in service joins those of its node, which combines when it
has one of each child; one that is not current is counted and its round goes on stale, or ends stale at its sender where the node has no
entry or none that names its port; integer sums are exact at every node and wrap or
clamp once at the root, the other operators are the maximum, the minimum and the bitwise ones; a result that comes to a member in Put
makes it Ready. The first input of a sum is read as log entry 61 says. -/
def Obligations.CollectiveRounds : Prop :=
  (∀ s node port grp ver v, s.msg (s.arg 0) = some (.coll node port grp ver v) → FMap.find (inKey node grp port) s.collIn = none →
    s.inputUp node port grp = true →
    (s.notCurrent node grp ver = false → Happens .collRoundInput s
      ({ s.unsend (s.arg 0) with collIn := FMap.set s.collIn (inKey node grp port) v }.tryCombine node grp)) ∧
    (∀ e, s.notCurrent node grp ver = true → s.groupAt node grp = some e → let u := (s.unsend (s.arg 0)).countStale node
      Happens .collRoundInput s (if port ∈ e.ports node then let n := u.nack node port grp false
        { n with collIn := FMap.set n.collIn (inKey node grp port) { v with stale := true } }.tryCombine node grp
        else u.nack node port grp true)) ∧
    (s.groupAt node grp = none → Happens .collRoundInput s (((s.unsend (s.arg 0)).countStale node).nack node port grp true))) ∧
  (∀ s node grp ver v e, s.msg (s.arg 0) = some (.collRes node grp ver v) → s.notCurrent node grp ver = false →
    s.resultUp node grp = true → s.groupAt node grp = some e →
    Happens .collResultReturn s ((s.unsend (s.arg 0)).sendDown node grp e v)) ∧
  (∀ s node grp ver v e, s.msg (s.arg 0) = some (.collRes node grp ver v) → s.notCurrent node grp ver = true →
    s.resultUp node grp = true → s.groupAt node grp = some e →
    Happens .collResultReturn s ((((s.unsend (s.arg 0)).countStale node).nackParent node e grp).sendDown node grp e { v with stale := true })) ∧
  (∀ s node from_ grp ends, s.msg (s.arg 0) = some (.nack node from_ grp ends) → s.nackUp node from_ = true →
    (ends = false → Happens .collResultReturn s (s.unsend (s.arg 0))) ∧
    (∀ e, ends = true → s.groupAt node grp = some e →
      Happens .collResultReturn s ((s.unsend (s.arg 0)).sendDown node grp e { stale := true }))) ∧
  (∀ (s : State) c grp ctx v, (s.collAt c grp ctx).st = 1 → (s.memberResult c grp ctx v).collAt c grp ctx = ⟨2, v⟩) ∧
  (∀ vs, (combine 0 vs).lo = (vs.map fun v => v.lo).sum ∧ (combine 0 vs).hi = (vs.map fun v => v.hi).sum ∧
    (vs ≠ [] → (∃ v ∈ vs, (combine 2 vs).lo = v.lo) ∧ (∀ v ∈ vs, v.lo ≤ (combine 2 vs).lo) ∧
      (∃ v ∈ vs, (combine 3 vs).lo = v.lo) ∧ (∀ v ∈ vs, (combine 3 vs).lo ≤ v.lo) ∧ (∀ v ∈ vs, v.lo ≤ (combine 6 vs).lo))) ∧
  (∀ op vs, ((combine op vs).stale = true ↔ ∃ v ∈ vs, v.stale = true) ∧ ((combine op vs).nanLo = true ↔ ∃ v ∈ vs, v.nanLo = true)) ∧
  (∀ vs : List CollVal, (∀ v ∈ vs, 0 ≤ v.lo) → vs ≠ [] →
    (combine 4 vs).lo = (((vs.map fun v => v.lo.toNat).foldl (· &&& ·) (vs.headD {}).lo.toNat : Nat) : Int) ∧
    (combine 5 vs).lo = (((vs.map fun v => v.lo.toNat).foldl (· ||| ·) 0 : Nat) : Int)) ∧
  ∀ v : CollVal, v.nanLo = false → v.nanHi = false →
    let lane (w : Word) (n : Nat) : Int := (w.extractLsb' (32 * n) 32).toInt
    let wrap := BitVec.ofInt 64 (rootForm 0 false v).lo; let sat := BitVec.ofInt 64 (rootForm 0 true v).lo
    lane wrap 0 = v.lo.bmod (2 ^ 32) ∧ lane wrap 1 = v.hi.bmod (2 ^ 32) ∧
    lane sat 0 = max (-2 ^ 31) (min (2 ^ 31 - 1) v.lo) ∧ lane sat 1 = max (-2 ^ 31) (min (2 ^ 31 - 1) v.hi)

/-- From R203, R208, R211, R213, R217, R221 to R223: a queued operation is accepted when the unit has room, its checks passed, and stands
last in its core's queue with what it sampled. The vector form of `mma` is open only in mode 2 and for one entry of each row. -/
def Claims.MatrixAcceptance : Prop :=
  let room (s : State) : Prop := s.here.mq.length < 4
  let gran (s : State) (off n : Nat) : Prop := s.heldRange s.thr.ctx s.cur.core off n = true
  let scales (s : State) (reg : Word) (f : Fmt) (kk : Nat) (sc : List Nat) : Prop :=
    let on := reg.getLsbD 63 = true ∧ (cfmt true 4 f).isBlock = true ∧ kk ≠ 0
    let off := (reg.extractLsb' 0 22).toNat; let stride := (reg.extractLsb' 32 16).toNat; let nb := (kk + 31) / 32
    ¬on ∧ sc = [] ∨ on ∧ off + 63 * stride + nb ≤ 2 ^ 22 ∧ isTile s.cur.core = true ∧ gran s off (63 * stride + nb) ∧ s.poison = [] ∧
      sc = (List.range 64).flatMap fun i => (List.range nb).map fun b => (s.byte (sliceKey s.cur.core (off + i * stride + b))).toNat
  let rows (s : State) (okQ : Nat → Bool) (src : BitVec 5) (k : GSpec) (vec : VSpec) (row : BitVec 6) (rreg : Bool) (cnt : BitVec 6)
      (fc : FmtOpt) (first n : Nat) (f : Fmt) (osc : Nat) (q : Option Nat) : Prop :=
    n = cnt.toNat + 1 ∧ first = row.toNat + (if rreg then (s.rg k).toNat else 0) ∧ first + n ≤ 64 ∧
    (fc = .over f ∨ fc = .regs ∧ s.src.ctl.fmtc.extractLsb' 0 5 = f.toBits) ∧ osc = (s.src.ctl.fmtc.extractLsb' 8 8).toNat ∧
    ((cfmt true 4 f).isBlock = true → scaleExp osc ≠ 63 ∧ ((cfmt true 4 f).narrow = true → scaleType osc = 0)) ∧
    (src = 0#5 ∧ q = none ∧ vec.toNat + n * rowEntries f ≤ 128 / s.here.mode ∨
      src ≠ 0#5 ∧ q = some (s.qid (qNum src)) ∧ qExists s.cur.core s.cur.slot s.here.mode (s.qid (qNum src)) = true ∧
        okQ (s.qid (qNum src)) = true)
  (∀ (s : State) k acc l f, (s.enqueue k acc l none f).here.mq = s.here.mq ++ [f {
    kind := k, acc := acc, slot := s.cur.slot, ctx := s.thr.ctx, taskh := s.thr.ctl.taskh, pc := s.ipc, row := 0, queue := none
    bptr := 0, sa := [], sb := [], round := 0, wid := none, staged := [], range := false, bad := [], at_ := s.cycle
    started := false, flags := 0 }] ∧ (s.enqueue k acc l none f).mem = s.mem) ∧
  (∀ acc l e, ActsIf (.mzero acc l e) room (fun s => s.enqueue .mzero acc.toNat l none id)) ∧
  (∀ acc src k fmts fa fb z l e s s1 sa sb, let i := Instr.mma acc src k fmts z l e; let kk := (s1.rg k).toNat
    let need := 64 * ((kk + matPer fa - 1) / matPer fa); let b := FMap.get 0 s1.here.bptr acc.toNat
    (fmts = .over fa fb ∨ fmts = .regs ∧ s1.src.ctl.fmta.extractLsb' 0 5 = fa.toBits ∧ s1.src.ctl.fmtb.extractLsb' 0 5 = fb.toBits) →
    Ready i s s1 → room s1 →
    (src.toNat < 24 → (s1.here.mode ≠ 2 ∨ matPer fa < kk) → FaultsWith i s { cause := .illegalOp }) ∧
    (s1.cap (matFeature fa) = true → s1.cap (matFeature fb) = true → kk ≤ 2048 →
      b + colBytes (matWidth fb) kk ≤ 2 ^ 17 → scales s1 s1.src.ctl.scla fa kk sa → scales s1 s1.src.ctl.sclb fb kk sb →
      badType fa sa = false → badType fb sb = false → s1.bLocked s1.cur.core b (colBytes (matWidth fb) kk) (List.range 64) = false →
      (src.toNat < 24 → s1.here.mode = 2 → kk ≤ matPer fa → 4 * src.toNat + need ≤ 128 / s1.here.mode →
        Completes i s (s1.enqueue (.mma kk fa fb z) acc.toNat l none fun o =>
          { o with queue := none, bptr := b, sa := sa, sb := sb, staged := (List.range need).map fun n => s1.vreg (4 * src.toNat + n) })) ∧
      (24 ≤ src.toNat → let id := s1.qid (qNum src)
        qExists s1.cur.core s1.cur.slot s1.here.mode id = true → mmaQueue id = true →
        Completes i s (s1.enqueue (.mma kk fa fb z) acc.toNat l none fun o =>
          { o with queue := some id, bptr := b, sa := sa, sb := sb, staged := [] })))) ∧
  (∀ acc src k vec row rreg cnt fc l e s s1 first n f osc q, let i := Instr.mrd acc src k vec row rreg cnt fc l e
    Ready i s s1 → room s1 → rows s1 mrdQueue src k vec row rreg cnt fc first n f osc q →
    let s2 := if s1.env.sr then s1.setLfsr (Nat.iterate lfsrWord (64 * n) s1.env.lfsr) else s1
    Completes i s (s2.enqueue (.mrd first n f osc) acc.toNat l (match q with
      | some _ => none
      | none => some ((List.range (n * rowEntries f)).map fun m => Dest.v (vec.toNat + m))) fun o =>
        { o with queue := q, row := vec.toNat, round := s1.src.ctl.round.toNat })) ∧
  (∀ acc src k vec row rreg cnt fc l e s s1 first n f osc q, let i := Instr.mwr acc src k vec row rreg cnt fc l e
    Ready i s s1 → room s1 → rows s1 mwrQueue src k vec row rreg cnt fc first n f osc q →
    Completes i s (s1.enqueue (.mwr first n f osc) acc.toNat l none fun o => { o with queue := q, staged := match q with
      | some _ => []
      | none => (List.range (n * rowEntries f)).map fun m => s1.vreg (vec.toNat + m) })) ∧
  (∀ acc a l s s1, let off := (s1.rg a).toNat - (2 ^ 47 + s1.cur.core * 2 ^ 22)
    room s1 → isTile s1.cur.core = true → (s1.rg a).toNat % 64 = 0 → inSlice s1 (s1.rg a) 20480 → gran s1 off 20480 →
    s1.thr.speculative = false →
    (Ready (.msave acc a l) s s1 → Completes (.msave acc a l) s (s1.enqueue (.msave off) acc.toNat l (some []) id)) ∧
    (Ready (.mrest acc a l) s s1 → Completes (.mrest acc a l) s (s1.enqueue (.mrest off) acc.toNat l none id))) ∧
  ∀ a len (line : BitVec 11) bank cnt l e s s1, let i := Instr.bld a len line bank cnt l e; let n := cnt.toNat + 1
    let m := (s1.rg len).toNat; let src := (s1.rg a).toNat - (2 ^ 47 + s1.cur.core * 2 ^ 22)
    Ready i s s1 → room s1 → isTile s1.cur.core = true → (s1.rg a).toNat % 64 = 0 → m % 64 = 0 → m ≠ 0 →
    line.toNat * 64 + m ≤ 2 ^ 17 → inSlice s1 (s1.rg a) (m * n) → gran s1 src (m * n) →
    (∀ b < n, ∀ j < m / 64, s1.bHeld s1.thr.ctx s1.cur.core ((bank.toNat + b) * 2 ^ 17 + line.toNat * 64 + 64 * j) = true) →
    s1.bLocked s1.cur.core (line.toNat * 64) m ((List.range n).map (bank.toNat + ·)) = false → s1.thr.speculative = false →
    Completes i s (s1.enqueue (.bld src m line.toNat bank.toNat n) 4 l none id)

/-- From R173, R174, R210, R215, R224, R228, R229: the instructions that do not enter the queue: `bsel` and `mcfg` set the core's pointers
and feeder within their limits; `mwait` completes when no operation of its thread is left on its accumulator and no load, save or
exchange; `mxp.tab` keeps a table and `mxp` waits in its core. A run keeps the source and stride with which it was accepted, log entry
107. -/
def Claims.MatrixPointers : Prop :=
  let mine (s : State) : Prop := s.srcCore.tabOwner = some s.thr.ctx ∧ s.srcCore.tabWant = none ∧ s.srcCore.mxp = none ∧
    s.srcCore.tabInUse (.loads 16) = false
  (∀ a (acc : BitVec 2) s s1, let i := Instr.bsel a acc; let v := (src1 s1 a).toNat
    Ready i s s1 → (v % 64 = 0 → v < 2 ^ 17 → ∃ t : State, Completes i s t ∧ FMap.get 0 t.here.bptr acc.toNat = v) ∧
      (v % 64 ≠ 0 → FaultsWith i s { cause := .misaligned }) ∧ (v % 64 = 0 → 2 ^ 17 ≤ v → FaultsWith i s { cause := .matrixRange })) ∧
  (∀ a s s1, let v := (src1 s1 a).toNat; v % 64 = 0 → v < 2 ^ 22 →
    (Ready (.mcfgSrc a) s s1 → ∃ t : State, Completes (.mcfgSrc a) s t ∧ t.here.feeder = { s1.here.feeder with src := v }) ∧
    (Ready (.mcfgStride a) s s1 → ∃ t : State, Completes (.mcfgStride a) s t ∧ t.here.feeder = { s1.here.feeder with stride := v })) ∧
  (∀ a s s1, let i := Instr.mcfgGo a; let n := (src1 s1 a).toNat; let f := s1.srcCore.feeder
    Ready i s s1 → f.left = 0 → (∀ p ∈ s1.srcCore.slots, p.2.feed = none) →
    let fits := 1 ≤ n ∧ n ≤ 4096 ∧ f.src + 63 * f.stride + 64 * (n - 1) + 63 < 2 ^ 22 ∧
      ∀ r < 64, s1.heldRange s1.thr.ctx s1.cur.core (f.src + r * f.stride) (64 * n) = true
    (¬fits → FaultsWith i s { cause := .matrixRange }) ∧
    (fits → s1.thr.speculative = false → ∃ t : State, Completes i s t ∧ t.here.feeder = { s1.here.feeder with
      left := n, panel := 0, row := 0, slot := s1.cur.slot, ctx := s1.thr.ctx, taskh := s1.thr.ctl.taskh
      runSrc := f.src, runStride := f.stride })) ∧
  Acts .mcfgStop (fun s => (s.setThr { s.thr with feed := none }).modHere fun k => { k with feeder := { k.feeder with left := 0 } }) ∧
  (∀ acc, ActsIf (.mwait acc) (fun s => (∀ m, s.here.mxp = some m → m.2.2.1 ≠ s.cur.slot) ∧
      ∀ o ∈ s.here.mq, o.slot = s.cur.slot → o.taskh = s.thr.ctl.taskh → o.acc ≠ acc.toNat ∧ (∀ x, o.kind ≠ .msave x) ∧
        ∀ a b c d e, o.kind ≠ .bld a b c d e) (fun s => s)) ∧
  (∀ a l s s1 bs s2, let i := Instr.mxpTab a l; let ea := src1 s1 a
    Ready i s s1 → mine (s1.rd a).2 → inSlice s1 ea 64 → isTile s1.cur.core = true → OperandRead (s1.rd a).2 ea.toNat 1 bs s2 →
    (∀ c, tabFault bs = some c → FaultsWith i s { cause := c, addr := ea }) ∧
    (tabFault bs = none → Completes i s ((s2.modHere fun k => { k with
      xtabs := FMap.set k.xtabs s1.thr.ctx bs }).openWindow l.toNat [] 0 [] false (some (.loads 16))).2)) ∧
  ∀ (n : BitVec 4) l e s s1, let i := Instr.mxp n l e; let bytes := tabWord (s1.xtab s1.cur.core s1.thr.ctx) 40
    Ready i s s1 → mine s1 → (bytes = 0 → FaultsWith i s { cause := .matrixRange }) ∧
    (bytes ≠ 0 → s1.thr.speculative = false → let p := s1.openWindow l.toNat [] 1 []
      Completes i s (p.2.modHere fun k =>
        { k with mxp := some (k.mxpCount, n.toNat + 1, s1.cur.slot, p.1, s1.cycle), mxpCount := k.mxpCount + 1 }))

/-- Matrix instructions are accepted or complete. What is sampled at acceptance is read as log entry 49 says. -/
def Obligations.MatrixInstructions : Prop :=
  Claims.MatrixAcceptance ∧ Claims.MatrixPointers

/-- From R128, R204, R218, R220, R221, R223: what a completed operation leaves: `mzero` zeros in every element, `mma` the rounded sums,
`msave` the accumulator's bytes in the slice and nothing else changed there, `mrest` those bytes in the accumulator. -/
def Claims.MatrixResults : Prop :=
  let c (s : State) : Nat := s.arg 0
  let others (s t : State) (n : Nat) : Prop := ∀ m x, m ≠ n → x < 4096 → (t.core (c s)).accAt m x = (s.core (c s)).accAt m x
  let quiet (s t : State) (o : MOp) : Prop := (o.wid = none → NoneOut s (c s) o.slot) → t.mem = s.mem
  (∀ s o rest, (s.core (c s)).mq = o :: rest → o.kind = .mzero → ∃ t : State, Happens .matrixOpComplete s t ∧ (t.core (c s)).mq = rest ∧
    quiet s t o ∧ (∀ x < 4096, (t.core (c s)).accAt o.acc x = 0) ∧ others s t o.acc) ∧
  (∀ s o rest kk fa fb z, (s.core (c s)).mq = o :: rest → o.kind = .mma kk fa fb z → o.wants ≤ o.staged.length →
    ∃ t : State, Happens .matrixOpComplete s t ∧ (t.core (c s)).mq = rest ∧ quiet s t o ∧
      (∀ i < 64, ∀ j < 64, (t.core (c s)).accAt o.acc (64 * i + j) = (mmaElem (c s) kk (o.elemA fa ((kk + 31) / 32) i)
        (s.elemB (c s) o fb ((kk + 31) / 32) j) (if z then 0 else (s.core (c s)).accAt o.acc (64 * i + j))).1 % 2 ^ 40) ∧
      others s t o.acc) ∧
  (∀ s o rest off, (s.core (c s)).mq = o :: rest → o.kind = .msave off → s.gran = [] → (o.wid = none → NoneOut s (c s) o.slot) →
    ∃ t : State, Happens .matrixOpComplete s t ∧ let base := sliceKey (c s) off
    (∀ x < 4096, ∀ b < 5, t.byte (base + 5 * x + b) = BitVec.ofNat 8 ((s.core (c s)).accAt o.acc x / 256 ^ b)) ∧
    ∀ a, a < base ∨ base + 20480 ≤ a → t.byte a = s.byte a) ∧
  (∀ s o rest off, (s.core (c s)).mq = o :: rest → o.kind = .mrest off → s.poison = [] → ∃ t : State, Happens .matrixOpComplete s t ∧
    quiet s t o ∧ (∀ x < 4096, (t.core (c s)).accAt o.acc x = s.readN (sliceKey (c s) off + 5 * x) 5) ∧ others s t o.acc) ∧
  (∀ tile kk a b code, kk = 0 → mmaElem tile kk a b code = (code, 0#5)) ∧
  ∀ tile k0 code g, (accAdd tile k0 code g).1 = 2 ^ 39 → ∃ e d, acc40.value code = .fin true 0 e ∧ g = .fin true 0 d

/-- From R211, R222: what completed moves leave: `bld` the source bytes in each bank and nothing else changed, `mrd` the converted rows
of the accumulator, in the registers of its vector form, and nothing else of it, `mwr` the widened elements of its entries in the rows, and
every other element as it was. -/
def Claims.MatrixMoves : Prop :=
  let c (s : State) : Nat := s.arg 0
  (∀ s o rest src len line bank cnt, (s.core (c s)).mq = o :: rest → o.kind = .bld src len line bank cnt → s.gran = [] → o.wid = none →
    NoneOut s (c s) o.slot → isTile (c s) = true → len % 64 = 0 → 64 * line + len ≤ 2 ^ 17 → bank + cnt ≤ 64 → src + cnt * len ≤ 2 ^ 22 →
    let to_ (b : Nat) : Nat := bstoreKey (c s) ((bank + b) * 2 ^ 17 + 64 * line)
    ∃ t : State, Happens .matrixOpComplete s t ∧ (t.core (c s)).mq = rest ∧ (∀ n x, (t.core (c s)).accAt n x = (s.core (c s)).accAt n x) ∧
      (∀ b < cnt, ∀ j < len, t.byte (to_ b + j) = s.byte (sliceKey (c s) (src + b * len) + j)) ∧
      ∀ a, (∀ b < cnt, a < to_ b ∨ to_ b + len ≤ a) → t.byte a = s.byte a) ∧
  (∀ s o rest row cnt f osc wid w, (s.core (c s)).mq = o :: rest → o.kind = .mrd row cnt f osc → o.queue = none → o.wid = some wid →
    let u := s.thrAt (c s) o.slot; let n := cnt * rowEntries f; let k := s.core (c s)
    c s < 2560 → u.st ≠ .empty → u.ctl.taskh = o.taskh → u.windows = [w] → w.wid = wid → w.need = 1 → w.writes = [] → w.tab = none →
    (∀ m < n, Dest.v (o.row + m) ∈ w.dests) → o.row + n ≤ 128 / k.mode → ∃ t : State, Happens .matrixOpComplete s t ∧
      (t.core (c s)).mq = rest ∧ t.mem = s.mem ∧ (∀ m x, (t.core (c s)).accAt m x = k.accAt m x) ∧
      (t.thrAt (c s) o.slot).windows = [] ∧ ∀ m < n,
        FMap.get 0 (t.core (c s)).rows (rowOf k.mode o.slot (o.row + m)) = (mrdEntries k o row cnt f osc).1.getD m 0) ∧
  (∀ (k : Core) o row cnt f osc, f.isRow = true → let v := vEnv (BitVec.ofNat 64 o.round) 0; let w := matWidth f
    v.sr = false → ∀ r < cnt, ∀ j < 64, let x := (rowOut (cfmt true 4 f) osc v.rm v.lfsr (k.accAt o.acc (64 * (row + r) + j))).1
      (((mrdEntries k o row cnt f osc).1.getD (r * rowEntries f + w * j / 512) 0).extractLsb' (w * j % 512) w).toNat = x) ∧
  ∀ s o rest row cnt f osc, (s.core (c s)).mq = o :: rest → o.kind = .mwr row cnt f osc → o.wants ≤ o.staged.length → o.bad = [] →
    ∃ t : State, Happens .matrixOpComplete s t ∧ (t.core (c s)).mq = rest ∧ ((o.wid = none → NoneOut s (c s) o.slot) → t.mem = s.mem) ∧
      let w := matWidth f
      let code (i j : Nat) : Nat :=
        ((o.staged.getD ((i - row) * rowEntries f + w * j / 512) 0).extractLsb' (w * j % 512) w).toNat
      let value (x : Nat) : FV := match cfmt true 4 f with
        | .int sg w => .fin (decide (ival sg w x < 0)) (ival sg w x).natAbs 0
        | .flt ff => ff.value x
        | .blk ff => (ff.value x).scaled osc
        | .quad => (quadValue (scaleType osc) x).scaled osc
      ∀ n < 4, ∀ i < 64, ∀ j < 64, (t.core (c s)).accAt n (64 * i + j) =
        if n = o.acc ∧ row ≤ i ∧ i < row + cnt then (acc40.round .rne 0 (value (code i j))).1 % 2 ^ 40
        else (s.core (c s)).accAt n (64 * i + j)

/-- What completed matrix operations leave. An operation has its effect at its completion, which is the model's choice, log entry 47. -/
def Obligations.MatrixResults : Prop :=
  Claims.MatrixResults ∧ Claims.MatrixMoves

/-- From R51, R215, R220, R226, R229, R432: the unit's own steps: the feeder pushes entries of its run in the order of R213; an exchange
whose four cores issued within 65,536 cycles, their earlier saves complete, releases them; one that came too late does not start, and
is abandoned: every core that waits for its number is released with RANGE; FLAG_TRAP enters the handler. The feeder at a closed queue is
log entry 53. -/
def Obligations.MatrixEvents : Prop :=
  (∀ s, let c := s.arg 0; let f := (s.core c).feeder; let off := f.runSrc + f.row * f.runStride + 64 * f.panel
    f.left ≠ 0 → s.heldRange f.ctx c off 64 = true → s.qClosed c 0x18 = false → s.qFree c 0x18 ≠ 0 → (s.queue c 0x18).resv = [] →
    ∃ t : State, Happens .feederPush s t ∧
      (t.queue c 0x18).items = (s.queue c 0x18).items ++ [BitVec.ofNat 512 (s.readN (sliceKey c off) 64)] ∧
      (t.core c).feeder = if f.row = 63 then { f with row := 0, panel := f.panel + 1, left := f.left - 1 }
        else { f with row := f.row + 1 }) ∧
  (∀ s n, let q := s.arg 0; let waits (c : Nat) (m : Nat × Nat × Nat × Nat × Nat) : Prop := c ∈ quadCores q ∧ (s.core c).mxp = some m
    (∀ c ∈ quadCores q, ∃ m, (s.core c).mxp = some m ∧ m.1 = n ∧ ∀ o ∈ (s.core c).mq, o.at_ ≤ m.2.2.2.2 → ∀ off, o.kind ≠ .msave off) →
    ((∀ c d m k, waits c m → waits d k → m.2.2.2.2 ≤ k.2.2.2.2 + 65536) → s.gran = [] → n ∉ (s.quad q).mxpLost → s.cycle % 8 = 0 → ∃ t : State,
      Happens .mxpExchangeStart s t ∧ ∀ c ∈ quadCores q, (t.core c).mxp = none) ∧
    ((∃ c d m k, waits c m ∧ waits d k ∧ k.2.2.2.2 + 65536 < m.2.2.2.2) → Happens .mxpExchangeStart s s)) ∧
  (∀ s c n, c ∈ quadCores (s.arg 0) → s.mxpLate c = some n → ∃ t : State, Happens .mxpAbandon s t ∧ t.mem = s.mem ∧
    ∀ d ∈ quadCores (s.arg 0), ∀ m, (s.core d).mxp = some m → m.1 = n → (t.core d).mxp = none ∧
      ∀ w ∈ (s.thrAt d m.2.2.1).windows, w.wid = m.2.2.2.1 → ∃ w' ∈ (t.thrAt d m.2.2.1).windows, w'.wid = w.wid ∧ w'.need = 0 ∧
        w'.flags = w.flags ||| fRange) ∧
  ∀ s, let t := s.thrAt (s.arg 0) (s.arg 1); let tv := s.trapVec t.ctx
    t.heldFlag = true → t.ctl.trapcause.getLsbD 16 = false → t.st ≠ .empty → tv ≠ 0#64 → ∃ u, Happens .flagTrap s u ∧
      let t' := u.thrAt (s.arg 0) (s.arg 1)
      t'.pc = tv ∧ t'.ctl.trappc = t.pc &&& ~~~1#64 ∧ t'.ctl.trapcause = 0x1004A#64 ∧ t'.heldFlag = false ∧ t'.g = t.g

/-- From R111, R176 to R178, R181: vector arithmetic completes in every integer format as the arithmetic of its elements, wrapped or
clamped, and in every float format as the rounded sum, difference or product, least and greatest, sign cleared or inverted; a NaN whose
sign changes is quiet (R114). -/
def Claims.VectorArithmetic : Prop :=
  let never := fun (_ : Bool) (w : Nat) (_ _ : BitVec w) => false
  let lo (sg : Bool) (w : Nat) : Int := if sg then -2 ^ (w - 1) else 0
  let hi (sg : Bool) (w : Nat) : Int := if sg then 2 ^ (w - 1) - 1 else 2 ^ w - 1
  let clamp (sg : Bool) (w : Nat) (n : Int) : BitVec w := BitVec.ofInt w (max (lo sg w) (min (hi sg w) n))
  let out (sg : Bool) (w : Nat) (n : Int) : Bool := decide (n < lo sg w) || decide (hi sg w < n)
  let rounded (op : Nat → RMode → FV → FV → FV × Flags) (ff : FFmt) (rm : RMode) (u : Nat) (x y : FV) : Nat × Flags :=
    let r := op ff.fw rm x y
    let c := ff.round rm u r.1
    (c.1, c.2 ||| r.2)
  LanesInt .vadd [true, false] (fun _ _ a b => a + b) never ∧ LanesInt .vsub [true, false] (fun _ _ a b => a - b) never ∧
  LanesInt .vmul [true, false] (fun _ _ a b => a * b) never ∧
  LanesInt .vmin [true, false] (fun sg _ a b => if elInt sg a ≤ elInt sg b then a else b) never ∧
  LanesInt .vmax [true, false] (fun sg _ a b => if elInt sg a ≤ elInt sg b then b else a) never ∧
  LanesInt .vadds [true, false] (fun sg w a b => clamp sg w (elInt sg a + elInt sg b)) (fun sg w a b => out sg w (elInt sg a + elInt sg b)) ∧
  LanesInt .vsubs [true, false] (fun sg w a b => clamp sg w (elInt sg a - elInt sg b)) (fun sg w a b => out sg w (elInt sg a - elInt sg b)) ∧
  LanesInt .vmulh [true, false] (fun sg w a b => BitVec.ofInt w (elInt sg a * elInt sg b / 2 ^ w)) never ∧
  LanesInt (fun vd va _ => .vabs vd va) [true] (fun _ w a _ => clamp true w a.toInt.natAbs) (fun _ w a _ => out true w a.toInt.natAbs) ∧
  LanesInt (fun vd va _ => .vneg vd va) [true] (fun _ w a _ => BitVec.ofInt w (-a.toInt)) never ∧
  LanesFloat .vadd true (rounded fvAdd) ∧ LanesFloat .vsub true (rounded fvSub) ∧ LanesFloat .vmul true (rounded fvMul) ∧
  LanesFloat .vmin false (fun ff _ _ x y => ff.round .rne 0 (fvMin ff.fw x y)) ∧
  LanesFloat .vmax false (fun ff _ _ x y => ff.round .rne 0 (fvMax ff.fw x y)) ∧
  ∀ vd va k f e s s1 ff, s1.env.cf f = .flt ff → let w := ff.width; let top : BitVec w := BitVec.ofNat w (2 ^ (w - 1))
    let q (j : Nat) : BitVec w := let x := el w (s1.rv va) j
      if (ff.value x.toNat).isNan then x ||| BitVec.ofNat w (2 ^ (ff.fw - 1)) else x
    (Ready (.vabs vd va k f e) s s1 → Lanes (.vabs vd va k f e) vd k s s1 w (fun j => q j &&& ~~~top) (fun _ => false)) ∧
    (Ready (.vneg vd va k f e) s s1 → Lanes (.vneg vd va k f e) vd k s s1 w (fun j => q j ^^^ top) (fun _ => false))

/-- From R182, R183: the fused forms and the dot products complete: on integers the exact sum wrapped, on floats one rounding of the
exact value; a packed format that EFMT makes unfit is refused at check 7 (R179). -/
def Claims.VectorFused : Prop :=
  (∀ vd va vb vc k f e s s1 sg w, s1.env.cf f = .int sg w → let a := el w (s1.rv va); let b := el w (s1.rv vb); let c := el w (s1.rv vc)
    (Ready (.vfma vd va vb vc k f e) s s1 → Lanes (.vfma vd va vb vc k f e) vd k s s1 w (fun j => a j * b j + c j) fun _ => false) ∧
    (Ready (.vfms vd va vb vc k f e) s s1 → Lanes (.vfms vd va vb vc k f e) vd k s s1 w (fun j => a j * b j - c j) fun _ => false)) ∧
  (∀ vd va vb vc k f e s s1 ff, s1.env.cf f = .flt ff →
    let g (op : Nat → RMode → FV → FV → FV → FV × Flags) (s : State) (j u : Nat) : Nat × Flags :=
      let r := op ff.fw s.env.rm (ff.value (s.el va f j)) (ff.value (s.el vb f j)) (ff.value (s.el vc f j))
      let c := ff.round s.env.rm u r.1
      (c.1, r.2 ||| c.2)
    (Ready (.vfma vd va vb vc k f e) s s1 → Completes (.vfma vd va vb vc k f e) s (elementwise vd k f true (g fvFma) s1)) ∧
    (Ready (.vfms vd va vb vc k f e) s s1 → Completes (.vfms vd va vb vc k f e) s (elementwise vd k f true (g fvFms) s1))) ∧
  (∀ vd va vb vc k fp fa e s s1 sg w sg' w', let i := Instr.vdot vd va vb vc k fp fa e
    Ready i s s1 → s1.env.cf fp = .int sg w → s1.env.cf fa = .int sg' w' → (fp = .pk → w = 4 ∧ sg = sg') →
    let sum (j : Nat) : Int := (List.range (w' / w)).foldl (fun n t =>
      n + elInt sg (el w (s1.rv va) (w' / w * j + t)) * elInt sg (el w (s1.rv vb) (w' / w * j + t))) (elInt sg' (el w' (s1.rv vc) j))
    Lanes i vd k s s1 w' (fun j => BitVec.ofInt w' (sum j)) fun _ => false) ∧
  (∀ vd va vb vc k fp fa e s s1 ff ga, let i := Instr.vdot vd va vb vc k fp fa e
    Ready i s s1 → s1.env.cf fp = .flt ff → s1.env.cf fa = .flt ga →
    Completes i s (elementwise vd k fa true (fun s j u =>
      let r := dotSum ga.fw s.env.rm ((List.range 2).map fun t =>
        (ff.value (s.el va fp (2 * j + t)), ff.value (s.el vb fp (2 * j + t)))) (some (ga.value (s.el vc fa j)))
      let c := ga.round s.env.rm u r.1
      (c.1, r.2 ||| c.2)) s1)) ∧
  (∀ vd va k (e : Energy) s s1, s1.env.pks = false →
    (Ready (.vabs vd va k .pk e) s s1 → FaultsWith (.vabs vd va k .pk e) s { cause := .illegalOp }) ∧
    (Ready (.vneg vd va k .pk e) s s1 → FaultsWith (.vneg vd va k .pk e) s { cause := .illegalOp })) ∧
  ∀ vd va vb vc k fa e s s1, let i := Instr.vdot vd va vb vc k .pk fa e
    Ready i s s1 → (s1.env.pkw ≠ 4 ∨ s1.env.pks ≠ fa.isSigned) → FaultsWith i s { cause := .illegalOp }

/-- Vector arithmetic completes. -/
def Obligations.VectorArithmetic : Prop :=
  Claims.VectorArithmetic ∧ Claims.VectorFused

/-- From R184 to R188: the bitwise forms and `vsel` complete byte by byte, the compares with a mask over the active elements, `vclass`
with the one bit of its class, and the shifts with the amounts of vb or of the immediate. -/
def Obligations.VectorLogic : Prop :=
  let bytes (i : Instr) (vd : VSpec) (k : KReg) (s s1 : State) (g : Nat → BitVec 8) : Prop := ∃ x : Line, Completes i s (s1.wv vd x) ∧
    ∀ b < 64, el 8 x b = if (s1.rk k).getLsbD b then g b else el 8 (s1.rv vd) b
  let holds (c : Cond) (w : Nat) (x y : BitVec w) : Bool := match c with
    | .eq => x == y
    | .ne => x != y
    | .lt => x.slt y
    | .le => !y.slt x
    | .gt => y.slt x
    | .ge => !x.slt y
    | .ltn => x.ult y
    | .len => !y.ult x
    | .gtn => y.ult x
    | .gen => !x.ult y
    | .uo => false
  (∀ vd va vb k e s s1, let a := el 8 (s1.rv va); let b := el 8 (s1.rv vb)
    (Ready (.vand vd va vb k e) s s1 → bytes (.vand vd va vb k e) vd k s s1 fun n => a n &&& b n) ∧
    (Ready (.vor vd va vb k e) s s1 → bytes (.vor vd va vb k e) vd k s s1 fun n => a n ||| b n) ∧
    (Ready (.vxor vd va vb k e) s s1 → bytes (.vxor vd va vb k e) vd k s s1 fun n => a n ^^^ b n) ∧
    (Ready (.vnot vd va k e) s s1 → bytes (.vnot vd va k e) vd k s s1 fun n => ~~~(a n)) ∧
    (Ready (.vmov vd va k e) s s1 → bytes (.vmov vd va k e) vd k s s1 a) ∧
    (Ready (.vzero vd k e) s s1 → bytes (.vzero vd k e) vd k s s1 fun _ => 0#8) ∧
    (Ready (.vsel vd va vb k e) s s1 → ∃ x : Line, Completes (.vsel vd va vb k e) s (s1.wv vd x) ∧
      ∀ n < 64, el 8 x n = if (s1.rk k).getLsbD n then a n else b n)) ∧
  (∀ kd va vb k f c e s s1, let i := Instr.vcmp kd va vb k f c e; let w := s1.env.w f
    let hold (j : Nat) : Bool := match s1.env.cf f with
      | .flt ff => condEl c (.flt ff) (el w (s1.rv va) j).toNat (el w (s1.rv vb) j).toNat
      | _ => holds c w (el w (s1.rv va) j) (el w (s1.rv vb) j)
    Ready i s s1 → ∃ m : Word, Completes i s (s1.wk kd m) ∧ ∀ n < 64,
      (8 ≤ w → m.getLsbD n = ((s1.rk k).getLsbD (w * (8 * n / w) / 8) && hold (8 * n / w))) ∧
      (w < 8 → (m.getLsbD n = true ↔ (∃ j < 512 / w, w * j / 8 = n) ∧ (s1.rk k).getLsbD n = true ∧
        ∀ j < 512 / w, w * j / 8 = n → hold j = true))) ∧
  (∀ vd va k f e s s1 ff, let i := Instr.vclass vd va k f e; let w := ff.width
    Ready i s s1 → s1.env.cf f = .flt ff → Lanes i vd k s s1 w (fun j =>
      let x := el w (s1.rv va) j
      let ex := x.extractLsb' ff.fw ff.ew
      let frac := x.extractLsb' 0 ff.fw
      let n := if ex = BitVec.allOnes ff.ew then (if frac ≠ 0 then 8 else if x.msb then 0 else 7)
        else if ex = 0 then (if frac = 0 then (if x.msb then 3 else 4) else if x.msb then 2 else 5) else if x.msb then 1 else 6
      BitVec.ofNat w (2 ^ n)) fun _ => false) ∧
  (∀ vd va vb k f e s s1, let w := s1.env.w f; let a := el w (s1.rv va); let b := fun j => (el w (s1.rv vb) j).toNat
    (Ready (.vshl vd va vb k f e) s s1 → Lanes (.vshl vd va vb k f e) vd k s s1 w (fun j => a j <<< b j) fun _ => false) ∧
    (Ready (.vshr vd va vb k f e) s s1 → Lanes (.vshr vd va vb k f e) vd k s s1 w (fun j => a j >>> b j) fun _ => false) ∧
    (Ready (.vsra vd va vb k f e) s s1 → Lanes (.vsra vd va vb k f e) vd k s s1 w (fun j => (a j).sshiftRight (b j)) fun _ => false)) ∧
  ∀ vd va k f (n : BitVec 6) e s s1, let w := s1.env.w f; let a := el w (s1.rv va)
    (n.toNat < w →
      (Ready (.vshli vd va k f n e) s s1 → Lanes (.vshli vd va k f n e) vd k s s1 w (fun j => a j <<< n.toNat) fun _ => false) ∧
      (Ready (.vshri vd va k f n e) s s1 → Lanes (.vshri vd va k f n e) vd k s s1 w (fun j => a j >>> n.toNat) fun _ => false) ∧
      (Ready (.vsrai vd va k f n e) s s1 → Lanes (.vsrai vd va k f n e) vd k s s1 w (fun j => (a j).sshiftRight n.toNat) fun _ => false)) ∧
    (w ≤ n.toNat → ∀ i ∈ [Instr.vshli vd va k f n e, .vshri vd va k f n e, .vsrai vd va k f n e],
      Ready i s s1 → FaultsWith i s { cause := .illegalOp })

/-- From R189 to R191: the conversions complete with the elements placed as R189 says, each converted under the scale of EFMT, where the
widths are related and the scale is allowed, and are refused at check 7 elsewhere; `vscl` multiplies by the scale of byte 0 of vb.
Stochastic words of widening conversions are log entry 28. -/
def Obligations.VectorConversions : Prop :=
  let done (vd : VSpec) (k : KReg) (fd fs : Fmt) (src : Nat → Option Nat) (s1 : State) : State :=
    s1.vdone vd (eachElem (s1.env.w fd) (s1.rk k) (s1.rv vd)
      (fun j => s1.env.sr && (s1.env.cf fd).rounds (s1.env.cf fs) && (src j).isSome)
      (fun j u => match src j with
        | some c => convert (s1.env.cf fd) (s1.env.cf fs) s1.env.sb s1.env.rm u c
        | none => (0, fNone)) (List.range (s1.env.n fd)) { lfsr := s1.env.lfsr })
  let code (s1 : State) (fs : Fmt) (v : VSpec) (j : Nat) : Nat := (el (s1.env.w fs) (s1.rv v) j).toNat
  (∀ vd va vb k fd fs hi e s s1, let wd := s1.env.w fd; let ws := s1.env.w fs; let n := 512 / ws
    scaleOk (s1.env.cf fd) (s1.env.cf fs) s1.env.sb = true →
    (Ready (.vcvt vd va k fd fs e) s s1 → wd = ws →
      Completes (.vcvt vd va k fd fs e) s (done vd k fd fs (fun j => some (code s1 fs va j)) s1)) ∧
    (Ready (.vpack vd va vb k fd fs e) s s1 → wd < ws → Completes (.vpack vd va vb k fd fs e) s (done vd k fd fs (fun j =>
      if j < n then some (code s1 fs va j) else if j < 2 * n then some (code s1 fs vb (j - n)) else none) s1)) ∧
    (Ready (.vunpk vd va k fd fs hi e) s s1 → ws < wd → Completes (.vunpk vd va k fd fs hi e) s (done vd k fd fs (fun j =>
      let m := (if hi then 512 / wd else 0) + j
      some (if m < n then code s1 fs va m else 0)) s1))) ∧
  (∀ vd va vb k fd fs hi e s s1, let wd := s1.env.w fd; let ws := s1.env.w fs
    let ok := scaleOk (s1.env.cf fd) (s1.env.cf fs) s1.env.sb = true; let bad : FaultInfo := { cause := .illegalOp }
    (Ready (.vcvt vd va k fd fs e) s s1 → ¬(wd = ws ∧ ok) → FaultsWith (.vcvt vd va k fd fs e) s bad) ∧
    (Ready (.vpack vd va vb k fd fs e) s s1 → ¬(wd < ws ∧ ok) → FaultsWith (.vpack vd va vb k fd fs e) s bad) ∧
    (Ready (.vunpk vd va k fd fs hi e) s s1 → ¬(ws < wd ∧ ok) → FaultsWith (.vunpk vd va k fd fs hi e) s bad)) ∧
  (∀ vd va k fd fs e s s1 sg w sg', let i := Instr.vcvt vd va k fd fs e
    Ready i s s1 → s1.env.cf fd = .int sg w → s1.env.cf fs = .int sg' w →
    let lo : Int := if sg then -2 ^ (w - 1) else 0
    let hi : Int := if sg then 2 ^ (w - 1) - 1 else 2 ^ w - 1
    ∃ x : Line, ∃ fl, Completes i s ((s1.wv vd x).addFlags fl) ∧ ∀ j < 512 / w, el w x j =
      if (s1.rk k).getLsbD (w * j / 8) then BitVec.ofInt w (max lo (min hi (elInt sg' (el w (s1.rv va) j)))) else el w (s1.rv vd) j) ∧
  ∀ vd va vb k f e s s1, let i := Instr.vscl vd va vb k f e; let sb := (el 8 (s1.rv vb) 0).toNat
    Ready i s s1 → (scaleType sb ≠ 0 → FaultsWith i s { cause := .illegalOp }) ∧
      ∀ ff, scaleType sb = 0 → s1.env.cf f = .flt ff → Completes i s (elementwise vd k f true (fun s j u =>
        ff.round s.env.rm u (if scaleExp sb = 63 then .dnan else (ff.value (s.el va f j)).scale ((scaleExp sb : Int) - 32))) s1)

/-- From R130, R131, R195: a reduction completes with the combination of the active elements in element 0 and zeros beside it, and a
scan with the combination of the active elements up to each; on integers that is a plain sum, least, greatest or bitwise
combination. -/
def Claims.VectorReductions : Prop :=
  let comb (op : RedOp) (sg : Bool) (w : Nat) (a b : BitVec w) : BitVec w := match op with
    | .add => a + b
    | .min => if elInt sg a ≤ elInt sg b then a else b
    | .max => if elInt sg a ≤ elInt sg b then b else a
    | .and_ => a &&& b
    | .or_ => a ||| b
    | .xor_ => a ^^^ b
  let ident (op : RedOp) (sg : Bool) (w : Nat) : BitVec w := match op with
    | .add | .or_ | .xor_ => 0
    | .and_ => BitVec.allOnes w
    | .min => if sg then BitVec.ofInt w (2 ^ (w - 1) - 1) else BitVec.allOnes w
    | .max => if sg then BitVec.ofInt w (-2 ^ (w - 1)) else 0
  let upTo (s1 : State) (va : VSpec) (k : KReg) (op : RedOp) (sg : Bool) (w m : Nat) : BitVec w :=
    (List.range m).foldl (fun a j => if (s1.rk k).getLsbD (w * j / 8) then comb op sg w a (el w (s1.rv va) j) else a) (ident op sg w)
  (∀ vd va k f op e s s1 sg w, s1.env.cf f = .int sg w →
    (Ready (.vred vd va k f op e) s s1 → ∃ x : Line, Completes (.vred vd va k f op e) s (s1.wv vd x) ∧
      x = (upTo s1 va k op sg w (512 / w)).setWidth 512) ∧
    (Ready (.vscan vd va k f op e) s s1 → ∃ x : Line, Completes (.vscan vd va k f op e) s (s1.wv vd x) ∧
      ∀ j < 512 / w, el w x j = upTo s1 va k op sg w (j + 1))) ∧
  ∀ vd va k f op e s s1 ff, s1.env.cf f = .flt ff → op ∈ [RedOp.add, .min, .max] →
    let sr := s1.env.sr && op == .add
    let tree := redTree op (.flt ff) s1.env.rm sr (treeDepth (512 / ff.width)) (s1.leaves va k f) { lfsr := s1.env.lfsr }
    let ident : Nat := match op with
      | .min => ff.infCode false
      | .max => ff.infCode true
      | _ => 0
    (Ready (.vred vd va k f op e) s s1 → Completes (.vred vd va k f op e) s
      (s1.vdone vd ⟨((tree.1.getLast?.getD []).getD 0 none).getD ident, tree.2.flags, tree.2.lfsr⟩)) ∧
    (Ready (.vscan vd va k f op e) s s1 → Completes (.vscan vd va k f op e) s (s1.vdone vd (scanAll op (.flt ff) s1.env.rm sr ff.width
      tree.1 (treeDepth (512 / ff.width)) (List.range (512 / ff.width)) ⟨0, tree.2.flags, tree.2.lfsr⟩)))

/-- From R196 to R200: the permutations move elements whole, `vbc` sends one word's low bits to every active element, `vext` and `vins`
move one element, and the whole-entry forms move a queue entry: a pop under the bytes of the mask, a push behind what waits for its
slot. -/
def Claims.VectorMoves : Prop :=
  let none_ : Nat → Bool := fun _ => false
  (∀ vd va vb vc k f e s s1, let i := Instr.vperm vd va vb vc k f e; let w := s1.env.w f; let n := 512 / w
    Ready i s s1 → Lanes i vd k s s1 w (fun j =>
      let m := (el w (s1.rv va) j).toNat % (2 * n)
      if m < n then el w (s1.rv vb) m else el w (s1.rv vc) (m - n)) none_) ∧
  (∀ vd va k f e s s1, let w := s1.env.w f; let n := 512 / w; let a := el w (s1.rv va)
    let sh (p : Shuf) (from_ : Nat → Nat) : Prop :=
      Ready (.vshuf vd va k f p e) s s1 → Lanes (.vshuf vd va k f p e) vd k s s1 w (fun j => a (from_ j)) none_
    let no (p : Shuf) : Prop := Ready (.vshuf vd va k f p e) s s1 → FaultsWith (.vshuf vd va k f p e) s { cause := .illegalOp }
    (∀ p, sh (.rot p) fun j => (j + p.toNat) % n) ∧
    (∀ p, (p.toNat < n → sh (.bc p) fun _ => p.toNat) ∧ (n ≤ p.toNat → no (.bc p))) ∧
    (∀ p, let g := 2 ^ (p.toNat + 1)
      (w ≠ 6 → g ≤ n → sh (.rev p) fun j => j / g * g + (g - 1 - j % g)) ∧ (w = 6 ∨ n < g → no (.rev p))) ∧
    (w ≠ 6 → sh .uzp (fun j => if j < n / 2 then 2 * j else 2 * (j - n / 2) + 1) ∧
      sh .zip (fun j => if j % 2 = 0 then j / 2 else n / 2 + (j - 1) / 2)) ∧ (w = 6 → no .uzp ∧ no .zip)) ∧
  (∀ vd a k f e s s1, let i := Instr.vbc vd a k f e; let s2 := (s1.rd a).2
    Ready i s s1 → Lanes i vd k s s2 (s2.env.w f) (fun _ => (src1 s1 a).setWidth _) none_) ∧
  (∀ d va f (n : BitVec 6) s s1, let i := Instr.vext d va f n; let w := s1.env.w f; let x := el w (s1.rv va) n.toNat
    Ready i s s1 → (512 / w ≤ n.toNat → FaultsWith i s { cause := .illegalOp }) ∧ (n.toNat < 512 / w → Completes i s (s1.wr d
      (match s1.env.cf f with
        | .int true _ => x.signExtend 64
        | _ => x.setWidth 64)))) ∧
  (∀ vd a f (n : BitVec 6) s s1, let i := Instr.vins vd a f n; let w := s1.env.w f
    Ready i s s1 → (512 / w ≤ n.toNat → FaultsWith i s { cause := .illegalOp }) ∧ (n.toNat < 512 / w → ∃ x : Line,
      Completes i s ((s1.rd a).2.wv vd x) ∧ (∀ j < 512 / w, el w x j = if j = n.toNat then (src1 s1 a).setWidth w
        else el w ((s1.rd a).2.rv vd) j) ∧ x.toNat < 2 ^ (w * (512 / w)))) ∧
  (∀ vd n k e s s1, let i := Instr.vqrecv vd n k e; let p := s1.popQ s1.cur.core (s1.qid n.toNat)
    Ready i s s1 → ∃ x : Line, Completes i s (p.2.wv vd x) ∧
      ∀ b < 64, el 8 x b = if (p.2.rk k).getLsbD b then el 8 p.1 b else el 8 (p.2.rv vd) b) ∧
  ∀ n va s s1, Ready (.vqsend n va) s s1 → let c := s1.cur.core; let id := s1.qid n.toNat
    let x := if id = 0x1A then ((s1.rv va).setWidth 64).setWidth 512 else s1.rv va
    ∃ t : State, Completes (.vqsend n va) s t ∧ t.thr = s1.thr ∧ t.mem = s1.mem ∧
      ((s1.queue c (qSend id)).resv = [] → (t.queue c (qSend id)).items = (s1.queue c (qSend id)).items ++ [x]) ∧
      ((s1.queue c (qSend id)).resv ≠ [] → ∃ src, (t.queue c (qSend id)).resv = (s1.queue c (qSend id)).resv ++ [⟨0, 0, some x, src⟩] ∧
        (t.queue c (qSend id)).items = (s1.queue c (qSend id)).items)

/-- Vector reductions, scans and moves complete. -/
def Obligations.VectorReductionsAndMoves : Prop :=
  Claims.VectorReductions ∧ Claims.VectorMoves

/-- From R51, R172 to R174, R192 to R194: where the issuing context owns the core's tables and no load of its table is in flight, a special
function completes, its flags set, with a window that holds its result, each active element the value of the four steps by the table of its
function and width; elsewhere it stalls. `ctab.load` completes with a window that holds the new table, which is written when the functions that read
the old one have completed; the tables change hands only when nothing in flight uses them. The special inputs give the values and flags
of R194 whatever the tables hold. The factory tables are free values, log entry 6; π stands as log entry 18 says; that the flags are set at
issue while the result is late is the model's reading, log entry 40, and the moment of the exchange is its choice, log entry 88. -/
def Obligations.SpecialFunctions : Prop :=
  let mine (s1 : State) (t : Nat) : Prop := s1.srcCore.tabOwner = some s1.thr.ctx ∧ s1.srcCore.tabWant = none ∧
    ∀ p ∈ s1.srcCore.slots, ∀ w ∈ p.2.windows, w.tab ≠ some (.loads t)
  let sp (n : Nat) (op : VSpec → VSpec → KReg → Fmt → Look → Energy → Instr) : Prop :=
    ∀ vd va k f l e (s s1 : State) (ff : FFmt), let i := op vd va k f l e; let t := if f = .fp32 then n else n + 8
      let g (j : Nat) : Nat × Flags := specialEl n ff (s1.coeff s1.cur.core s1.thr.ctx t) (el ff.width (s1.rv va) j).toNat
      let act (j : Nat) : Bool := (s1.rk k).getLsbD (ff.width * j / 8)
      let m := 512 / ff.width
      Ready i s s1 → s1.env.cf f = .flt ff →
      (mine s1 t → ∃ x : Line,
        (let p := s1.openWindow l.toNat [.v vd.toNat] 0 [.v vd.toNat allBytes x] (tab := some (.reads t))
         Completes i s (p.2.addFlags
           ((List.range m).foldl (fun (a : BitVec 5) (j : Nat) => if act j then a ||| (g j).2 else a) 0#5))) ∧
        ∀ j < m, el ff.width x j = if act j then BitVec.ofNat ff.width (g j).1 else el ff.width (s1.rv vd) j) ∧
      (¬mine s1 t → s.cur.place = .single → exec i s = .next s.markStalled)
  sp 0 .vrcp ∧ sp 1 .vrsq ∧ sp 2 .vsqrt ∧ sp 3 .vexp2 ∧ sp 4 .vlog2 ∧ sp 5 .vsin ∧ sp 6 .vcos ∧ sp 7 .vtanh ∧
  (∀ a t l s s1, let i := Instr.ctabLoad a t l; let ea := src1 s1 a; let s2 := (s1.rd a).2
    Ready i s s1 → (ea.toNat % 64 ≠ 0 → FaultsWith i s { cause := .misaligned, addr := ea }) ∧
      (mine s2 t.toNat → ∀ bs s3, OperandRead s2 ea.toNat 16 bs s3 → Completes i s (s3.openWindow l.toNat [] 0
        [.ctab (16 * s1.thr.ctx + t.toNat) ((List.range 256).map fun n => leNat ((bs.drop (4 * n)).take 4))]
        (tab := some (.loads t.toNat))).2)) ∧
  (∀ s slot w ctx t ws, w ∈ (s.thrAt (s.arg 0) slot).windows → w.writes = [.ctab (16 * ctx + t) ws] → t < 16 → w.tab = some (.loads t) →
    (s.arg 1 = slot ∧ s.arg 2 = w.wid) → (∀ w' ∈ (s.thrAt (s.arg 0) slot).windows, w'.wid = w.wid → w' = w) →
    (w.need = 0 → (∀ p ∈ (s.core (s.arg 0)).slots, ∀ w' ∈ p.2.windows, w'.tab ≠ some (.reads t)) → ∃ u : State,
      Happens .longResultWritten s u ∧ (∀ n < 256, u.coeff (s.arg 0) ctx t n = ws.getD n 0) ∧
      ∀ x t' n, 16 * x + t' ≠ 16 * ctx + t → u.coeff (s.arg 0) x t' n = s.coeff (s.arg 0) x t' n) ∧
    ((∃ p ∈ (s.core (s.arg 0)).slots, ∃ w' ∈ p.2.windows, w'.tab = some (.reads t)) → Happens .longResultWritten s s)) ∧
  (∀ s x, let c := s.arg 0; let k := s.core c; let idle := k.mxp = none ∧ ∀ p ∈ k.slots, ∀ w ∈ p.2.windows, w.tab = none
    k.tabWant = some x → (¬idle → Happens .tableOwnerExchange s s) ∧
      (idle → (k.tabOwner = none ∨ ∃ o, k.tabOwner = some o ∧ (s.coreImg c o).isSome = true) → ∃ t : State,
        Happens .tableOwnerExchange s t ∧ (t.core c).tabOwner = some x ∧ (t.core c).tabWant = none ∧ (t.core c).ctabs = k.ctabs ∧
        (t.core c).xtabs = k.xtabs ∧ (k.tabOwner = none → t.mem = s.mem))) ∧
  ∀ ff ∈ [fp32, fp16, bf16], ∀ c : Nat → Nat, let f (n a : Nat) := specialEl n ff c a; let neg := 2 ^ (ff.width - 1)
    let inf := ff.infCode false; let one := (2 ^ (ff.ew - 1) - 1) * 2 ^ ff.fw; let nan := ff.infCode false + 2 ^ (ff.fw - 1)
    f 0 0 = (inf, fDz) ∧ f 0 neg = (neg + inf, fDz) ∧ f 0 inf = (0, fNone) ∧ f 0 (neg + inf) = (neg, fNone) ∧ f 0 one = (one, fNone) ∧
    f 1 0 = (inf, fDz) ∧ f 1 neg = (neg + inf, fDz) ∧ f 1 inf = (0, fNone) ∧ f 1 (neg + inf) = (nan, fNan) ∧
    f 2 0 = (0, fNone) ∧ f 2 neg = (neg, fNone) ∧ f 2 inf = (inf, fNone) ∧ f 2 (neg + inf) = (nan, fNan) ∧ f 2 one = (one, fNone) ∧
    f 3 0 = (one, fNone) ∧ f 3 neg = (one, fNone) ∧ f 3 inf = (inf, fNone) ∧ f 3 (neg + inf) = (0, fNone) ∧
    f 4 0 = (neg + inf, fDz) ∧ f 4 neg = (neg + inf, fDz) ∧ f 4 inf = (inf, fNone) ∧ f 4 one = (0, fNone) ∧
    f 5 0 = (0, fNone) ∧ f 5 neg = (neg, fNone) ∧ f 5 inf = (nan, fNan) ∧ f 5 (neg + inf) = (nan, fNan) ∧
    f 6 0 = (one, fNone) ∧ f 6 neg = (one, fNone) ∧ f 6 inf = (nan, fNan) ∧ f 6 (neg + inf) = (nan, fNan) ∧
    f 7 0 = (0, fNone) ∧ f 7 neg = (neg, fNone) ∧ f 7 inf = (one, fNone) ∧ f 7 (neg + inf) = (neg + one, fNone) ∧
    (∀ a s m e, ff.value a = .fin s m e → m ≠ 0 → s = true → f 1 a = (nan, fNan) ∧ f 2 a = (nan, fNan) ∧ f 4 a = (nan, fNan)) ∧
    ∀ n < 8, ∀ a s p, ff.value a = .nan s p → f n a = ((ff.round .rne 0 (.nan s p)).1, fNone)

/-- From R250 to R255: the instructions of the stack complete: a mark keeps the depth, a cut returns to it and makes the marks above it
invalid, `skim.dep` and `skim.chk` read; a region is placed only while the stack is empty, and each fault has its condition. -/
def Obligations.SkimStack : Prop :=
  (∀ id : BitVec 5, Acts (.skimMark id) fun s => s.setMySkim { s.mySkim with
    marks := FMap.set s.mySkim.marks id.toNat s.mySkim.depth, last := id.toNat, lastValid := true }) ∧
  (∀ (id : BitVec 5) s s1, let i := Instr.skimCut id; let k := s1.mySkim
    Ready i s s1 →
    (∀ d, s1.thr.speculative = false → FMap.find id.toNat k.marks = some d → d ≤ k.depth → ∃ t : State, Completes i s t ∧
      t.mySkim.depth = d ∧ t.mySkim.base = k.base ∧ t.mySkim.lim = k.lim ∧ (∀ p ∈ t.mySkim.marks, p ∈ k.marks ∧ p.2 ≤ d) ∧
      (∀ p ∈ k.marks, p.2 ≤ d → p ∈ t.mySkim.marks) ∧ (∀ p ∈ t.mySkim.onCore, p ∈ k.onCore ∧ p.1 < d) ∧ t.mem = s.mem) ∧
    ((s1.thr.speculative = true ∨ FMap.find id.toNat k.marks = none ∨ ∃ d, FMap.find id.toNat k.marks = some d ∧ k.depth < d) →
      FaultsWith i s { cause := .skimOrder })) ∧
  Reads .skimDep (fun s => word s.mySkim.depth) ∧
  (∀ id, SetsP (fun p => .skimChk p id) fun s => decide (FMap.find id.toNat s.mySkim.marks = some s.mySkim.depth)) ∧
  (∀ a b s s1, let i := Instr.skimArea a b; let x := s1.rg a; let y := s1.rg b; let k := s1.mySkim
    let late := s1.srcSkim.depth ≠ 0 ∨ s1.thr.speculative = true; let odd := x.toNat % 64 ≠ 0 ∨ y.toNat % 64 ≠ 0
    Ready i s s1 → (¬late → ¬odd → x ≤ y → areaOk x y = true → Completes i s (s1.setMySkim { k with base := x, lim := y })) ∧
      (late → FaultsWith i s { cause := .skimOrder }) ∧ (¬late → odd → FaultsWith i s { cause := .misaligned }) ∧
      (¬late → ¬odd → (y < x ∨ areaOk x y = false) → FaultsWith i s { cause := .matrixRange })) ∧
  (∀ s front e img p s1, let k := s.skim (s.arg 2) (s.arg 0) (s.arg 1)
    k.onCore = front ++ [(e, img)] → 6 ≤ front.length → (∀ p ∈ s.cores, p.2.spec = []) → s.gran = [] →
    EntryAt s (s.arg 0) (s.arg 2) k.base e true p s1 → s1.cores = s.cores → s1.skims = s.skims → s1.gran = [] →
    ∃ t : State, Happens .skimBackgroundSpill s t ∧ let k' := t.skim (s.arg 2) (s.arg 0) (s.arg 1)
      k'.onCore = front ∧ k'.depth = k.depth ∧ k'.marks = k.marks ∧ k'.base = k.base ∧ k'.lim = k.lim ∧
      ∀ n < 32, t.byte (p.1 + n) = img.extractLsb' (8 * n) 8 ∧ t.byte (p.2.1 + n) = img.extractLsb' (256 + 8 * n) 8 ∧
        t.byte (p.2.2 + n) = img.extractLsb' (512 + 8 * n) 8) ∧
  ∀ s x s1, let k := s.skim (s.arg 2) (s.arg 0) (s.arg 1); let n := k.onCore.length
    n ≤ 4 → n < k.depth → (∀ p ∈ k.onCore, p.1 < k.depth ∧ k.depth ≤ p.1 + n) → k.saved = [] →
    EntryAt s (s.arg 0) (s.arg 2) k.base (k.depth - n - 1) false x s1 → s1.skims = s.skims → s1.gran = [] →
    ∃ t : State, Happens .skimBackgroundRefill s t ∧ t.mem = s1.mem ∧ t.skim (s.arg 2) (s.arg 0) (s.arg 1) =
      { k with onCore := k.onCore ++ [(k.depth - n - 1,
        BitVec.ofNat 768 (s1.readN x.1 32 + 2 ^ 256 * s1.readN x.2.1 32 + 2 ^ 512 * s1.readN x.2.2 32))] }

/-- From R123, R124, R240, R243, R245 to R249: the forward instructions complete with their results in vd, under every rounding mode, and one
entry pushed, which holds what the undo needs; the depth at the capacity, and an operand that the pair refuses, fault. A product of a format
other than the eight integer ones is refused at check 1. -/
def Claims.ReversibleForward : Prop :=
  (∀ vd va k f (amt : BitVec 6) e, Pushes (.rvsra vd va k f amt e) (fwdSra vd va k f amt) (fun s => s.env.w f)
    (fun s => amt.toNat < s.env.w f) State.auxEfmt (fun s j => (el (s.env.w f) (s.rv va) j).sshiftRight amt.toNat)) ∧
  (∀ vd va b k f e, Pushes (.rvmul vd va b k f e) (fwdMul vd va b k f) (fun s => s.env.w f)
    (fun s => (s.rg b).toNat % 2 ^ s.env.w f ≠ 0) (fun s => s.rg b)
    (fun s j => el (s.env.w f) (s.rv va) j * (s.rg b).setWidth (s.env.w f))) ∧
  (∀ vd va k f (sh : BitVec 5) e, (f = .pk ∨ f.isFloat = false) → Pushes (.rvact vd va k f sh e) (fwdAct vd va k f sh)
    (fun s => s.env.w f) (fun s => f = .pk → s.env.pks = true) State.auxEfmt
    (fun s j => let a := el (s.env.w f) (s.rv va) j
      if a.msb then a.sshiftRight sh.toNat else a)) ∧
  (∀ vd va k f ff (sh : BitVec 5) e, (∀ s : State, s.env.cf f = .flt ff) → Pushes (.rvact vd va k f sh e) (fwdAct vd va k f sh)
    (fun s => s.env.w f) (fun _ => True) State.auxEfmt (fun s j => let a := (el (s.env.w f) (s.rv va) j).toNat
      let takes (n : Nat) : Bool := let b := el (s.env.w f) (s.rv va) n
        s.env.sr && b.msb && !(ff.value b.toNat).isNan
      BitVec.ofNat _ (match ff.value a with
        | .fin true m x => (ff.round s.env.rm (srWord s (s.env.w f) k takes j) (.fin true m (x - sh.toNat))).1
        | .nan neg x => (ff.nanCode neg x).1
        | .fin false _ _ | .inf _ => a))) ∧
  (∀ vd va k fd fs e, Pushes (.rvcvt vd va k fd fs e) (fwdCvt vd va k fd fs) (fun s => s.env.w fd)
    (fun s => s.env.w fd < s.env.w fs ∧ scaleOk (s.env.cf fd) (s.env.cf fs) s.env.sb = true) State.auxEfmt
    (fun s j => let takes (n : Nat) : Bool := s.env.sr && (s.env.cf fd).rounds (s.env.cf fs) && decide (n < 512 / s.env.w fs)
      BitVec.ofNat _ (if j < 512 / s.env.w fs then (convert (s.env.cf fd) (s.env.cf fs) s.env.sb s.env.rm
        (srWord s (s.env.w fd) k takes j) (el (s.env.w fs) (s.rv va) j).toNat).1 else 0))) ∧
  (∀ vd va vb k f ff e, f.isFloat = true → (∀ s : State, s.env.cf f = .flt ff) → let sb (s : State) : Nat := (el 8 (s.rv vb) 0).toNat
    Pushes (.rvscl vd va vb k f e) (fwdScl vd va vb k f) (fun s => s.env.w f) (fun s => scaleType (sb s) = 0)
      (fun s => word (sb s)) (fun s j => BitVec.ofNat _ (ff.round s.env.rm (srWord s (s.env.w f) k (fun _ => s.env.sr) j) (if scaleExp (sb s) = 63 then .dnan else
        (ff.value (el (s.env.w f) (s.rv va) j).toNat).scale ((scaleExp (sb s) : Int) - 32))).1)) ∧
  ∀ vd va vb b k f fd fs amt sh e s s1, let bad : FaultInfo := { cause := .illegalOp }
    let sb := (el 8 (s1.rv vb) 0).toNat
    (Ready (.rvsra vd va k f amt e) s s1 → s1.env.w f ≤ amt.toNat → FaultsWith (.rvsra vd va k f amt e) s bad) ∧
    (Ready (.rvmul vd va b k f e) s s1 → (s1.rg b).toNat % 2 ^ s1.env.w f = 0 → FaultsWith (.rvmul vd va b k f e) s bad) ∧
    (Ready (.rvcvt vd va k fd fs e) s s1 →
      (s1.env.w fs ≤ s1.env.w fd ∨ scaleOk (s1.env.cf fd) (s1.env.cf fs) s1.env.sb = false) → FaultsWith (.rvcvt vd va k fd fs e) s bad) ∧
    (Ready (.rvscl vd va vb k f e) s s1 → scaleType sb ≠ 0 → FaultsWith (.rvscl vd va vb k f e) s bad) ∧
    (Ready (.rvact vd va k .pk sh e) s s1 → s1.env.pks = false → FaultsWith (.rvact vd va k .pk sh e) s bad) ∧
    (f.isInt = false → FaultsWith (.rvmul vd va b k f e) s bad ∧ FaultsWith (.unmul vd va b k f e) s bad) ∧
    (s1.srcSkim.capacity ≤ s1.srcSkim.depth → amt.toNat < s1.env.w f → Ready (.rvsra vd va k f amt e) s s1 →
      FaultsWith (.rvsra vd va k f amt e) s { cause := .skimOverflow })

/-- From R244 to R249: the undos complete, by the recorded mask and Aux alone, or fault; `unmul` gives the quotient toward zero. -/
def Claims.ReversibleUndo : Prop :=
  (∀ vd va k f (amt : BitVec 6) e, Pops (.unsra vd va k f amt e) (fun _ => fwdSra vd va k f amt)
    (fun _ aux => (auxEnv aux).shape f amt.toNat) (fun _ aux _ d m => d * 2 ^ amt.toNat % 2 ^ (auxEnv aux).w f ||| m)) ∧
  (∀ vd va b k f e, Pops (.unmul vd va b k f e) (fun _ => fwdMul vd va b k f)
    (fun _ aux => (auxEnv aux).shape f ((auxEnv aux).w f)) (fun s aux j d m =>
      let w := (auxEnv aux).w f; let c := ival f.isSigned w (aux.toNat % 2 ^ w); let p := ival f.isSigned (2 * w) (m * 2 ^ w + d)
      wrapI w (if c = 0 then (Config.freeNat (s.fresh + j) : Int) else p.tdiv c))) ∧
  (∀ vd va k fd fs e, Pops (.uncvt vd va k fd fs e) (fun _ => fwdCvt vd va k fd fs) (fun _ aux => cvtShape (auxEnv aux) fd fs)
    (fun _ aux _ d m => widen (auxEnv aux) fd fs d ^^^ m)) ∧
  (∀ vd va vb k f e, Pops (.unscl vd va vb k f e) (fun _ => fwdScl vd va vb k f) (fun s _ => s.env.shape f (s.env.w f))
    (fun s aux _ d m => descale (s.env.cf f) (aux.toNat % 256) d ^^^ m)) ∧
  ∀ vd va k f sh e, Pops (.unact vd va k f sh e) (fun _ => fwdAct vd va k f sh)
    (fun _ aux => (auxEnv aux).shape f ((auxEnv aux).w f)) (fun _ aux _ d m => actInv ((auxEnv aux).cf f) sh.toNat d ^^^ m)

/-- Reversible instructions and their undos complete. The quotient by a recorded zero is a free value, log entry 46. -/
def Obligations.ReversibleInstructions : Prop :=
  Claims.ReversibleForward ∧ Claims.ReversibleUndo

/-- From R243 to R249: a pair is reversible bit for bit: shifts, products, narrowing conversions whatever they rounded or clamped, block
scales and activations. -/
def Obligations.ReversibleRoundTrip : Prop :=
  let w (f : Fmt) (s : State) : Nat := s.env.w f
  let n (f : Fmt) (s : State) : Nat := 512 / s.env.w f
  (∀ vd va k f (amt : BitVec 6) e, Restores (.rvsra vd va k f amt e) (.unsra vd va k f amt e) vd va k (fun s => amt.toNat < s.env.w f)
    (w f) (w f) (n f)) ∧
  (∀ vd va b k f e, Restores (.rvmul vd va b k f e) (.unmul vd va b k f e) vd va k
    (fun s => (s.rg b).toNat % 2 ^ s.env.w f ≠ 0) (w f) (w f) (n f)) ∧
  (∀ vd va k fd fs e, Restores (.rvcvt vd va k fd fs e) (.uncvt vd va k fd fs e) vd va k
    (fun s => s.env.w fd < s.env.w fs ∧ scaleOk (s.env.cf fd) (s.env.cf fs) s.env.sb = true) (w fd) (w fs) (n fs)) ∧
  (∀ vd va vb k f e, Restores (.rvscl vd va vb k f e) (.unscl vd va vb k f e) vd va k
    (fun s => scaleType (el 8 (s.rv vb) 0).toNat = 0) (w f) (w f) (n f)) ∧
  ∀ vd va k f sh e, Restores (.rvact vd va k f sh e) (.unact vd va k f sh e) vd va k (fun s => f = .pk → s.env.pks = true)
    (w f) (w f) (n f)

/-- From R31, R287, R398, R402, R403, R446 to R448: while the host's writes reach the bridge, a write that covers byte 63 of a window
enqueues the packet of the bytes collected, or discards and counts it when the ring is full or the queue off; other writes collect; one
that an atomic holds up waits; overflow packets move back in order with the bytes that their region holds; a completion record goes to
the host, or to the bridge that sends it on, when its ring has room and writes to the host can leave; DoneHead moves within what was
written. -/
def Claims.WorkQueues : Prop :=
  let reaches (s : State) (i : Instr) : Prop := s.hostWaits i = false ∧ s.barOpen = true ∧ s.bring.screed = true
  (∀ (s : State) q off ns, s.args = q :: off :: ns → q < 65536 → ns.length ≤ 512 → reaches s .wqWindowWrite → let bs : List Byte := ns.map fun n => BitVec.ofNat 8 n
    let ends := off ≤ 63 ∧ 63 < off + ns.length; let w := s.wq q; let full := s.wqEntries q ≤ w.tail - w.head
    let buf (n : Nat) : Byte := if off ≤ n ∧ n < off + ns.length then bs.getD (n - off) 0 else w.buf.getD n 0
    let k := (s.hbmLoc (s.wqRing q + 64 * (w.tail % s.wqEntries q))).key
    (s.wqEnabled q = true → ends → ¬full → (∃ g ∈ granulesOf k 64 allBytes, s.granQ g ≠ []) →
      Happens .wqWindowWrite s (s.holdHost .wqWindowWrite)) ∧
    (s.wqEnabled q = true → ends → ¬full → s.gran = [] → ∃ t : State, Happens .wqWindowWrite s t ∧ (∀ n < 64, t.byte (k + n) = buf n) ∧
      (∀ a, a < k ∨ k + 64 ≤ a → t.byte a = s.byte a) ∧
      t.wq q = { w with buf := List.replicate 64 0, tail := w.tail + 1, since := w.since ++ [s.screedNow] }) ∧
    (s.wqEnabled q = true → ¬ends → ∃ t : State, Happens .wqWindowWrite s t ∧ t.mem = s.mem ∧ (t.wq q).tail = w.tail ∧
      (t.wq q).head = w.head ∧ ∀ n < 64, (t.wq q).buf.getD n 0 = buf n) ∧
    ((s.wqEnabled q = false ∨ full) → ends → ∃ t : State, Happens .wqWindowWrite s t ∧ t.mem = s.mem ∧ (t.wq q).tail = w.tail ∧
      bitsOf (t.wqCfg q) 32 32 = min (2 ^ 32 - 1) (bitsOf (s.wqCfg q) 32 32 + 1) ∧
      bitsOf (t.wqCfg q) 0 32 = bitsOf (s.wqCfg q) 0 32) ∧
    (s.wqEnabled q = false → ¬ends → Happens .wqWindowWrite s s)) ∧
  (∀ s, ∀ i ∈ [Instr.wqWindowWrite, .doneHeadWrite], s.hostWaits i = false → (s.barOpen = false ∨ s.bring.screed = false) →
    Happens i s s) ∧
  (∀ s p rest, s.ovf = p :: rest → (s.devQ.length < 4096 → Happens .deviceOverflowRefill s { s with
      devQ := s.devQ ++ [{ p with bytes := s.bytesAt (s.hbmLoc p.spill).key 64 }], ovf := rest }) ∧
    (4096 ≤ s.devQ.length → Happens .deviceOverflowRefill s s)) ∧
  (∀ (s : State) c, let q := s.arg 0; let k := s.wqDoneTail q; let n := s.wqDoneEntries q
    let full := (k + 2 ^ 32 - s.wqDoneHead q) % 2 ^ 32 = n
    (s.completions.find? fun c => c.queue == q) = some c → c.vector < 2048 → (c.sent = true → Happens .completionRecordWrite s s) ∧
    (¬full → s.hostWrites = true → c.sent = false → s.groupSlot ≠ 0 → Happens .completionRecordWrite s
      (({ s with completions := { c with sent := true } :: s.completions.erase c } : State).toPod s.bridge 0
        ([13, BitVec.ofNat 8 (q % 4)] ++ leBytes (q + 1) 4 ++ leBytes (s.wqDone q + 16 * (k % n)) 8 ++ c.bytes))) ∧
    (¬full → s.hostWrites = true → c.sent = false → s.groupSlot = 0 → ∃ t : State, Happens .completionRecordWrite s t ∧
      .hostWrite (q % 4) (s.wqDone q + 16 * (k % n)) c.bytes ∈ t.outputs ∧ t.completions = s.completions.erase c ∧
      t.wqDoneTail q = (k + 1) % 2 ^ 32 ∧ t.wqDoneHead q = s.wqDoneHead q) ∧
    ((full ∨ s.hostWrites = false) → Happens .completionRecordWrite s s)) ∧
  ∀ s, let q := s.arg 0 % 65536; let v := s.arg 1 % 2 ^ 32; let d (n : Nat) : Nat := (n + 2 ^ 32 - s.wqDoneHead q) % 2 ^ 32
    reaches s .doneHeadWrite → s.arg 0 < 65536 → (d v ≤ d (s.wqDoneTail q) → ∃ t : State, Happens .doneHeadWrite s t ∧ t.wqDoneHead q = v ∧
        t.wqDoneTail q = s.wqDoneTail q) ∧
      (d (s.wqDoneTail q) < d v → Happens .doneHeadWrite s s)

/-- From R399, R401, R402, R404, R405, R415 to R418: the scheduler takes an offer of the highest effective priority, the next in turn
among equals; a packet that fails its checks gives its record, one that passes waits for a number, and a kind-2 packet becomes a task of
its parent; a Serial packet waits for the launch before it; a launch that starts has a free number and its entry task; it ends when no
table and no batch in flight holds a pointstamp that reaches a time up to FinalTime, retires when no pointstamp is left, and aborts when
its threads are gone. -/
def Claims.LaunchLife : Prop :=
  (∀ (s : State) n pr p, s.bestOffer = some (n, pr, p) → let turn (m : Nat) : Nat := (m + 65537 - s.rrNext) % 65537
    let s' : State := { s.takePacket p with rrNext := (n + 1) % 65537 }; let v := field p.bytes 2 2
    let st := field p.bytes 7 1; let tm := word (field p.bytes 24 8); let gone := s.ctxValid p.ctx = false
    (n, pr, p) ∈ s.offers ∧ (∀ o ∈ s.offers, o.2.1 ≤ pr ∧ (o.2.1 = pr → turn n ≤ turn o.1)) ∧
    (p.device = true → s'.devQ = s.devQ.erase p) ∧ (p.device = false → (s'.wq p.queue).head = (s.wq p.queue).head + 1) ∧
    ((p.device = true → field p.bytes 0 1 ≠ 2) →
      (∀ l t, s'.checkLaunch p = .ok (l, t) →
        Happens .launchArbitration s { s' with waiting := s.waiting ++ [⟨p, { l with eff := pr, first := (t.stage, t.time) }, t⟩] }) ∧
      ∀ st, s'.checkLaunch p = .error st → ∃ u : State, Happens .launchArbitration s u ∧
        u.completions = s.completions ++ [⟨p.queue, recordBytes (field p.bytes 56 4) (if p.device then 0xFFFF else p.queue) st.code 0xFFFF,
          (field p.bytes 1 1).testBit 0 && decide (v < 2048), v, false⟩] ∧
        (p.device = false → (u.wq p.queue).prev = none ∧ (u.wq p.queue).head = (s.wq p.queue).head + 1) ∧
        u.waiting = s.waiting ∧ u.mem = s.mem) ∧
    (p.device = true → field p.bytes 0 1 = 2 → (s.launch p.parent).active = true → (s.launch p.parent).aborted = false →
      (s.ctxValid p.ctx = true → ∃ u : State, ∃ t, Happens .launchArbitration s u ∧ u.spawned = s.spawned ++ [t] ∧ t.ctx = p.ctx ∧
        t.launch = p.parent ∧ t.entry = word (field p.bytes 8 8) ∧ t.stage = field p.bytes 7 1 ∧ t.time = word (field p.bytes 24 8) ∧
        t.args = [word (field p.bytes 40 8), word (field p.bytes 48 8)] ∧ t.place.kind = field p.bytes 6 1) ∧
      (gone → s.countRoom p.origin p.parent st tm = true → Happens .launchArbitration s (s'.count p.origin p.parent st tm (-1)))) ∧
    (p.device = true → field p.bytes 0 1 = 2 → gone → s.childRoom p = false → Happens .launchArbitration s s)) ∧
  (∀ (s : State) q, let w := s.wq q; let bs := s.bytesAt (s.hbmLoc (s.wqRing q + 64 * (w.head % s.wqEntries q))).key 64
    (field bs 1 1).testBit 1 = true → w.prev ≠ none → s.hostHead q = none) ∧
  (∀ tag q st n, tag < 2 ^ 32 → q < 2 ^ 16 → st < 256 → n < 2 ^ 16 → let r := recordBytes tag q st n
    r.length = 16 ∧ field r 0 4 = tag ∧ field r 4 2 = q ∧ field r 6 1 = st ∧ field r 7 1 = 0 ∧ field r 8 2 = n ∧ field r 10 6 = 0) ∧
  (∀ (s : State) w, s.waiting[s.arg 0]? = some w → s.freeNumbers ≠ [] → (∀ r ∈ w.l.ringsOf, (s.ring r).enabled = false) →
    s.countRoom 2048 0 64 0 = true → ∃ t : State, ∃ n,
    Happens .launchNumberTaken s t ∧ n ∈ s.freeNumbers ∧ t.launch n = w.l ∧ t.waiting = s.waiting.eraseIdx (s.arg 0) ∧
    t.spawned = s.spawned ++ [{ w.entry with launch := n }] ∧ (w.l.device = false → (t.wq w.l.queue).prev = some n)) ∧
  (∀ (s : State), let n := s.arg 0; let l := s.launch n; let live := l.active = true ∧ l.ended = false ∧ l.aborted = false
    let early (ds : List Delta) : Prop := ∃ d ∈ ds, d.launch = n ∧ (l.final = noTime ∨ ∃ st < l.stages.length, ∃ r,
      l.reach d.stage d.time st = some r ∧ r ≤ l.final)
    let under (src : Nat) : Prop := ∃ m ∈ s.net, ∃ b ds, m.2 = .batch src b ds
    (live → s.passed n = true → ∃ t : State, Happens .launchEnd s t ∧ (t.launch n).ended = true ∧
      t.completions = s.completions ++ [⟨l.queue, recordBytes l.tag (if l.device then 0xFFFF else l.queue) 0 n, l.intr, l.vector, false⟩] ∧
      (l.device = false → (s.wq l.queue).prev = some n → (t.wq l.queue).prev = none)) ∧
    (s.passed n = false → Happens .launchEnd s s) ∧
    (s.passed n = true ↔ ¬early s.pkgTimes ∧ (∀ z < 9, ¬early (FMap.get [] s.dieTimes z) ∧ ¬under z) ∧
      ∀ p ∈ s.quads, p.1 / 64 < 9 → ¬early (s.quad p.1).times ∧ ¬under (16 + p.1))) ∧
  (∀ (s : State), let n := s.arg 0; let l := s.launch n
    (l.active = true → l.ended = true → s.stamps n = [] → ∃ t : State, Happens .launchRetire s t ∧ t.launch n = {} ∧
      (∀ p ∈ t.rings, p.2.enabled = true → p.2.launch ≠ n) ∧ ∀ p ∈ t.groupLaunch, p.2 ≠ n) ∧
    (s.stamps n ≠ [] → Happens .launchRetire s s)) ∧
  ∀ (s : State), let n := s.arg 0; let l := s.launch n
    (s.arg 1 = 2 → Happens .launchAbort s (s.corrected 0x1A800 0)) ∧
    (l.active = true → l.ended = false → s.arg 1 ≠ 1 → s.arg 1 ≠ 2 → s.holders n = [] → ∃ t : State, Happens .launchAbort s t ∧
      (t.launch n).aborted = true ∧ (t.launch n).ended = true ∧ (∀ x ∈ t.spawned, x.launch ≠ n) ∧ (∀ x ∈ t.away, x.thr.launch ≠ n) ∧
      (l.recorded = false → t.completions = s.completions ++
        [⟨l.queue, recordBytes l.tag (if l.device then 0xFFFF else l.queue) 6 n, l.intr, l.vector, false⟩]))

/-- Work queues and the life of a launch. These are the model's own choices: the number taken is any free one, log entry 64; a kind-2
packet of a context that is no longer valid is dropped and its count undone, log entry 104; a failed packet's record raises its vector
too, log entry 66; the effective priority is that with which the packet was taken, log entry 42; overflow bytes stand in, and are read
back from, a physical region, log entry 38; what waits for the host port or its turn, and the record that goes by the bridge, log entries
116 and 132. -/
def Obligations.LaunchesLive : Prop :=
  Claims.WorkQueues ∧ Claims.LaunchLife

/-- From R59, R235, R339, R406, R407, R409, R410, R422, R463: a task goes to the dispatcher of its layer while that has room, to the pool
of a candidate core with the fewest entries, where it takes its handle (an entry task of a launch with roles once for each pinned slot),
and by the pool's order into a slot, where it starts at its entry with its arguments, its time and zeros beside; a thread that returns
goes on as its save record says, in the partition mode of its save; a parked thread leaves its slot for a save record, whose first words
are its registers, 64 cycles after its swap begins. These are the model's own choices: the room of the runtime's overflow area, log entry
112; that an entry task becomes several, one for each pinned slot, as the pool takes it, log entry 45; that a returning thread waits for
its mode, log entry 117; and what becomes of a thread whose wait ends while it is being swapped out, log entry 127. -/
def Obligations.TasksReachSlots : Prop :=
  (∀ (s : State) t, s.spawned[s.arg 0]? = some t → let z := s.layerOf t; let ts := FMap.get [] s.dispatch z
    (ts.length < Config.taskArea + 4096 → Happens .taskToDieDispatcher s { s with
      spawned := s.spawned.eraseIdx (s.arg 0), dispatch := FMap.set s.dispatch z (ts ++ [t]) }) ∧
    (Config.taskArea + 4096 ≤ ts.length → Happens .taskToDieDispatcher s s)) ∧
  (∀ (s : State) t c, let z := s.arg 0; let ts := FMap.get [] s.dispatch z; let l := s.launch t.launch
    let cs := (placeCores z t.place).filter (s.candidate l); let k := s.core c
    let pins : List (Nat × Nat) := if t.first && isTile c then l.rolePins else []; let room := k.pool.length + max 1 pins.length ≤ 64
    s.arg 1 < 4096 → ts[s.arg 1]? = some t → s.emptiest cs = some c →
    c ∈ cs ∧ (∀ d ∈ cs, (s.core c).pool.length ≤ (s.core d).pool.length) ∧
    (pins = [] → room → let n := (k.serial + 1) % 2 ^ 48; ∃ u : State, Happens .taskToCorePool s u ∧ (u.core c).serial = n ∧
      (u.core c).pool = k.pool ++ [.new { t with taskh := word (c * 2 ^ 52 + n) }] ∧
      u.dispatch = FMap.set s.dispatch z (ts.eraseIdx (s.arg 1))) ∧
    (pins ≠ [] → room → (∀ p ∈ pins, FMap.find p.1 k.pins = none ∧ s.outOf c p.1 = false) → ∃ u : State, Happens .taskToCorePool s u ∧
      (u.core c).pool = k.pool ++ pins.mapIdx (fun j p =>
        .new { t with role := p.2, taskh := word (c * 2 ^ 52 + (k.serial + 1 + j) % 2 ^ 48) }) ∧
      u.dispatch = FMap.set s.dispatch z (ts.eraseIdx (s.arg 1))) ∧
    ((¬room ∨ ∃ p ∈ pins, FMap.find p.1 k.pins ≠ none ∨ s.outOf c p.1 = true) → Happens .taskToCorePool s s)) ∧
  (∀ (s : State) e i, let c := s.arg 0; let pick := (s.poolOrder c).findSome? fun e => (s.slotFor c e).map fun i => (e, i)
    let alone (x : Nat) : Prop := ∀ d < 64, d ≠ x → (s.skim d c i).onCore = []
    pick = some (e, i) →
    (∀ t, e = .new t → alone t.ctx → ∃ u : State, Happens .taskPlacedInSlot s u ∧ (u.core c).pool = (s.core c).pool.erase e ∧
      let x := u.thrAt c i
      x.st = .running ∧ x.pc = t.entry ∧ x.ctx = t.ctx ∧ x.launch = t.launch ∧ x.ctl.taskh = t.taskh ∧ x.ctl.ltime = t.time ∧
      x.rt = s.ctxRuntime t.ctx ∧ stageOf x.ctl = t.stage % 64 ∧ (∀ n < 24, x.gr n = if n < 6 then t.args.getD n 0 else 0) ∧
      (t.light = false → ∀ v < 128 / (s.core c).mode, FMap.get 0 (u.core c).rows (rowOf (s.core c).mode i v) = 0)) ∧
    ∀ r t f, e = .back i r t f → t.restart = false → alone t.ctx → NoReads s → (s.areaKey t.ctx r.toNat).isSome = true →
      (s.areaKey t.ctx (r.toNat + 1016)).isSome = true → let at_ (off : Nat) : Word := word (s.areaNat t.ctx (r.toNat + off) 8)
      t.savedMode = (s.core c).mode ∧ ∃ u : State, Happens .taskPlacedInSlot s u ∧
      (u.core c).pool = (s.core c).pool.erase e ∧ let x := u.thrAt c i
      x.pc = at_ 192 ∧ (∀ n < 24, x.gr n = at_ (8 * n)) ∧ x.pw = (at_ 200).setWidth 16 ∧ (∀ n < 7, x.kr (n + 1) = at_ (208 + 8 * n)) ∧
      x.ctl.status = at_ 264 ∧ x.ctl.qmap = at_ 328 ∧ x.ctl.ltime = at_ 336 ∧ x.ctl.stage = at_ 344 ∧ x.ctl.taskh = at_ 376 ∧
      x.ctx = t.ctx ∧ x.launch = t.launch ∧ x.rt = t.rt ∧ x.st = (if t.st = .stalled then .running else t.st) ∧
      (t.light = false → ∀ v < 128 / (s.core c).mode, FMap.get 0 (u.core c).rows (rowOf (s.core c).mode i v) =
        BitVec.ofNat 512 (s.areaNat t.ctx (r.toNat + 1024 + 64 * v) 64))) ∧
  (∀ (s : State) i, let c := s.arg 0; let t := s.thrAt c i; let k := s.core c
    (k.leaving = none → s.swapSlot c = some i → (∃ n, t.parkedAt = some n ∧ n + 256 ≤ s.cycle) ∧ t.windows = [] ∧
      Happens .parkedThreadSwapOut s (s.modCore c fun k => { k with leaving := some (i, t.ctl.taskh, s.cycle + 64) })) ∧
    ∀ n, k.leaving = some (i, t.ctl.taskh, n) → t.st ≠ .empty →
      (s.cycle < n → Happens .parkedThreadSwapOut s s) ∧
      (n ≤ s.cycle → (t.parkedAt ≠ none ∨ k.pool.length < 64) →
        (s.takeFree t.ctx 0 (some t.ctl.taskh.toNat) = none → Happens .parkedThreadSwapOut s s) ∧
        ((s.takeFree t.ctx 0 (some t.ctl.taskh.toNat)).isSome = true → NoReads s → ∃ u : State, ∃ r, Happens .parkedThreadSwapOut s u ∧
          (u.thrAt c i).st = .empty ∧ (u.core c).leaving = none ∧ let x := { t with mops := [], savedMode := k.mode }
          (t.parkedAt ≠ none → u.away = s.away ++ [⟨c, i, r, x, false⟩] ∧ (u.core c).pool = k.pool) ∧
          (t.parkedAt = none → u.away = s.away ∧ (u.core c).pool = k.pool ++ [.back i r x true])))) ∧
  ∀ t k, let ws := recordWords t k
    ws.length = 128 ∧ (∀ n < 24, ws[n]? = some (t.gr n)) ∧ ws[24]? = some t.pc ∧ ws[25]? = some (t.pw.setWidth 64) ∧
    (∀ n < 7, ws[26 + n]? = some (FMap.get 0 t.k (n + 1))) ∧ ws[33]? = some t.ctl.status ∧ ws[41]? = some t.ctl.qmap ∧
    ws[42]? = some t.ctl.ltime ∧ ws[43]? = some t.ctl.stage ∧ ws[47]? = some t.ctl.taskh ∧ ws[50]? = some k.base ∧
    ws[51]? = some k.lim ∧ ws[52]? = some t.ctl.faultrec ∧ ws[69]? = some (recordFlags t)

/-- From R51, R61, R160, R164, R170, R410, R413, R419, R431, R434, R468, R469: a parked thread whose wait is over runs again in its slot, or
comes back to the pool when it was out, and one that cannot come back yet keeps what its service gave it; the watchdog sends its notice
and moves a thread that may be moved; faults that waited for a record are delivered, errors of registers are counted and delivered, and
words of queues, stacks and messages marked; a replay goes on when the runtime returns its record, and a refusal suspends the thread. -/
def Claims.WaitsEnd : Prop :=
  (∀ s : State, let c := s.arg 0; let i := s.arg 1; let t := s.thrAt c i
    (∀ w n, t.st = .parked w n → s.waitOver c t = true → ∃ u : State, Happens .parkedWaitSatisfied s u ∧ u.mem = s.mem ∧
      (u.thrAt c i).st = .running ∧ (u.thrAt c i).pc = t.pc ∧ (∀ k, w = .service k → (u.thrAt c i).gr 0 = word (s.arg 2) ∧
        (u.thrAt c i).gr 1 = word (s.arg 3)) ∧ ((∀ k, w ≠ .service k) → (u.thrAt c i).g = t.g)) ∧
    (∀ a, t.st = .empty →
      (s.away.find? fun a => a.core == c && a.slot == i && (!a.preempted || a.thr.inService) && s.waitOver c a.thr) = some a →
      let back := a.preempted = false ∧ (s.core c).pool.length < 64
      (back → (a.thr.inService = true → NoReads s) → ∃ u : State, Happens .parkedWaitSatisfied s u ∧ u.away = s.away.erase a ∧
        ∃ x, (u.core c).pool = (s.core c).pool ++ [.back i a.frec x true] ∧ x.st = .running ∧ x.pc = a.thr.pc ∧
          (a.thr.inService = true → x.gr 0 = word (s.arg 2) ∧ x.gr 1 = word (s.arg 3)) ∧ (a.thr.inService = false → u.mem = s.mem)) ∧
      (¬back → a.thr.inService = true → NoReads s → ∃ u : State, Happens .parkedWaitSatisfied s u ∧ (u.core c).pool = (s.core c).pool ∧
        ∃ x, u.away = (s.away.map fun b => if b == a then { b with thr := x } else b) ∧ x.st = .running ∧ x.pc = a.thr.pc ∧
          x.gr 0 = word (s.arg 2) ∧ x.gr 1 = word (s.arg 3)) ∧
      (¬back → a.thr.inService = false → Happens .parkedWaitSatisfied s s))) ∧
  (∀ (s s1 : State), let c := s.arg 0; let i := s.arg 1; let t := s.thrAt c i
    let fixed := t.light = true ∨ i + 1 = (s.core c).mode ∨ FMap.find i (s.core c).pins ≠ none
    t.st ≠ .empty → t.heldDog = false → t.dogPer ≠ 0 → t.dog + 2 ^ t.dogPer ≤ s.cycle →
    s.notice c i t { cause := .watchdog } t.ctl.taskh = some s1 →
    (fixed → s1.cycle = s.cycle → ∃ u : State, Happens .watchdog s u ∧ (u.thrAt c i).pc = t.pc ∧ (u.thrAt c i).dog = s.cycle ∧
      (u.thrAt c i).st = t.st) ∧
    let free := s1.takeFree t.ctx 0 (some t.ctl.taskh.toNat)
    (¬fixed → (t.windows ≠ [] ∨ (s.core c).modeNext ≠ none ∨ free = none) → ∃ u : State, Happens .watchdog s u ∧
      (u.thrAt c i).heldDog = true ∧ (u.thrAt c i).pc = t.pc) ∧
    (¬fixed → t.windows = [] → (s.core c).modeNext = none → free.isSome = true →
      ∃ u : State, Happens .watchdog s u ∧ ((u.thrAt c i).st = .empty ∨ (u.thrAt c i).ctx ≠ t.ctx) ∧
        ∃ r x, .back i r x false ∈ (u.core c).pool ∧ x.pc = t.pc ∧ x.g = t.g ∧ x.pw = t.pw ∧ x.k = t.k ∧
          x.ctl.taskh = t.ctl.taskh ∧ x.st = t.st)) ∧
  (∀ s : State, let c := s.arg 0; let i := s.arg 1; let t := s.thrAt c i
    (∀ f, (s.arg 2 = 0 ∨ 5 < s.arg 2) → t.fault = some f → Happens .handlerFaultDelivery s (s.deliver c i f t.pc)) ∧
    (s.arg 2 = 2 → Happens .handlerFaultDelivery s (s.corrected (regsCount c) c)) ∧
    (s.arg 2 = 1 → t.st = .running → Happens .handlerFaultDelivery s
      ((((s.uncorrected (regsCount c)).unissue c t).setThrAt c i t.unissued).deliver c i { cause := .memError } t.pc)) ∧
    (s.arg 2 = 1 → t.st ≠ .running → Happens .handlerFaultDelivery s s) ∧
    let e := s.arg 3; let w := s.arg 4
    (s.arg 2 = 3 → e < (s.queue c i).items.length → ∃ u : State, Happens .handlerFaultDelivery s u ∧
      (u.queue c i).items = (s.queue c i).items ∧ ((u.queue c i).marks.getD e 0).testBit (w % 8) = true) ∧
    (s.arg 2 = 4 → (∃ v, (e, v) ∈ (s.skim t.ctx c i).onCore) → ∃ u : State, Happens .handlerFaultDelivery s u ∧
      (u.skim t.ctx c i).onCore = (s.skim t.ctx c i).onCore ∧ (FMap.get 0 (u.skim t.ctx c i).bad e).testBit (w % 12) = true) ∧
    (s.arg 2 = 5 → (∃ m, (e, m) ∈ s.net) → ∃ u : State, Happens .handlerFaultDelivery s u ∧ u.net = s.net ∧
      (FMap.get 0 u.netMarks e).testBit (w % 8) = true)) ∧
  ∀ s : State, let c := s.arg 0; let i := s.arg 1; let t := s.thrAt c i; ∀ r n, t.st = .parked (.replay r) n → r ≠ 0#64 →
    (NoReads s → ∃ u : State, Happens .faultReplay s u ∧ (u.thrAt c i).st = .running ∧ (u.thrAt c i).pc = t.pc ∧ (u.thrAt c i).g = t.g) ∧
    (t.handles = true ∨ s.handlerRoom c t = true →
      ∃ u : State, Happens .faultRefused s u ∧ (u.thrAt c i).st = .parked (.suspended r) s.cycle ∧ (u.thrAt c i).pc = t.pc ∧
        (s.ctxHandler t.ctx = 0#64 → ∃ q, FMap.get [] u.faultQ q = FMap.get [] s.faultQ q ++ [r])) ∧
    (t.handles = false → s.handlerRoom c t = false → Happens .faultRefused s s)

/-- From R274, R421 to R426, R463: pre-emption takes a context's threads out of a core whole and leaves every other thread as it was;
eviction leaves the core's part of the context in its image, marks its home records as out and takes back its granules; restoration,
in the partition mode of the save and in no other, brings the image back and returns every thread that was taken to the pool, or, one
that had been arriving, to its way; it waits while the core's home records leave no room, or a queue stands where a granule returns. -/
def Claims.ContextsLeaveAndReturn : Prop :=
  (∀ s : State, let x := s.arg 0; let c := s.arg 1
    NoReads s → (∀ i < 8, (s.thrAt c i).speculative = false) → ∃ u : State, Happens .preemptContext s u ∧
      x ∈ (u.core c).out ∧ (∀ d i, d ≠ c → (u.thrAt d i) = s.thrAt d i) ∧ (∀ w ∈ (u.core c).arrival, w ∈ (s.core c).arrival) ∧
      ∀ i < 8, let t := s.thrAt c i
        (u.thrAt c i) = t ∨ (t.ctx = x ∧ t.windows = [] ∧ (u.thrAt c i).st = .empty ∧
          ∃ a ∈ u.away, a.core = c ∧ a.slot = i ∧ a.preempted = true ∧ a.thr.pc = t.pc ∧ a.thr.g = t.g ∧ a.thr.k = t.k ∧
            a.thr.ctl = t.ctl ∧ a.thr.st = t.st ∧ a.thr.savedMode = (s.core c).mode)) ∧
  (∀ (s : State) img, let x := s.arg 0; let c := s.arg 1; let k := s.core c
    x ∈ k.out → (∀ p ∈ k.slots, p.2.st = .empty ∨ p.2.ctx ≠ x) → (∀ w ∈ k.arrival, w.thr.ctx ≠ x) →
    (∀ o ∈ k.mq, o.ctx ≠ x) → FMap.find (x * 4096 + c) s.coreImgs = some img →
    (s.args.length = 2 → (∀ g < 192, s.grantee c g ≠ some x) → img.saved = false → ∃ u : State, Happens .evictContext s u ∧
      (u.core c).tabOwner ≠ some x ∧ (∀ r ∈ (u.core c).homes, r.ctx = x → r.out = true) ∧ (∀ p ∈ (u.core c).matches_, p.2.ctx ≠ x) ∧
      ∃ img', FMap.find (x * 4096 + c) u.coreImgs = some img' ∧ img'.saved = true ∧ img'.addr = img.addr ∧
        ∀ n < 4, ∀ sl, k.accSlot n = some sl → (sl ∈ s.slotsOf c x ∨ FMap.find sl k.slotCtx = some x) →
          FMap.get 0 img'.bptr n = FMap.get 0 k.bptr n ∧ ∀ e < 4096, FMap.get 0 (FMap.get [] img'.acc n) (4096 * n + e) = k.accAt n e) ∧
    ∀ gran a, s.args = [x, c, gran, a] → gran < 192 → c < 2048 → s.grantee c gran = some x →
      (∀ g < 192, s.grantee c g = some x → g = gran) → s.copyIn x c gran = false → s.gran = [] →
      ∃ u : State, Happens .evictContext s u ∧ u.grantee c gran = none ∧ FMap.find (imageKey x c gran) u.images = some (word a)) ∧
  ∀ s : State, let x := s.arg 0; let c := s.arg 1; let k := s.core c
    let may := x ∈ k.out ∧ k.modeNext = none ∧ ∀ a ∈ s.away, a.of c x = true → a.thr.savedMode = k.mode
    let busy := ∃ g < 192, ∃ a, FMap.find (imageKey x c g) s.images = some a ∧ s.granuleBusy x (granKey c g) a.toNat = true
    (may → (k.homesFit x = false ∨ busy) → Happens .restoreContext s (s.ask .restoreContext)) ∧
    (may → k.homesFit x = true → ¬busy → NoReads s → ∃ u : State, Happens .restoreContext s u ∧ x ∉ (u.core c).out ∧ (∀ a ∈ u.away, a.of c x = false) ∧
      (∀ a ∈ s.away, a.of c x = true → a.slot ≠ 8 → .back a.slot a.frec a.thr true ∈ (u.core c).pool) ∧
      (∀ a ∈ s.away, a.of c x = true → a.slot = 8 → ∃ m ∈ u.net, ∃ w, m.2 = .walk w ∧ w.target = c ∧ w.thr.ctx = x) ∧
      (∀ r ∈ (u.core c).homes, r.ctx = x → r.out = false) ∧
      ∀ img n m, FMap.find (x * 4096 + c) s.coreImgs = some img → img.saved = true → img.acc = [(n, m)] → (m.map Prod.fst).Nodup →
        ∀ e < 4096, (u.core c).accAt n e = FMap.get 0 m (4096 * n + e)) ∧
    (¬may → Happens .restoreContext s s)

/-- Waits end, contexts leave and return. These are the model's own choices: what is kept beside a record or an image, log entry 38; that a
restore does nothing in another mode than that of the save, and what a waiting change of mode holds up, log entry 117; that a refused
fault waits for room for its handler's count, log entry 87. -/
def Obligations.ThreadsResume : Prop :=
  Claims.WaitsEnd ∧ Claims.ContextsLeaveAndReturn

/-- From R31, R443, R444, R445, R447: a request of the host waits while its port carries none, and behind those of its service core;
configuration space reads its fixed and kept bits and a write sets those of the enabled bytes that it may and clears the error bits
written as 1, but for a power state that the function does not have; a memory access through a BAR4 entry reads or writes its bytes, goes
to the cube of the entry's slot, is refused without an entry, beyond its size or while the BARs are closed, and is counted when it faults;
an error that a request meets is logged; requests for other cubes of the group are forwarded and served; what is for the host leaves, or
waits in order until it can. -/
def Claims.HostAccesses : Prop :=
  (∀ s : State, let waits (i : Instr) : Prop := s.hostShut = true ∨ ∃ e ∈ s.hostIn, serviceOf e = serviceOf (i, s.args)
    (∀ i ∈ [Instr.hostConfigAccess, .bar4MemoryAccess, .wqWindowWrite, .doneHeadWrite], waits i →
      Happens i s { s with hostIn := s.hostIn ++ [(i, s.args)] }) ∧
    (s.arg 0 = 2 ∨ s.arg 0 = 4 → waits .controlWindowWrite →
      Happens .controlWindowWrite s { s with hostIn := s.hostIn ++ [(.controlWindowWrite, s.args)] })) ∧
  (∀ s : State, s.hostWaits .hostConfigAccess = false → let tag := s.arg 0; let off := s.arg 2; let be := s.arg 3
    let value (b : Nat) : Bool := if be.testBit (b / 8) then (s.arg 4).testBit b else (s.cfgRead off).testBit b
    ((2 ≤ s.arg 1 ∨ off % 4 ≠ 0 ∨ 4096 ≤ off) → Happens .hostConfigAccess s (s.answer tag 1 [])) ∧
    (off % 4 = 0 → off < 4096 → s.arg 1 = 0 → Happens .hostConfigAccess s (s.answer tag 0 (leBytes (s.cfgRead off) 4))) ∧
    s.cfgRead 0 = 0x0ED87A5C ∧
    (off % 4 = 0 → off < 4096 → s.arg 1 = 1 → ∃ t : State, Happens .hostConfigAccess s t ∧ t.mem = s.mem ∧
      (off ≠ 0x44 ∨ value 0 = value 1 → ∀ b < 32, (t.cfgRead off).testBit b = if (cfgMask off).testBit b && be.testBit (b / 8) then
        (s.arg 4).testBit b || (cfgFixed off).testBit b else if (cfgClear off).testBit b && be.testBit (b / 8) then
        (s.cfgRead off).testBit b && !(s.arg 4).testBit b else (s.cfgRead off).testBit b) ∧
      (off = 0x44 → value 0 ≠ value 1 → ∀ o, t.cfgRead o = s.cfgRead o))) ∧
  (∀ s : State, s.hostWaits .bar4MemoryAccess = false → let e := s.cwGet (0x100 + 8 * (s.arg 2 % 64)); let n := s.arg 4
    let write := s.arg 1 = 1; let slot := bitsOf e 56 4; let sent := s.groupSlot ≠ 0 ∧ 64 ≤ s.arg 2
    let ctx := if s.groupSlot ≠ 0 ∧ 64 ≤ s.arg 2 then s.arg 2 / 64 - 1 else bitsOf e 48 6
    let ea := if s.groupSlot ≠ 0 ∧ 64 ≤ s.arg 2 then s.arg 3 else bitsOf e 30 17 * 2 ^ 30 + s.arg 3 % 2 ^ 30
    let open_ := s.barOpen = true ∧ s.bring.screed = true ∧ (sent ∨ e.getLsbD 63 = true) ∧ (write → n ≤ 512) ∧ (¬write → n ≤ 4096)
    let mine := open_ ∧ (sent ∨ slot = s.groupSlot)
    let ops := [s.arg 0, s.arg 1, s.arg 2 % 64 + 64 * (ctx + 1), ea, n] ++ s.args.drop 5
    ((¬open_ ∨ (¬mine ∧ s.groupSlot ≠ 0)) → (write → Happens .bar4MemoryAccess s s.badPost) ∧
      (¬write → Happens .bar4MemoryAccess s (s.answer (s.arg 0) 1 []))) ∧
    (open_ → ¬mine → s.groupSlot = 0 → (write → Happens .bar4MemoryAccess s (s.forwardPost slot 1 ops)) ∧
      (¬write → Happens .bar4MemoryAccess s (s.forwardRead (s.slotCube slot) 1 (s.arg 0) ops))) ∧
    (mine → s.hostKeys ctx ea n (decide write) = none →
      (write → ∃ t : State, Happens .bar4MemoryAccess s t ∧ t.mem = s.mem ∧
        (t.cwGet 0x308).toNat = min (2 ^ 32 - 1) ((s.cwGet 0x308).toNat + 1)) ∧
      (¬write → ∃ s' : State, Happens .bar4MemoryAccess s (s'.answer (s.arg 0) 4 []) ∧ s'.mem = s.mem ∧
        (s'.cwGet 0x300).toNat = min (2 ^ 32 - 1) ((s.cwGet 0x300).toNat + 1))) ∧
    (∀ ks, mine → s.hostKeys ctx ea n (decide write) = some ks →
      let held := ∃ k ∈ ks, ∃ g ∈ granulesOf k.1 k.2.2 (lowBytes k.2.2), s.granQ g ≠ []
      (held → Happens .bar4MemoryAccess s { s with hostIn := s.hostIn ++ [(.bar4MemoryAccess, s.args)] }) ∧
      (¬held → ¬write → ∃ s' : State, s'.mem = s.mem ∧
        Happens .bar4MemoryAccess s (s'.answer (s.arg 0) 0 (ks.flatMap fun k => s.bytesAt k.1 k.2.2))) ∧
      ∀ k, write → n ≤ 64 → ks = [(k, 0, n)] → s.gran = [] → ∃ t : State, Happens .bar4MemoryAccess s t ∧
        (∀ i < n, t.byte (k + i) = BitVec.ofNat 8 ((s.args.drop 5).getD i 0)) ∧ ∀ a, a < k ∨ k + n ≤ a → t.byte a = s.byte a)) ∧
  (∀ (s : State) slot code tag ops, let part : List Byte := [9, BitVec.ofNat 8 code] ++ ops.flatMap fun n => leBytes n 8
    (∀ cube, s.slotCube slot = some cube → s.forwardPost slot code ops = s.toPod cube 0 part ∧
      s.forwardRead (some cube) code tag ops = s.toPod cube 0 part) ∧
    (s.slotCube slot = none → s.forwardPost slot code ops = s.badPost ∧ s.forwardRead none code tag ops = s.answer tag 1 [])) ∧
  (∀ (s : State) bit posted, (bit = 15 ∨ bit = 20) → let t := s.pciError bit posted
    (t.cfgRead 0x104).testBit bit = true ∧ (bit = 15 → (t.cfgRead 4).testBit 27 = true) ∧ (bit = 20 → (t.cfgRead 0x78).testBit 19 = true) ∧
    t.mem = s.mem) ∧
  (∀ s : State, let cube := s.arg 1; let code := s.arg 2; let ops := s.args.drop 3
    let out := cube < 4096 ∧ (code = 0 ∨ s.barOpen = true)
    (s.arg 0 = 1 → out →
      Happens .hostRequestForward s (s.toPod cube 0 ([9, BitVec.ofNat 8 code] ++ ops.flatMap fun n => leBytes n 8))) ∧
    (∀ i, s.arg 0 = 1 → ¬out → tagAt_ code ops = some i → Happens .hostRequestForward s (s.answer (ops.getD i 0) 1 [])) ∧
    (s.arg 0 = 1 → ¬out → tagAt_ code ops = none → Happens .hostRequestForward s s) ∧
    (s.arg 0 ≠ 1 → tagAt_ code ops = none → Happens .hostRequestForward s { s with agenda := s.agenda ++ [(requestOf code, ops)] }) ∧
    ∀ i, s.arg 0 ≠ 1 → tagAt_ code ops = some i → Happens .hostRequestForward s { s with
      agenda := s.agenda ++ [(requestOf code, ops.set i (ops.getD i 0 % 2 ^ 32 + (cube + 1) * 2 ^ 32))] }) ∧
  (∀ (s : State) tag st d, (tag < 2 ^ 32 → (st = 1 → s.answer tag st d = (s.pciError 20 false).toHost (.completion tag st d)) ∧
      (st = 4 → s.answer tag st d = (s.pciError 15 false).toHost (.completion tag st d)) ∧
      (st ≠ 1 → st ≠ 4 → s.answer tag st d = s.toHost (.completion tag st d))) ∧
    (2 ^ 32 ≤ tag → (s.answer tag st d).outputs = s.outputs ∧ (s.answer tag st d).podOut = s.podOut ++
      [⟨tag / 2 ^ 32 - 1, s.selfCube, 1, 0, [10] ++ leBytes tag 4 ++ [BitVec.ofNat 8 st] ++ d, 0⟩])) ∧
  ∀ (s : State) o, (s.groupSlot = 0 → s.mayLeave o = true → s.toHost o = { s with outputs := o :: s.outputs }) ∧
    (s.groupSlot = 0 → s.mayLeave o = false → s.toHost o = { s with hostQ := s.hostQ ++ [o] }) ∧
    (s.groupSlot ≠ 0 → (s.toHost o).outputs = s.outputs ∧
      (s.toHost o).podOut = s.podOut ++ [⟨s.bridge, s.selfCube, 0, 0, o.forBridge, 0⟩])

/-- From R234, R332, R363, R418, R420, R442, R445, R455, R456, R460, R483, R485, R488, R492: the registers of the control window take
their writes: plain fields as written (a cleared Valid bit takes the context's skim stacks with it), Mode by its rule, Next until the
swap, counts and Trip cleared, a grant that fills a granule with zeros for a new grantee, a request for a region swap, a nonce; a wide
barrier is bound to a network of package, pod or die, which is given its members; the cube gets its group slot; an access of another
slot's window goes to its cube; before the screed has booted a write has no effect; a swap makes Next current and the shadow tables
active. -/
def Claims.ControlWindow : Prop :=
  (∀ (s : State) kind off v, (kind = 0 ∨ kind = 4 ∧ s.barOpen = true ∧ s.hostWaits .controlWindowWrite = false) → s.args = [kind, off, 8, v] → off % 8 = 0 → off < 2 ^ 22 →
    v < 2 ^ 64 → plainMask off ≠ 0 → s.serves off = true →
    ∃ t : State, Happens .controlWindowWrite s t ∧ t.mem = s.mem ∧
      t.cwGet off = (s.cwGet off &&& ~~~word (plainMask off)) ||| (word v &&& word (plainMask off))) ∧
  (∀ (s : State) off n v, s.args = [4, off, n, v] → s.hostWaits .controlWindowWrite = false →
    (s.barOpen = false → Happens .controlWindowWrite s s) ∧
    (s.barOpen = true → ((off < 2 ^ 22 ∧ ((n ≠ 4 ∧ n ≠ 8) ∨ off % n ≠ 0 ∨ s.serves off = false)) ∨ 2 ^ 26 ≤ off) →
      Happens .controlWindowWrite s s.badPost) ∧
    (s.barOpen = true → s.groupSlot = 0 → 2 ^ 22 ≤ off → off < 2 ^ 26 →
      Happens .controlWindowWrite s (s.forwardPost (off / 2 ^ 22) 2 [4, off % 2 ^ 22, n, v]))) ∧
  (∀ (s : State) slot n c, s.args = [5, slot, n, c] → n < 16 → c < 4096 → ∃ t : State, Happens .controlWindowWrite s t ∧
    t.groupSlot = slot % 16 ∧ t.slotCube n = some c ∧ ∀ m, m ≠ n → t.slotCube m = none) ∧
  (∀ (s : State) c, s.args = [0, 0x50000 + 64 * c, 8, 0] → c < 64 → s.bring.screed = true → ∃ t : State,
    Happens .controlWindowWrite s t ∧ t.ctxValid c = false ∧ ∀ k < 4096, ∀ i < 8, t.skim c k i = {}) ∧
  (∀ (s : State) tag off, s.args = [2, tag, off, 8] → off % 8 = 0 → off < 2 ^ 22 → s.serves off = true → s.barOpen = true →
    s.hostWaits .controlWindowWrite = false → Happens .controlWindowWrite s (s.answer tag 0 (leBytes (s.cwLoad off).toNat 8))) ∧
  (∀ (s : State) tag off n, s.args = [2, tag, off, n] → s.hostWaits .controlWindowWrite = false →
    ((s.barOpen = false ∨ (off < 2 ^ 22 ∧ ((n ≠ 4 ∧ n ≠ 8) ∨ off % n ≠ 0 ∨ s.serves off = false)) ∨ 2 ^ 26 ≤ off) →
      Happens .controlWindowWrite s (s.answer tag 1 [])) ∧
    (s.barOpen = true → s.groupSlot = 0 → 2 ^ 22 ≤ off → off < 2 ^ 26 → Happens .controlWindowWrite s
      (s.forwardRead (s.slotCube (off / 2 ^ 22)) 2 tag [2, tag, off % 2 ^ 22, n]))) ∧
  (∀ s : State, s.bring.screed = false → ∀ i ∈ [Instr.portcfgModeWrite, .topoverNextWrite, .podtimeWrite, .bar4CountClear, .stalecntClear,
    .thermstatTripClear, .grantTableWrite, .remapreqGo, .checkpointStart, .restoreStart], Happens i s s) ∧
  (∀ (s : State) c id sc, s.args = [1, c, id, sc] → c < 2560 → 448 ≤ id → id < 512 → ∃ t : State, Happens .controlWindowWrite s t ∧
    (FMap.get {} (t.core c).wide id).bound = if 1 ≤ sc ∧ sc ≤ 3 then some sc else none) ∧
  (∀ (s : State) id sc die cs, s.args = 3 :: id :: sc :: die :: cs → ∃ t : State, Happens .controlWindowWrite s t ∧
    (t.wideNet (netKey id sc die)).members = cs) ∧
  (∀ s : State, s.bring.screed = true → let p := s.arg 0 % 12; let m := s.arg 1 % 4
    let keep := m = s.portMode p ∨ (m = 3 ∧ ∃ q < 12, q ≠ p ∧ s.portMode q = 3)
    (keep → Happens .portcfgModeWrite s s) ∧
    (¬keep → ∃ t : State, Happens .portcfgModeWrite s t ∧ t.portMode p = m ∧ t.inService p = false ∧ (t.port p).full = true ∧
      p ∈ t.ckpt.dropped)) ∧
  (∀ s : State, let w := s.cwGet 0x88
    (w.getLsbD 32 = true → (s.bring.screed = true → Happens .topoverNextWrite s s) ∧ ∃ t : State, Happens .topologySwap s t ∧
      bitsOf (t.cwGet 0x88) 0 16 = bitsOf w 16 16 ∧ (t.cwGet 0x88).getLsbD 32 = false ∧
      ∀ off, swapped off = true → t.topoGet off = s.cwGet off) ∧
    (w.getLsbD 32 = false → Happens .topologySwap s s ∧ (s.bring.screed = true → ∃ t : State, Happens .topoverNextWrite s t ∧
      bitsOf (t.cwGet 0x88) 16 16 = s.arg 0 % 2 ^ 16 ∧ bitsOf (t.cwGet 0x88) 0 16 = bitsOf w 0 16 ∧ (t.cwGet 0x88).getLsbD 32 = true))) ∧
  HappensIf .podtimeWrite (fun s => s.bring.screed = true) (fun s => { s with pod8 := 8 * (s.arg 0 % 2 ^ 64) }) ∧
  (∀ s : State, s.bring.screed = true → (∃ t : State, Happens .bar4CountClear s t ∧ t.cwGet (0x300 + 8 * (s.arg 0 % 2)) = 0#64) ∧
    (∀ n < 2048, s.arg 0 = n → ∃ t : State, Happens .stalecntClear s t ∧
      t.cwGet (staleOff n) = s.cwGet (staleOff n) &&& ~~~word (s.arg 1)) ∧
    ∃ t : State, Happens .thermstatTripClear s t ∧ t.tripped = false ∧ ∀ z < 8, t.throttle z = s.throttle z) ∧
  (∀ s : State, let tile := s.arg 0; let g := s.arg 1; let b := s.arg 2; tile < 2048 → g < 192 → b < 256 →
    s.bring.screed = true → ∃ t : State, Happens .grantTableWrite s t ∧ t.grantee tile g = (if 128 ≤ b then some (b % 64) else none) ∧
      (128 ≤ b → s.grantee tile g ≠ some (b % 64) → FMap.find (imageKey (b % 64) tile g) s.images = none →
        (∀ o < 65536, t.byte (granKey tile g + o) = 0) ∧
        ∀ a, a < granKey tile g ∨ granKey tile g + 65536 ≤ a → t.byte a = s.byte a) ∧
      (b < 128 ∨ s.grantee tile g = some (b % 64) ∨ FMap.find (imageKey (b % 64) tile g) s.images ≠ none → t.mem = s.mem)) ∧
  (∀ s : State, s.bring.screed = true → let w := s.cwGet 0x1300
    (w.getLsbD 63 = true → Happens .remapreqGo s s) ∧ (w.getLsbD 63 = false → ∃ t : State, Happens .remapreqGo s t ∧
      (t.cwGet 0x1300).getLsbD 63 = true ∧ t.swap = some (bitsOf w 20 9, bitsOf w 29 10, bitsOf w 1 9, bitsOf w 10 10))) ∧
  (∀ s : State, ∃ t : State, Happens .attestNonceWrite s t ∧ (s.nonceMask < 256 → t.nonceMask = 255) ∧ t.cwGet 0x40020 = 0#64 ∧
    t.nonce = (List.range 32).map fun i => BitVec.ofNat 8 (s.arg i)) ∧
  ∀ s : State, let r := s.report; let bs := r ++ (List.range 64).map fun i => (Config.identitySign r).getD i 0
    (s.nonceMask ≠ 255 → Happens .attestReportReady s s) ∧
    (s.nonceMask = 255 → ∃ t : State, Happens .attestReportReady s t ∧ t.nonceMask = 0 ∧ t.cwGet 0x40020 = 1#64 ∧
      ∀ i < 50, t.cwGet (0x40100 + 8 * i) = word (leNat ((bs.drop (8 * i)).take 8)))

/-- Host accesses and the control window. These are presumed, or the model's own choices: the layout of configuration space, its error
bits, and what Command and D3hot close, log entries 15 and 110; the bytes of messages between cubes of the group, log entry 37; the order
in which things wait for the host, log entry 116; what a window before ScreedReady serves, log entries 12, 71 and 73; that a wide barrier's
binding and members are inputs of the control window, log entry 115; that a cleared Valid bit takes a context's stacks, images and
tables, log entry 119; how the cube gets its group slot, and the bytes of a forwarded request, log entry 132. -/
def Obligations.HostAndControl : Prop :=
  Claims.HostAccesses ∧ Claims.ControlWindow

/-- From R446 to R448, R451 to R454, R457 to R461, R469: a message between cubes goes on in the order of its sender, class and destination,
is delivered at its cube, or leaves as flits that carry this cube's version; the bridge sends on what others have for the host, and says
when a record has left; flits are released in the order of Seq; groups with more errors in a code word than it corrects are asked for again
and counted; a chain table that keeps its limits takes effect at its time, which lies ahead of its load when it replaces another, a message
for a peer joins its queue while that has room, and a slot gives each peer its quota. -/
def Claims.PodFabric : Prop :=
  (∀ (s : State) m, s.arg 0 = 0 → s.podOut[s.arg 1]? = some m → let s' : State := { s with podOut := s.podOut.eraseIdx (s.arg 1) }
    (s.podFirst (s.arg 1) m = false → Happens .podMessageForward s s) ∧
    (s.podFirst (s.arg 1) m = true → m.dst = s.selfCube →
      (m.bytes.headD 0 = 10#8 → Happens .podMessageForward s (s'.hostAnswer (field m.bytes 1 4) (field m.bytes 5 1) (m.bytes.drop 6))) ∧
      (m.bytes.headD 0 = 11#8 → Happens .podMessageForward s (s'.sendMsix (field m.bytes 1 2))) ∧
      (m.bytes.headD 0 = 13#8 → (s.hostWrites = false → Happens .podMessageForward s s) ∧ (s.hostWrites = true → ∃ t : State,
        Happens .podMessageForward s t ∧ t.outputs = .hostWrite (field m.bytes 1 1) (field m.bytes 6 8) (m.bytes.drop 14) :: s.outputs ∧
        (field m.bytes 2 4 ≠ 0 → t.podOut = s'.podOut ++ [⟨m.src, s.selfCube, 1, 0, 14 :: leBytes (field m.bytes 2 4) 4, 0⟩]))) ∧
      ∀ c, m.bytes.headD 0 = 14#8 → (s.completions.find? fun c => c.queue == field m.bytes 1 4 - 1 && c.sent) = some c → c.vector < 2048 →
        ∃ t : State, Happens .podMessageForward s t ∧ t.completions = s.completions.erase c ∧
          t.wqDoneTail c.queue = (s.wqDoneTail c.queue + 1) % 2 ^ 32) ∧
    (∀ p, s.podFirst (s.arg 1) m = true → m.dst ≠ s.selfCube → s.chain = none → s.podPort m = some p → s.lanesUp p ≠ [] →
      m.sent = 0 → 0 < m.bytes.length → m.bytes.length ≤ 64 → ∃ t : State, ∃ wl ∈ s.lanesUp p, Happens .podMessageForward s t ∧
        t.podOut = s'.podOut ∧ t.mem = s.mem ∧
        t.outputs = .flit p wl (flitHeader { m with ver := if m.src = s.selfCube then s.topVersion else m.ver } 0 (s.port p).seqOut
          m.bytes.length) m.bytes :: s.outputs ∧
        (t.port p).seqOut = ((s.port p).seqOut + 1) % 1024) ∧
    (∀ c, s.podFirst (s.arg 1) m = true → m.dst ≠ s.selfCube → s.chain = some c → c.peer m.dst = true → m.cls ≤ 1 →
      let q := FMap.get [] s.sendQ m.dst
      (q.length < Config.sendRoom m.dst → Happens .podMessageForward s { s' with sendQ := FMap.set s.sendQ m.dst (q ++ [m]) }) ∧
      (Config.sendRoom m.dst ≤ q.length → Happens .podMessageForward s s))) ∧
  (∀ s id a ea, s.arg 0 = 1 → s.arg 1 = id → s.msg id = some (.access a) → a.pod = some ea → s.podSent.contains id = false →
    s.mayArrive id (.access a) = true → ∃ t : State, Happens .podMessageForward s t ∧ t.podSent = id :: s.podSent ∧
      ∃ m, t.podOut = s.podOut ++ [m] ∧ m.dst = ea.toNat / 2 ^ 48 % 4096 ∧ m.bytes = accessBytes a ea ∧ m.src = s.selfCube) ∧
  (∀ (s : State) n, let p := s.arg 0 % 12; let h := word (s.arg 1); let bs : List Byte := (s.args.drop 2).map (BitVec.ofNat 8)
    s.inService p = true → (s.port p).held = [] → bitsOf h 36 2 = 0 → n = (s.port p).seqIn →
    (bitsOf h 10 10 = n → ∃ t : State, Happens .flitReceive s t ∧ (t.port p).seqIn = (n + 1) % 1024 ∧ (t.port p).held = [] ∧
      t.podOut = s.podOut ++ [⟨bitsOf h 52 12, bitsOf h 40 12, bitsOf h 38 2, bitsOf h 20 16, bs.take (bitsOf h 4 6 + 1), 0⟩]) ∧
    (bitsOf h 10 10 ≠ n → ∃ t : State, Happens .flitReceive s t ∧ (t.port p).seqIn = n ∧ (t.port p).held = [(bitsOf h 10 10, h, bs)] ∧
      t.podOut = s.podOut)) ∧
  (∀ s : State, let p := s.arg 0 % 12; let w := s.arg 1 % 9; let g := FMap.get 0 (s.port p).groups w
    let errs := (s.args.drop 2).take 4; let n := errs.foldl (· + ·) 0; let off := laneCount p w
    ((∃ e ∈ errs, 4 < e) → ∃ t : State, Happens .fecGroupReceive s t ∧ t.outputs = .retry p w g :: s.outputs ∧ t.ports = s.ports ∧
      bitsOf (t.cwGet (off + 8)) 48 16 = min 0xFFFF (bitsOf (s.cwGet (off + 8)) 48 16 + 1)) ∧
    ((∀ e ∈ errs, e ≤ 4) → ∃ t : State, Happens .fecGroupReceive s t ∧ FMap.get 0 (t.port p).groups w = g + 1 ∧
      (n ≠ 0 → (g, n) ∈ FMap.get [] (t.port p).symbols w ∧ bitsOf (t.cwGet off) 16 32 = min (2 ^ 32 - 1) (bitsOf (s.cwGet off) 16 32 + 1)))) ∧
  (∀ s : State, let p := s.arg 0 % 12; let n := FMap.get 0 (s.port p).flits (s.arg 1) / 8; let g := s.arg 2
    (g < n → n ≤ g + 256 → Happens .fecRetry s { s with outputs := .resend p (s.arg 1) g :: s.outputs }) ∧
    ((n ≤ g ∨ g + 256 < n) → Happens .fecRetry s s)) ∧
  (∀ s : State, (s.arg 0 = 0 → s.shadowChainOk = true → ∃ n, Happens .chainTableInstall s { s with chainNext := some n } ∧
      n.slots = s.shadowChain.slots ∧
      n.start = if s.chain = none then s.shadowChain.start else max s.shadowChain.start ((s.pod8 + 7) / 8)) ∧
    (s.arg 0 = 0 → s.shadowChainOk = false → Happens .chainTableInstall s (s.toHost .loadError)) ∧
    ∀ n, s.arg 0 ≠ 0 → s.chainNext = some n → (8 * s.chainDue n ≤ s.pod8 → Happens .chainTableInstall s
      { s with chain := some { n with start := s.chainDue n }, chainNext := none, chainSlot := none }) ∧
      (s.pod8 < 8 * s.chainDue n → Happens .chainTableInstall s s) ∧ (s.chain = none → s.chainDue n = n.start)) ∧
  (∀ (s : State) c occ i t x, s.chain = some c → s.slotNow = some (occ, i, t) → s.chainSlot.map Prod.fst ≠ some occ → c.slots[i]? = some x →
    ∃ u : State, Happens .chainSlotStart s u ∧ ∃ q, u.chainSlot = some (occ, q) ∧
      ∀ peer, FMap.get 0 q peer = if x.2.2.1 = true ∧ some peer ∈ x.2.2.2.2 then x.2.2.2.1 else 0) ∧
  ∀ (s : State) m rest p, let peer := s.arg 0
    FMap.get [] s.sendQ peer = m :: rest → s.chainPort peer = some p → ∃ t : State, ∃ wl ∈ s.lanesFree p, ∃ h,
      Happens .chainDataWindow s t ∧ t.outputs = .flit p wl h ((m.bytes.drop m.sent).take 64) :: s.outputs ∧
      FMap.get [] t.sendQ peer = (if m.bytes.length ≤ m.sent + 64 then rest else { s.stamped m with sent := m.sent + 64 } :: rest) ∧
      ∃ o q, s.chainSlot = some (o, q) ∧ t.chainSlot = some (o, FMap.set q peer (FMap.get 0 q peer - 1))

/-- From R31, R372, R442, R468, R470 to R472, R476, R479: replayed beats, failed bond groups and the spare that takes their place, links
that go out, with the rings whose path they are, and return, wavelengths that retrain and are handed back with a flit that announces the Seq; scrubs count what they
correct and poison what they cannot; a channel copy moves the lines of a channel to its spare. -/
def Claims.LinksAndScrubs : Prop :=
  (∀ s : State, let link := s.arg 0; let g := s.arg 1 % 5; let b := s.bond link; link < 8192 →
    let crc := (b.crc.filter fun e => decide (s.cycle < e.2 + 2 ^ 20)) ++ [(g, s.cycle)]
    (∃ t : State, Happens .linkBeatReplay s t ∧ (t.bond link).crc = crc ∧ (t.bond link).failed = b.failed ∧
      (b.failed.testBit g = false → 16 ≤ (crc.filter fun e => e.1 == g).length →
        t.agenda = s.agenda ++ [(.bondGroupFailure, [link, g])])) ∧
    (∃ t : State, Happens .bondIdleTest s t ∧ ∀ h < 5, (s.arg 1).testBit h = true → b.failed.testBit h = false →
      (.bondGroupFailure, [link, h]) ∈ t.agenda) ∧
    (b.failed.testBit g = false → ∃ t : State, Happens .bondGroupFailure s t ∧ let c := t.bond link
      c.failed = b.failed + 2 ^ g ∧
      (g ≠ 4 → b.spareFor = 7 → b.failed.testBit 4 = false → c.spareFor = g ∧ c.out = b.out) ∧
      (g ≠ 4 → ¬(b.spareFor = 7 ∧ b.failed.testBit 4 = false) → c.out = true) ∧
      (g = 4 → c.out = (b.out || b.spareFor != 7)) ∧ (link < 2048 → c.out = true → (t.ring (ringKey 2 link)).halted = true)) ∧
    (b.out = true → ∃ t : State, Happens .linkReturnsToService s t ∧ t.bond link = {})) ∧
  (∀ s : State, let link := s.arg 0; 8192 ≤ link → link < 12288 → (s.bond link).failed.testBit 0 = false → ∃ t : State,
    Happens .bondGroupFailure s t ∧ (t.bond link).out = true ∧
    (t.ring (ringKey ((link - 8192) % 2) ((link - 8192) / 2))).halted = true) ∧
  (∀ s : State, let p := s.arg 0 % 12; let q := s.port p; let l := s.arg 1 % 8
    (s.arg 1 = 0 → ∃ t : State, Happens .portFullRetrain s t ∧ t.inService p = false ∧ (t.port p).full = true ∧
      t.portMode p = s.portMode p) ∧
    (s.arg 1 ≠ 0 → q.full = true → s.portMode p ≠ 0 → ∃ t : State, Happens .portFullRetrain s t ∧ t.inService p = true ∧
      (t.port p).full = false ∧ t.portMode p = s.portMode p ∧ bitsOf (t.cwGet (8 * p)) 8 8 = s.goodLanes p ∧
      ∀ o ∈ s.hostQ, t.mayLeave o = true → o ∈ t.outputs) ∧
    (s.inService p = true → q.full = false → q.dead.contains l = false → q.waiting.contains l = false → q.retrain = none →
      ∃ t : State, Happens .wavelengthRetrainStart s t ∧ (t.port p).retrain = some l ∧ (t.cwGet (8 * p)).getLsbD (8 + l) = false ∧
        (t.cwGet (8 * p)).getLsbD 2 = true) ∧
    (∀ m, q.retrain = some m → let w := s.cwGet (0x4000 + 8 * p)
      (s.arg 1 = 1 → ∃ t : State, Happens .wavelengthHandback s t ∧ .handback p m q.seqOut ∈ t.outputs ∧
        (t.port p).retrain = q.waiting.head? ∧
        (t.port p).waiting = q.waiting.tail ∧ FMap.get 0 (t.port p).fails m = 0) ∧
      (s.arg 1 ≠ 1 → FMap.get 0 q.fails m = 0 → ∃ t : State, Happens .wavelengthHandback s t ∧ (t.port p).retrain = some m ∧
        FMap.get 0 (t.port p).fails m = 1) ∧
      (s.arg 1 ≠ 1 → FMap.get 0 q.fails m ≠ 0 → bitsOf w 32 4 = 15 → ∃ t : State, Happens .wavelengthHandback s t ∧
        (t.port p).dead = q.dead ++ [m]) ∧
      (s.arg 1 ≠ 1 → FMap.get 0 q.fails m ≠ 0 → bitsOf w 32 4 ≠ 15 → m < 8 → ∃ t : State, Happens .wavelengthHandback s t ∧
        bitsOf (t.cwGet (0x4000 + 8 * p)) 32 4 = 15 ∧ bitsOf (t.cwGet (0x4000 + 8 * p)) (4 * m) 4 = bitsOf w 32 4))) ∧
  (∀ s : State, let t := s.arg 0 % 2048; let h := s.arg 0 % 512; let off := s.arg 2 % 2 ^ 31
    ∀ x ∈ [(Instr.sliceScrub, sliceKey t (s.arg 2 % 2 ^ 22), 0x8000 + 32 * t, t),
        (.bstoreScrub, bstoreKey t (s.arg 2 % 2 ^ 23), 0x8000 + 32 * t + 8, t),
        (.hbmScrub, s.device h off * 2 ^ 31 + off, 0x18000 + 16 * h, 2048 + h)],
      (s.arg 1 = 0 → Happens x.1 s s) ∧ (s.arg 1 = 1 → Happens x.1 s (s.corrected x.2.2.1 x.2.2.2)) ∧
      (s.arg 1 = 2 → ∃ u : State, Happens x.1 s u ∧ poisonOf x.2.1 ∈ u.poison ∧ u.mem = s.mem ∧
        bitsOf (u.cwGet x.2.2.1) 48 16 = min 0xFFFF (bitsOf (s.cwGet x.2.2.1) 48 16 + 1))) ∧
  ∀ s : State, let h := s.arg 0 % 512
    ((∀ p ∈ s.chanMap, p.2.1 ≠ spareOf h) →
      Happens .channelCopyStart s { s with chanMap := FMap.set s.chanMap h (spareOf h, some 0) }) ∧
    (∀ sp p, FMap.find h s.chanMap = some (sp, some p) → 512 ≤ sp → sp < 528 → (∀ o < 2 ^ 31, s.byte (sp * 2 ^ 31 + o) = 0) →
      memWf s.mem = true → let q := min (2 ^ 31) (max p (s.arg 1 / 64 * 64))
      ∃ t : State, Happens .channelCopyComplete s t ∧ (∀ o < 2 ^ 31, p ≤ o → o < q → t.byte (sp * 2 ^ 31 + o) = s.byte (h * 2 ^ 31 + o)) ∧
        FMap.find h t.chanMap = some (sp, if q = 2 ^ 31 then none else some q))

/-- The pod fabric, links and scrubs. These are the model's own choices: the bytes of messages between cubes, log entry 37; that outcomes of
links, wavelengths, code words and scrubs are inputs, log entry 75; that a returned link is fresh, log entry 77; that a channel copy moves
runs of lines, log entry 78; that a lateral link has no spare, log entry 109; the room of a chain queue and the time of a flit, log entry
113; the numbers of lateral links from 8,192 on, log entry 114. -/
def Obligations.FabricAndRepair : Prop :=
  Claims.PodFabric ∧ Claims.LinksAndScrubs

/-- From R35, R233, R440, R477, R481 to R486, R488 to R491, R493: power-on leaves the reset state but for flash and the outside world; the
screed boots the firmware that it verifies again, layers join in order, one that passed early with those below it, tiles that fail are
mapped out, full service begins; budgets are refilled to no more than their caps, which the controller may change; throttle and trip; counts
halve, regions swap, checkpoints run unit by unit, as flits, over the ports that carry them, and leave the image of the package's state in
the safe tier, from which a restore brings it back; firmware that passes its checks goes to flash. These are the model's own choices: what
survives power-on, log entry 84; activates as a free value, log entry 68; the turn of the ports, log entry 111; a region swap in one step,
log entry 78; the snapshot beside the image, log entry 79; firmware updates and the factory's check as inputs, log entry 80; a refill that
sets the new Grant and then adds it, log entry 81; a throttle level as the sensor gives it, log entry 82; calibration, late joins and the
map of a failed tile, log entry 83; the offset of a notice, log entry 85. -/
def Obligations.PowerAndService : Prop :=
  HappensIf .powerOnReset (fun _ => True) (fun s =>
    { State.reset with flash := s.flash, agenda := s.agenda, hostIn := s.hostIn, outputs := s.outputs, tier := s.tier, fresh := s.fresh }) ∧
  (∀ s : State, s.bring.screed = false →
    let refused (k : Nat) : Bool := match FMap.find k s.flash with
      | some f => !firmwareOk f.body
      | none => false
    let bad := (List.range 4).filter refused; let ok := refused 0 = false ∧ (FMap.find 0 s.flash ≠ none ∨ s.arg 0 = 1)
    (ok → ∃ t : State, Happens .screedBoot s t ∧ t.bring.screed = true ∧
      (∀ z < 8, t.bring.layers.getD z 9 = if s.bring.layers.getD z 9 = 0 then 1 else s.bring.layers.getD z 9) ∧
      ∀ k < 4, FMap.find k t.running = some (match FMap.find k s.flash with
        | some f => if firmwareOk f.body then f else factoryImage k
        | none => factoryImage k)) ∧
    (¬ok → Happens .screedBoot s (let u := bad.foldl (fun s k => s.tell 5 k 0) s
      if refused 0 then u else u.tell 5 0 0))) ∧
  (∀ (s : State) y col a b, let z := s.arg 0; s.args = [z, a, b, y, col] → z < 8 → y < 16 → col ≤ 16 → s.bring.layers.getD z 0 = 1 →
    ∃ t : State, Happens .layerJoin s t ∧ let off := 0x2000 + 8 * (16 * z + y); let skip := bitsOf (s.cwGet off) 0 5
      let w := t.cwGet off; t.topoGet off = w ∧ (col = skip → w = s.cwGet off) ∧ (skip = 16 → bitsOf w 0 5 = col) ∧
      (skip < 16 → col ≠ skip → bitsOf w 0 5 = skip ∧ w.getLsbD 15 = true ∧ bitsOf w 8 4 = if col < skip then col else col - 1)) ∧
  (∀ s : State, let z := s.arg 0 % 8; let b := s.bring; b.layers.length = 8 → b.layers.getD z 0 = 1 →
    (s.arg 1 ≠ 1 → ∃ t : State, Happens .layerJoin s t ∧ t.bring = { b with layers := b.layers.set z 3 } ∧ t.mem = s.mem) ∧
    (s.arg 1 = 1 → (∀ y < 8, 4 ≤ b.layers.getD y 0 → ∃ x < y, s.joined x = false) → ∃ t : State, Happens .layerJoin s t ∧
      (∀ y < z, t.joined y = s.joined y) ∧ (t.joined z = true ↔ ∀ y < z, s.joined y = true) ∧
      ∀ y < 8, z < y → (t.joined y = true ↔ s.joined y = true ∨ (4 ≤ b.layers.getD y 0 ∧ ∀ x < y, t.joined x = true)))) ∧
  HappensIf .bstoreCalibrationDone (fun s => ∃ z < 8, s.joined z = true) (fun s => { s with bring := { s.bring with bstore := true } }) ∧
  HappensIf .fullServiceBegin (fun s => s.cycle % 2 ^ 20 = 0 ∧ (∀ z < 8, s.joined z = true) ∧ s.bring.bstore = true)
    (fun s => { s with bring := { s.bring with full := true } }) ∧
  HappensIf .fullServiceBegin (fun s => s.cycle % 2 ^ 20 ≠ 0 ∨ (∃ z < 8, s.joined z = false) ∨ s.bring.bstore = false) (fun s => s) ∧
  (∀ s : State, s.cycle % 256 ≠ 0 → Happens .ebudgetRefill s s) ∧
  (∀ s : State, s.cycle % 256 = 0 → s.args ≠ [] → ∃ t : State, Happens .ebudgetRefill s t ∧ ∀ c < 2560, ∀ i < 8,
    let w := (s.core c).ebud i; let v := (t.core c).ebud i
    bitsOf v 32 16 = s.arg 0 % 2 ^ 16 ∧ bitsOf v 0 32 = bitsOf w 0 32) ∧
  (∀ s : State, s.cycle % 256 = 0 → s.args = [] → ∃ t : State, ∃ grants : List Nat, Happens .ebudgetRefill s t ∧ t.mem = s.mem ∧
    (∀ g ∈ grants, g ≤ 65535) ∧ ∀ c < 2560, ∀ i < 8, let w := (s.core c).ebud i; let v := (t.core c).ebud i
      let grant := if ((s.core c).slot i).st = .empty then 0 else grants.getD (partOf c) 0
      bitsOf v 32 16 = bitsOf w 32 16 ∧ bitsOf v 16 16 = grant ∧ bitsOf v 0 16 = min (bitsOf w 32 16) (bitsOf w 0 16 + grant)) ∧
  (∀ s : State, let z := s.arg 0; z < 8 →
    (s.arg 1 ≤ 4 → ∃ t : State, Happens .thermalThrottle s t ∧ t.throttle z = s.arg 1 ∧ ∀ y < 8, y ≠ z → t.throttle y = s.throttle y) ∧
    ∃ t : State, Happens .thermalTrip s t ∧ t.tripped = true ∧
      ∃ n, let note := Output.hostWrite 0 (Config.noticeAt n) (noticeRecord s.groupSlot 1 z 0)
        if s.groupSlot = 0 then (if s.hostWrites then note ∈ t.outputs else note ∈ t.hostQ)
        else ∃ m ∈ t.podOut, m.dst = s.bridge ∧ m.bytes = note.forBridge) ∧
  (∀ s : State, ∃ t : State, Happens .regionCountHalving s t ∧ t.mem = s.mem ∧
    ∀ p ∈ t.regionCnt, ∃ n, (p.1, n) ∈ s.regionCnt ∧ p.2 = n / 2 ∧ p.2 ≠ 0) ∧
  (∀ (s : State) ca ra cb rb, (if s.arg 0 = 0 then s.swap else s.adaptive) = some (ca, ra, cb, rb) →
    let a := s.regionBase ca ra; let b := s.regionBase cb rb; let busy := s.regionBusy a = true ∨ s.regionBusy b = true
    (s.ckpt.state ≠ 1 → s.copying = false → ¬busy → memWf s.mem = true → (a + 2 ^ 21 ≤ b ∨ b + 2 ^ 21 ≤ a) →
      ∃ t : State, Happens .remapSwapRun s t ∧ (∀ o < 2 ^ 21, t.byte (a + o) = s.byte (b + o) ∧ t.byte (b + o) = s.byte (a + o)) ∧
        ∀ k, (k < a ∨ a + 2 ^ 21 ≤ k) → (k < b ∨ b + 2 ^ 21 ≤ k) → t.byte k = s.byte k) ∧
    ((s.ckpt.state = 1 ∨ s.copying = true ∨ busy) → Happens .remapSwapRun s s)) ∧
  (∀ s : State, s.bring.screed = true → let idle := s.ckpt.state ≠ 1 ∧ s.swapping = false
    (idle → s.checkpointOk = true → ∃ t : State, Happens .checkpointStart s t ∧ t.ckpt.state = 1 ∧ t.ckpt.restore = false ∧
      t.ckpt.pages = 0 ∧ t.ckpt.saved = some s.snapshot) ∧
    (idle → s.checkpointOk = true → ∃ t : State, Happens .restoreStart s t ∧ t.ckpt.state = 1 ∧ t.ckpt.restore = true ∧ t.ckpt.pages = 0 ∧
      t.ckpt.saved = FMap.find (s.cwGet 0x1010).toNat s.tier) ∧
    (idle → s.checkpointOk = false → ∀ i ∈ [Instr.checkpointStart, .restoreStart], Happens i s { s with ckpt := { s.ckpt with state := 3 } }) ∧
    (s.ckpt.state = 1 → Happens .checkpointStart s s ∧ Happens .restoreStart s s) ∧
    (s.ckpt.state = 1 → s.arg 0 = 2 → Happens .checkpointComplete s { s with ckpt := { s.ckpt with state := 4 } }) ∧
    (s.ckpt.state = 1 → s.arg 0 = 0 → s.ckpt.sent < 2 ^ 28 →
      let ok (p : Nat) : Prop := p < 12 ∧ (s.cwGet 0x1000).getLsbD p = true ∧ s.inService p = true ∧ s.portMode p ≠ 3 ∧ p ∉ s.ckpt.dropped
      ((∃ p, ok p) → (∀ p, ok p → s.lanesUp p ≠ []) → ∃ t : State, ∃ p fs, Happens .checkpointComplete s t ∧ ok p ∧
        t.outputs = fs ++ s.outputs ∧ fs.length = (if s.ckpt.restore then 1 else 65) ∧
        (∀ o ∈ fs, ∃ wl h bs, o = .flit p wl h bs ∧ bitsOf h 52 12 = ((s.cwGet 0x1010).toNat + 4096 * s.ckpt.sent) / 2 ^ 48 % 4096) ∧
        t.ckpt.sent = s.ckpt.sent + 1 ∧ t.mem = s.mem) ∧
      ((∀ p, ¬ok p) → Happens .checkpointComplete s s)) ∧
    (s.ckpt.state = 1 → s.arg 0 = 1 → s.ckpt.pages < s.ckpt.sent → let n := s.ckpt.pages + 1
      (s.ckpt.restore = false → n ≠ 2 ^ 28 → Happens .checkpointComplete s { s with ckpt := { s.ckpt with pages := n, state := 1 } }) ∧
      (∀ v, s.ckpt.restore = false → n = 2 ^ 28 → s.ckpt.saved = some v → Happens .checkpointComplete s { s with
        ckpt := { s.ckpt with pages := n, state := 2 }, tier := FMap.set s.tier (s.cwGet 0x1010).toNat v }) ∧
      ∀ v, s.ckpt.restore = true → n = 2 ^ 28 → s.ckpt.saved = some v → ∃ t : State, Happens .checkpointComplete s t ∧ t.ckpt.state = 2 ∧
        t.dieTimes = v.dieTimes ∧ t.pkgTimes = v.pkgTimes ∧ t.wideNets = v.wideNets ∧ t.groups = v.groups ∧ t.rings = v.rings ∧
        t.topo = v.topo ∧ t.poison = v.poison ∧ t.away = v.away ∧ t.images = v.images ∧ t.coreImgs = v.coreImgs ∧ t.skims = v.skims ∧
        t.launches = v.launches)) ∧
  ∀ s : State, let img : List Byte := s.args.map fun n => BitVec.ofNat 8 n; let kind := field img 4 1
    Happens .firmwareUpdateWrite s (if firmwareOk img then { s with
      flash := FMap.set s.flash kind { svn := field img 8 4, digest := (img.drop 48).take 64, body := img } }
      else s.tell 5 kind 0)
end

