-- ==== Sys2Proof/Laws/FMap.lean ====
section
/-!
SUPPORT. Finite maps: what is found after a pair is set or removed, and that keys stay strictly rising.
-/

namespace Sys2Proof

variable {β : Type}

/-- Keys strictly rise. -/
def FMap.Sorted (m : FMap β) : Prop := m.Pairwise fun a b => a.1 < b.1

/-! ## Finding -/

@[simp] theorem FMap.find_nil (k : Nat) : FMap.find k ([] : FMap β) = none := rfl

@[simp] theorem FMap.find_del_self (k : Nat) (m : FMap β) : FMap.find k (FMap.del k m) = none := by
  induction m with
  | nil => rfl
  | cons p m ih =>
    obtain ⟨j, w⟩ := p
    by_cases h : j = k <;> simp [FMap.del, FMap.find, h, ih]

theorem FMap.find_del_other {j k : Nat} (h : j ≠ k) (m : FMap β) : FMap.find j (FMap.del k m) = FMap.find j m := by
  induction m with
  | nil => rfl
  | cons p m ih =>
    obtain ⟨i, w⟩ := p
    by_cases hi : i = k
    · simp [FMap.del, FMap.find, hi, ih, show ¬k = j from fun e => h e.symm]
    · by_cases hj : i = j <;> simp [FMap.del, FMap.find, hi, hj, ih]
      simp [FMap.find, show ¬j = k from h]

theorem FMap.find_insKey_self (k : Nat) (v : β) (m : FMap β) (h : FMap.find k m = none) : FMap.find k (insKey k v m) = some v := by
  induction m with
  | nil => simp [insKey, FMap.find]
  | cons p m ih =>
    obtain ⟨i, w⟩ := p
    by_cases hi : i = k
    · simp [FMap.find, hi] at h
    · have hm : FMap.find k m = none := by simpa [FMap.find, hi] using h
      by_cases hk : k < i <;> simp [insKey, FMap.find, hk, hi, ih hm]

theorem FMap.find_insKey_other {j k : Nat} (h : j ≠ k) (v : β) (m : FMap β) : FMap.find j (insKey k v m) = FMap.find j m := by
  have h' : ¬k = j := fun e => h e.symm
  induction m with
  | nil => simp [insKey, FMap.find, h']
  | cons p m ih =>
    obtain ⟨i, w⟩ := p
    by_cases hk : k < i
    · simp [insKey, FMap.find, hk, h']
    · by_cases hi : i = j
      · subst hi; simp [insKey, FMap.find, hk]
      · simp [insKey, FMap.find, hk, hi, ih]

@[simp] theorem FMap.find_set_self (m : FMap β) (k : Nat) (v : β) : FMap.find k (FMap.set m k v) = some v :=
  FMap.find_insKey_self k v _ (FMap.find_del_self k m)

theorem FMap.find_set_other {j k : Nat} (h : j ≠ k) (m : FMap β) (v : β) : FMap.find j (FMap.set m k v) = FMap.find j m := by
  rw [FMap.set, FMap.find_insKey_other h, FMap.find_del_other h]

@[simp] theorem FMap.get_set_self (d : β) (m : FMap β) (k : Nat) (v : β) : FMap.get d (FMap.set m k v) k = v := by
  simp [FMap.get]

theorem FMap.get_set_other {j k : Nat} (h : j ≠ k) (d : β) (m : FMap β) (v : β) :
    FMap.get d (FMap.set m k v) j = FMap.get d m j := by
  simp [FMap.get, FMap.find_set_other h]

@[simp] theorem FMap.get_del_self (d : β) (m : FMap β) (k : Nat) : FMap.get d (FMap.del k m) k = d := by
  simp [FMap.get]

theorem FMap.get_del_other {j k : Nat} (h : j ≠ k) (d : β) (m : FMap β) : FMap.get d (FMap.del k m) j = FMap.get d m j := by
  simp [FMap.get, FMap.find_del_other h]

/-! ## Order -/

theorem FMap.del_sublist (k : Nat) (m : FMap β) : (FMap.del k m).Sublist m := by
  induction m with
  | nil => exact .slnil
  | cons p m ih =>
    obtain ⟨i, w⟩ := p
    by_cases h : i = k
    · simpa [FMap.del, h] using ih.cons _
    · simpa [FMap.del, h] using ih.cons_cons (i, w)

theorem FMap.del_key_ne {k : Nat} {m : FMap β} {p : Nat × β} (h : p ∈ FMap.del k m) : p.1 ≠ k := by
  induction m with
  | nil => cases h
  | cons q m ih =>
    obtain ⟨i, w⟩ := q
    by_cases hi : i = k
    · exact ih (by simpa [FMap.del, hi] using h)
    · rcases List.mem_cons.mp (by simpa [FMap.del, hi] using h) with e | e
      · rw [e]; exact hi
      · exact ih e

theorem FMap.mem_insKey {k : Nat} {v : β} {m : FMap β} {p : Nat × β} (h : p ∈ insKey k v m) : p = (k, v) ∨ p ∈ m := by
  induction m with
  | nil => simpa [insKey] using h
  | cons q m ih =>
    obtain ⟨i, w⟩ := q
    by_cases hk : k < i
    · simpa [insKey, hk] using h
    · rcases List.mem_cons.mp (by simpa [insKey, hk] using h) with e | e
      · exact .inr (by simp [e])
      · exact (ih e).imp_right (List.mem_cons_of_mem _)

theorem FMap.insKey_sorted {k : Nat} {v : β} {m : FMap β} (hm : FMap.Sorted m) (hk : ∀ p ∈ m, p.1 ≠ k) :
    FMap.Sorted (insKey k v m) := by
  induction m with
  | nil => simp [insKey, FMap.Sorted]
  | cons q m ih =>
    obtain ⟨i, w⟩ := q
    have hh := List.pairwise_cons.mp hm
    have hi : i ≠ k := hk (i, w) (by simp)
    by_cases h : k < i
    · simp only [insKey, h, if_true, FMap.Sorted]
      refine List.pairwise_cons.mpr ⟨fun p hp => ?_, hm⟩
      rcases List.mem_cons.mp hp with e | e
      · rw [e]; exact h
      · exact h.trans (hh.1 p e)
    · simp only [insKey, h, if_false, FMap.Sorted]
      refine List.pairwise_cons.mpr ⟨fun p hp => ?_, ih hh.2 fun p hp => hk p (by simp [hp])⟩
      rcases FMap.mem_insKey hp with e | e
      · rw [e]; show i < k; omega
      · exact hh.1 p e

theorem FMap.del_sorted {m : FMap β} (hm : FMap.Sorted m) (k : Nat) : FMap.Sorted (FMap.del k m) :=
  List.Pairwise.sublist (FMap.del_sublist k m) hm

theorem FMap.set_sorted {m : FMap β} (hm : FMap.Sorted m) (k : Nat) (v : β) : FMap.Sorted (FMap.set m k v) :=
  FMap.insKey_sorted (FMap.del_sorted hm k) fun _ h => FMap.del_key_ne h

theorem FMap.mem_set {m : FMap β} {k : Nat} {v : β} {p : Nat × β} (h : p ∈ FMap.set m k v) : p = (k, v) ∨ p ∈ m :=
  (FMap.mem_insKey h).imp_right fun e => (FMap.del_sublist k m).subset e

end Sys2Proof
end

