-- ==== Sys2Proof/Laws/State.lean ====
section
/-!
SUPPORT. What each update of the state leaves of each field: one lemma for a field and an update, by definition.
-/

namespace Sys2Proof.Machine

variable (s : State)

/-! ## setCore -/

@[simp] theorem State.setCore_mem (c : Nat) (k : Core) : (s.setCore c k).mem = s.mem := rfl
@[simp] theorem State.setCore_quads (c : Nat) (k : Core) : (s.setCore c k).quads = s.quads := rfl
@[simp] theorem State.setCore_skims (c : Nat) (k : Core) : (s.setCore c k).skims = s.skims := rfl
@[simp] theorem State.setCore_trapvec (c : Nat) (k : Core) : (s.setCore c k).trapvec = s.trapvec := rfl
@[simp] theorem State.setCore_wdog (c : Nat) (k : Core) : (s.setCore c k).wdog = s.wdog := rfl
@[simp] theorem State.setCore_cw (c : Nat) (k : Core) : (s.setCore c k).cw = s.cw := rfl
@[simp] theorem State.setCore_gran (c : Nat) (k : Core) : (s.setCore c k).gran = s.gran := rfl
@[simp] theorem State.setCore_resv (c : Nat) (k : Core) : (s.setCore c k).resv = s.resv := rfl
@[simp] theorem State.setCore_poison (c : Nat) (k : Core) : (s.setCore c k).poison = s.poison := rfl
@[simp] theorem State.setCore_remap (c : Nat) (k : Core) : (s.setCore c k).remap = s.remap := rfl
@[simp] theorem State.setCore_regionCnt (c : Nat) (k : Core) : (s.setCore c k).regionCnt = s.regionCnt := rfl
@[simp] theorem State.setCore_chanMap (c : Nat) (k : Core) : (s.setCore c k).chanMap = s.chanMap := rfl
@[simp] theorem State.setCore_evict (c : Nat) (k : Core) : (s.setCore c k).evict = s.evict := rfl
@[simp] theorem State.setCore_images (c : Nat) (k : Core) : (s.setCore c k).images = s.images := rfl
@[simp] theorem State.setCore_l2walk (c : Nat) (k : Core) : (s.setCore c k).l2walk = s.l2walk := rfl
@[simp] theorem State.setCore_net (c : Nat) (k : Core) : (s.setCore c k).net = s.net := rfl
@[simp] theorem State.setCore_nextMsg (c : Nat) (k : Core) : (s.setCore c k).nextMsg = s.nextMsg := rfl
@[simp] theorem State.setCore_engLast (c : Nat) (k : Core) : (s.setCore c k).engLast = s.engLast := rfl
@[simp] theorem State.setCore_countAt (c : Nat) (k : Core) : (s.setCore c k).countAt = s.countAt := rfl
@[simp] theorem State.setCore_wideNets (c : Nat) (k : Core) : (s.setCore c k).wideNets = s.wideNets := rfl
@[simp] theorem State.setCore_hostQ (c : Nat) (k : Core) : (s.setCore c k).hostQ = s.hostQ := rfl
@[simp] theorem State.setCore_tier (c : Nat) (k : Core) : (s.setCore c k).tier = s.tier := rfl
@[simp] theorem State.setCore_rings (c : Nat) (k : Core) : (s.setCore c k).rings = s.rings := rfl
@[simp] theorem State.setCore_ringWrites (c : Nat) (k : Core) : (s.setCore c k).ringWrites = s.ringWrites := rfl
@[simp] theorem State.setCore_deliveries (c : Nat) (k : Core) : (s.setCore c k).deliveries = s.deliveries := rfl
@[simp] theorem State.setCore_xfers (c : Nat) (k : Core) : (s.setCore c k).xfers = s.xfers := rfl
@[simp] theorem State.setCore_xseq (c : Nat) (k : Core) : (s.setCore c k).xseq = s.xseq := rfl
@[simp] theorem State.setCore_groups (c : Nat) (k : Core) : (s.setCore c k).groups = s.groups := rfl
@[simp] theorem State.setCore_groupLaunch (c : Nat) (k : Core) : (s.setCore c k).groupLaunch = s.groupLaunch := rfl
@[simp] theorem State.setCore_collIn (c : Nat) (k : Core) : (s.setCore c k).collIn = s.collIn := rfl
@[simp] theorem State.setCore_collSt (c : Nat) (k : Core) : (s.setCore c k).collSt = s.collSt := rfl
@[simp] theorem State.setCore_dieTimes (c : Nat) (k : Core) : (s.setCore c k).dieTimes = s.dieTimes := rfl
@[simp] theorem State.setCore_pkgTimes (c : Nat) (k : Core) : (s.setCore c k).pkgTimes = s.pkgTimes := rfl
@[simp] theorem State.setCore_dispatch (c : Nat) (k : Core) : (s.setCore c k).dispatch = s.dispatch := rfl
@[simp] theorem State.setCore_spawned (c : Nat) (k : Core) : (s.setCore c k).spawned = s.spawned := rfl
@[simp] theorem State.setCore_away (c : Nat) (k : Core) : (s.setCore c k).away = s.away := rfl
@[simp] theorem State.setCore_coreImgs (c : Nat) (k : Core) : (s.setCore c k).coreImgs = s.coreImgs := rfl
@[simp] theorem State.setCore_faultQ (c : Nat) (k : Core) : (s.setCore c k).faultQ = s.faultQ := rfl
@[simp] theorem State.setCore_launches (c : Nat) (k : Core) : (s.setCore c k).launches = s.launches := rfl
@[simp] theorem State.setCore_workQ (c : Nat) (k : Core) : (s.setCore c k).workQ = s.workQ := rfl
@[simp] theorem State.setCore_devQ (c : Nat) (k : Core) : (s.setCore c k).devQ = s.devQ := rfl
@[simp] theorem State.setCore_ovf (c : Nat) (k : Core) : (s.setCore c k).ovf = s.ovf := rfl
@[simp] theorem State.setCore_waiting (c : Nat) (k : Core) : (s.setCore c k).waiting = s.waiting := rfl
@[simp] theorem State.setCore_completions (c : Nat) (k : Core) : (s.setCore c k).completions = s.completions := rfl
@[simp] theorem State.setCore_rrNext (c : Nat) (k : Core) : (s.setCore c k).rrNext = s.rrNext := rfl
@[simp] theorem State.setCore_lastArb (c : Nat) (k : Core) : (s.setCore c k).lastArb = s.lastArb := rfl
@[simp] theorem State.setCore_outputs (c : Nat) (k : Core) : (s.setCore c k).outputs = s.outputs := rfl
@[simp] theorem State.setCore_pci (c : Nat) (k : Core) : (s.setCore c k).pci = s.pci := rfl
@[simp] theorem State.setCore_groupSlot (c : Nat) (k : Core) : (s.setCore c k).groupSlot = s.groupSlot := rfl
@[simp] theorem State.setCore_ports (c : Nat) (k : Core) : (s.setCore c k).ports = s.ports := rfl
@[simp] theorem State.setCore_bonds (c : Nat) (k : Core) : (s.setCore c k).bonds = s.bonds := rfl
@[simp] theorem State.setCore_podOut (c : Nat) (k : Core) : (s.setCore c k).podOut = s.podOut := rfl
@[simp] theorem State.setCore_podSent (c : Nat) (k : Core) : (s.setCore c k).podSent = s.podSent := rfl
@[simp] theorem State.setCore_sendQ (c : Nat) (k : Core) : (s.setCore c k).sendQ = s.sendQ := rfl
@[simp] theorem State.setCore_chain (c : Nat) (k : Core) : (s.setCore c k).chain = s.chain := rfl
@[simp] theorem State.setCore_chainNext (c : Nat) (k : Core) : (s.setCore c k).chainNext = s.chainNext := rfl
@[simp] theorem State.setCore_chainSlot (c : Nat) (k : Core) : (s.setCore c k).chainSlot = s.chainSlot := rfl
@[simp] theorem State.setCore_bring (c : Nat) (k : Core) : (s.setCore c k).bring = s.bring := rfl
@[simp] theorem State.setCore_ckpt (c : Nat) (k : Core) : (s.setCore c k).ckpt = s.ckpt := rfl
@[simp] theorem State.setCore_debt (c : Nat) (k : Core) : (s.setCore c k).debt = s.debt := rfl
@[simp] theorem State.setCore_swap (c : Nat) (k : Core) : (s.setCore c k).swap = s.swap := rfl
@[simp] theorem State.setCore_adaptive (c : Nat) (k : Core) : (s.setCore c k).adaptive = s.adaptive := rfl
@[simp] theorem State.setCore_topo (c : Nat) (k : Core) : (s.setCore c k).topo = s.topo := rfl
@[simp] theorem State.setCore_nonce (c : Nat) (k : Core) : (s.setCore c k).nonce = s.nonce := rfl
@[simp] theorem State.setCore_places (c : Nat) (k : Core) : (s.setCore c k).places = s.places := rfl
@[simp] theorem State.setCore_netMarks (c : Nat) (k : Core) : (s.setCore c k).netMarks = s.netMarks := rfl
@[simp] theorem State.setCore_gives (c : Nat) (k : Core) : (s.setCore c k).gives = s.gives := rfl
@[simp] theorem State.setCore_slotCubes (c : Nat) (k : Core) : (s.setCore c k).slotCubes = s.slotCubes := rfl
@[simp] theorem State.setCore_podParts (c : Nat) (k : Core) : (s.setCore c k).podParts = s.podParts := rfl
@[simp] theorem State.setCore_nonceMask (c : Nat) (k : Core) : (s.setCore c k).nonceMask = s.nonceMask := rfl
@[simp] theorem State.setCore_asks (c : Nat) (k : Core) : (s.setCore c k).asks = s.asks := rfl
@[simp] theorem State.setCore_podIn (c : Nat) (k : Core) : (s.setCore c k).podIn = s.podIn := rfl
@[simp] theorem State.setCore_hostIn (c : Nat) (k : Core) : (s.setCore c k).hostIn = s.hostIn := rfl
@[simp] theorem State.setCore_flash (c : Nat) (k : Core) : (s.setCore c k).flash = s.flash := rfl
@[simp] theorem State.setCore_running (c : Nat) (k : Core) : (s.setCore c k).running = s.running := rfl
@[simp] theorem State.setCore_cycle (c : Nat) (k : Core) : (s.setCore c k).cycle = s.cycle := rfl
@[simp] theorem State.setCore_scr4 (c : Nat) (k : Core) : (s.setCore c k).scr4 = s.scr4 := rfl
@[simp] theorem State.setCore_pod8 (c : Nat) (k : Core) : (s.setCore c k).pod8 = s.pod8 := rfl
@[simp] theorem State.setCore_cur (c : Nat) (k : Core) : (s.setCore c k).cur = s.cur := rfl
@[simp] theorem State.setCore_args (c : Nat) (k : Core) : (s.setCore c k).args = s.args := rfl
@[simp] theorem State.setCore_agenda (c : Nat) (k : Core) : (s.setCore c k).agenda = s.agenda := rfl
@[simp] theorem State.setCore_issueQ (c : Nat) (k : Core) : (s.setCore c k).issueQ = s.issueQ := rfl
@[simp] theorem State.setCore_fresh (c : Nat) (k : Core) : (s.setCore c k).fresh = s.fresh := rfl

/-! ## modCore -/

@[simp] theorem State.modCore_mem (c : Nat) (f : Core → Core) : (s.modCore c f).mem = s.mem := rfl
@[simp] theorem State.modCore_quads (c : Nat) (f : Core → Core) : (s.modCore c f).quads = s.quads := rfl
@[simp] theorem State.modCore_skims (c : Nat) (f : Core → Core) : (s.modCore c f).skims = s.skims := rfl
@[simp] theorem State.modCore_trapvec (c : Nat) (f : Core → Core) : (s.modCore c f).trapvec = s.trapvec := rfl
@[simp] theorem State.modCore_wdog (c : Nat) (f : Core → Core) : (s.modCore c f).wdog = s.wdog := rfl
@[simp] theorem State.modCore_cw (c : Nat) (f : Core → Core) : (s.modCore c f).cw = s.cw := rfl
@[simp] theorem State.modCore_gran (c : Nat) (f : Core → Core) : (s.modCore c f).gran = s.gran := rfl
@[simp] theorem State.modCore_resv (c : Nat) (f : Core → Core) : (s.modCore c f).resv = s.resv := rfl
@[simp] theorem State.modCore_poison (c : Nat) (f : Core → Core) : (s.modCore c f).poison = s.poison := rfl
@[simp] theorem State.modCore_remap (c : Nat) (f : Core → Core) : (s.modCore c f).remap = s.remap := rfl
@[simp] theorem State.modCore_regionCnt (c : Nat) (f : Core → Core) : (s.modCore c f).regionCnt = s.regionCnt := rfl
@[simp] theorem State.modCore_chanMap (c : Nat) (f : Core → Core) : (s.modCore c f).chanMap = s.chanMap := rfl
@[simp] theorem State.modCore_evict (c : Nat) (f : Core → Core) : (s.modCore c f).evict = s.evict := rfl
@[simp] theorem State.modCore_images (c : Nat) (f : Core → Core) : (s.modCore c f).images = s.images := rfl
@[simp] theorem State.modCore_l2walk (c : Nat) (f : Core → Core) : (s.modCore c f).l2walk = s.l2walk := rfl
@[simp] theorem State.modCore_net (c : Nat) (f : Core → Core) : (s.modCore c f).net = s.net := rfl
@[simp] theorem State.modCore_nextMsg (c : Nat) (f : Core → Core) : (s.modCore c f).nextMsg = s.nextMsg := rfl
@[simp] theorem State.modCore_engLast (c : Nat) (f : Core → Core) : (s.modCore c f).engLast = s.engLast := rfl
@[simp] theorem State.modCore_countAt (c : Nat) (f : Core → Core) : (s.modCore c f).countAt = s.countAt := rfl
@[simp] theorem State.modCore_wideNets (c : Nat) (f : Core → Core) : (s.modCore c f).wideNets = s.wideNets := rfl
@[simp] theorem State.modCore_hostQ (c : Nat) (f : Core → Core) : (s.modCore c f).hostQ = s.hostQ := rfl
@[simp] theorem State.modCore_tier (c : Nat) (f : Core → Core) : (s.modCore c f).tier = s.tier := rfl
@[simp] theorem State.modCore_rings (c : Nat) (f : Core → Core) : (s.modCore c f).rings = s.rings := rfl
@[simp] theorem State.modCore_ringWrites (c : Nat) (f : Core → Core) : (s.modCore c f).ringWrites = s.ringWrites := rfl
@[simp] theorem State.modCore_deliveries (c : Nat) (f : Core → Core) : (s.modCore c f).deliveries = s.deliveries := rfl
@[simp] theorem State.modCore_xfers (c : Nat) (f : Core → Core) : (s.modCore c f).xfers = s.xfers := rfl
@[simp] theorem State.modCore_xseq (c : Nat) (f : Core → Core) : (s.modCore c f).xseq = s.xseq := rfl
@[simp] theorem State.modCore_groups (c : Nat) (f : Core → Core) : (s.modCore c f).groups = s.groups := rfl
@[simp] theorem State.modCore_groupLaunch (c : Nat) (f : Core → Core) : (s.modCore c f).groupLaunch = s.groupLaunch := rfl
@[simp] theorem State.modCore_collIn (c : Nat) (f : Core → Core) : (s.modCore c f).collIn = s.collIn := rfl
@[simp] theorem State.modCore_collSt (c : Nat) (f : Core → Core) : (s.modCore c f).collSt = s.collSt := rfl
@[simp] theorem State.modCore_dieTimes (c : Nat) (f : Core → Core) : (s.modCore c f).dieTimes = s.dieTimes := rfl
@[simp] theorem State.modCore_pkgTimes (c : Nat) (f : Core → Core) : (s.modCore c f).pkgTimes = s.pkgTimes := rfl
@[simp] theorem State.modCore_dispatch (c : Nat) (f : Core → Core) : (s.modCore c f).dispatch = s.dispatch := rfl
@[simp] theorem State.modCore_spawned (c : Nat) (f : Core → Core) : (s.modCore c f).spawned = s.spawned := rfl
@[simp] theorem State.modCore_away (c : Nat) (f : Core → Core) : (s.modCore c f).away = s.away := rfl
@[simp] theorem State.modCore_coreImgs (c : Nat) (f : Core → Core) : (s.modCore c f).coreImgs = s.coreImgs := rfl
@[simp] theorem State.modCore_faultQ (c : Nat) (f : Core → Core) : (s.modCore c f).faultQ = s.faultQ := rfl
@[simp] theorem State.modCore_launches (c : Nat) (f : Core → Core) : (s.modCore c f).launches = s.launches := rfl
@[simp] theorem State.modCore_workQ (c : Nat) (f : Core → Core) : (s.modCore c f).workQ = s.workQ := rfl
@[simp] theorem State.modCore_devQ (c : Nat) (f : Core → Core) : (s.modCore c f).devQ = s.devQ := rfl
@[simp] theorem State.modCore_ovf (c : Nat) (f : Core → Core) : (s.modCore c f).ovf = s.ovf := rfl
@[simp] theorem State.modCore_waiting (c : Nat) (f : Core → Core) : (s.modCore c f).waiting = s.waiting := rfl
@[simp] theorem State.modCore_completions (c : Nat) (f : Core → Core) : (s.modCore c f).completions = s.completions := rfl
@[simp] theorem State.modCore_rrNext (c : Nat) (f : Core → Core) : (s.modCore c f).rrNext = s.rrNext := rfl
@[simp] theorem State.modCore_lastArb (c : Nat) (f : Core → Core) : (s.modCore c f).lastArb = s.lastArb := rfl
@[simp] theorem State.modCore_outputs (c : Nat) (f : Core → Core) : (s.modCore c f).outputs = s.outputs := rfl
@[simp] theorem State.modCore_pci (c : Nat) (f : Core → Core) : (s.modCore c f).pci = s.pci := rfl
@[simp] theorem State.modCore_groupSlot (c : Nat) (f : Core → Core) : (s.modCore c f).groupSlot = s.groupSlot := rfl
@[simp] theorem State.modCore_ports (c : Nat) (f : Core → Core) : (s.modCore c f).ports = s.ports := rfl
@[simp] theorem State.modCore_bonds (c : Nat) (f : Core → Core) : (s.modCore c f).bonds = s.bonds := rfl
@[simp] theorem State.modCore_podOut (c : Nat) (f : Core → Core) : (s.modCore c f).podOut = s.podOut := rfl
@[simp] theorem State.modCore_podSent (c : Nat) (f : Core → Core) : (s.modCore c f).podSent = s.podSent := rfl
@[simp] theorem State.modCore_sendQ (c : Nat) (f : Core → Core) : (s.modCore c f).sendQ = s.sendQ := rfl
@[simp] theorem State.modCore_chain (c : Nat) (f : Core → Core) : (s.modCore c f).chain = s.chain := rfl
@[simp] theorem State.modCore_chainNext (c : Nat) (f : Core → Core) : (s.modCore c f).chainNext = s.chainNext := rfl
@[simp] theorem State.modCore_chainSlot (c : Nat) (f : Core → Core) : (s.modCore c f).chainSlot = s.chainSlot := rfl
@[simp] theorem State.modCore_bring (c : Nat) (f : Core → Core) : (s.modCore c f).bring = s.bring := rfl
@[simp] theorem State.modCore_ckpt (c : Nat) (f : Core → Core) : (s.modCore c f).ckpt = s.ckpt := rfl
@[simp] theorem State.modCore_debt (c : Nat) (f : Core → Core) : (s.modCore c f).debt = s.debt := rfl
@[simp] theorem State.modCore_swap (c : Nat) (f : Core → Core) : (s.modCore c f).swap = s.swap := rfl
@[simp] theorem State.modCore_adaptive (c : Nat) (f : Core → Core) : (s.modCore c f).adaptive = s.adaptive := rfl
@[simp] theorem State.modCore_topo (c : Nat) (f : Core → Core) : (s.modCore c f).topo = s.topo := rfl
@[simp] theorem State.modCore_nonce (c : Nat) (f : Core → Core) : (s.modCore c f).nonce = s.nonce := rfl
@[simp] theorem State.modCore_places (c : Nat) (f : Core → Core) : (s.modCore c f).places = s.places := rfl
@[simp] theorem State.modCore_netMarks (c : Nat) (f : Core → Core) : (s.modCore c f).netMarks = s.netMarks := rfl
@[simp] theorem State.modCore_gives (c : Nat) (f : Core → Core) : (s.modCore c f).gives = s.gives := rfl
@[simp] theorem State.modCore_slotCubes (c : Nat) (f : Core → Core) : (s.modCore c f).slotCubes = s.slotCubes := rfl
@[simp] theorem State.modCore_podParts (c : Nat) (f : Core → Core) : (s.modCore c f).podParts = s.podParts := rfl
@[simp] theorem State.modCore_nonceMask (c : Nat) (f : Core → Core) : (s.modCore c f).nonceMask = s.nonceMask := rfl
@[simp] theorem State.modCore_asks (c : Nat) (f : Core → Core) : (s.modCore c f).asks = s.asks := rfl
@[simp] theorem State.modCore_podIn (c : Nat) (f : Core → Core) : (s.modCore c f).podIn = s.podIn := rfl
@[simp] theorem State.modCore_hostIn (c : Nat) (f : Core → Core) : (s.modCore c f).hostIn = s.hostIn := rfl
@[simp] theorem State.modCore_flash (c : Nat) (f : Core → Core) : (s.modCore c f).flash = s.flash := rfl
@[simp] theorem State.modCore_running (c : Nat) (f : Core → Core) : (s.modCore c f).running = s.running := rfl
@[simp] theorem State.modCore_cycle (c : Nat) (f : Core → Core) : (s.modCore c f).cycle = s.cycle := rfl
@[simp] theorem State.modCore_scr4 (c : Nat) (f : Core → Core) : (s.modCore c f).scr4 = s.scr4 := rfl
@[simp] theorem State.modCore_pod8 (c : Nat) (f : Core → Core) : (s.modCore c f).pod8 = s.pod8 := rfl
@[simp] theorem State.modCore_cur (c : Nat) (f : Core → Core) : (s.modCore c f).cur = s.cur := rfl
@[simp] theorem State.modCore_args (c : Nat) (f : Core → Core) : (s.modCore c f).args = s.args := rfl
@[simp] theorem State.modCore_agenda (c : Nat) (f : Core → Core) : (s.modCore c f).agenda = s.agenda := rfl
@[simp] theorem State.modCore_issueQ (c : Nat) (f : Core → Core) : (s.modCore c f).issueQ = s.issueQ := rfl
@[simp] theorem State.modCore_fresh (c : Nat) (f : Core → Core) : (s.modCore c f).fresh = s.fresh := rfl

/-! ## setThrAt -/

@[simp] theorem State.setThrAt_mem (c i : Nat) (t : Thread) : (s.setThrAt c i t).mem = s.mem := rfl
@[simp] theorem State.setThrAt_quads (c i : Nat) (t : Thread) : (s.setThrAt c i t).quads = s.quads := rfl
@[simp] theorem State.setThrAt_skims (c i : Nat) (t : Thread) : (s.setThrAt c i t).skims = s.skims := rfl
@[simp] theorem State.setThrAt_trapvec (c i : Nat) (t : Thread) : (s.setThrAt c i t).trapvec = s.trapvec := rfl
@[simp] theorem State.setThrAt_wdog (c i : Nat) (t : Thread) : (s.setThrAt c i t).wdog = s.wdog := rfl
@[simp] theorem State.setThrAt_cw (c i : Nat) (t : Thread) : (s.setThrAt c i t).cw = s.cw := rfl
@[simp] theorem State.setThrAt_gran (c i : Nat) (t : Thread) : (s.setThrAt c i t).gran = s.gran := rfl
@[simp] theorem State.setThrAt_resv (c i : Nat) (t : Thread) : (s.setThrAt c i t).resv = s.resv := rfl
@[simp] theorem State.setThrAt_poison (c i : Nat) (t : Thread) : (s.setThrAt c i t).poison = s.poison := rfl
@[simp] theorem State.setThrAt_remap (c i : Nat) (t : Thread) : (s.setThrAt c i t).remap = s.remap := rfl
@[simp] theorem State.setThrAt_regionCnt (c i : Nat) (t : Thread) : (s.setThrAt c i t).regionCnt = s.regionCnt := rfl
@[simp] theorem State.setThrAt_chanMap (c i : Nat) (t : Thread) : (s.setThrAt c i t).chanMap = s.chanMap := rfl
@[simp] theorem State.setThrAt_evict (c i : Nat) (t : Thread) : (s.setThrAt c i t).evict = s.evict := rfl
@[simp] theorem State.setThrAt_images (c i : Nat) (t : Thread) : (s.setThrAt c i t).images = s.images := rfl
@[simp] theorem State.setThrAt_l2walk (c i : Nat) (t : Thread) : (s.setThrAt c i t).l2walk = s.l2walk := rfl
@[simp] theorem State.setThrAt_net (c i : Nat) (t : Thread) : (s.setThrAt c i t).net = s.net := rfl
@[simp] theorem State.setThrAt_nextMsg (c i : Nat) (t : Thread) : (s.setThrAt c i t).nextMsg = s.nextMsg := rfl
@[simp] theorem State.setThrAt_engLast (c i : Nat) (t : Thread) : (s.setThrAt c i t).engLast = s.engLast := rfl
@[simp] theorem State.setThrAt_countAt (c i : Nat) (t : Thread) : (s.setThrAt c i t).countAt = s.countAt := rfl
@[simp] theorem State.setThrAt_wideNets (c i : Nat) (t : Thread) : (s.setThrAt c i t).wideNets = s.wideNets := rfl
@[simp] theorem State.setThrAt_hostQ (c i : Nat) (t : Thread) : (s.setThrAt c i t).hostQ = s.hostQ := rfl
@[simp] theorem State.setThrAt_tier (c i : Nat) (t : Thread) : (s.setThrAt c i t).tier = s.tier := rfl
@[simp] theorem State.setThrAt_rings (c i : Nat) (t : Thread) : (s.setThrAt c i t).rings = s.rings := rfl
@[simp] theorem State.setThrAt_ringWrites (c i : Nat) (t : Thread) : (s.setThrAt c i t).ringWrites = s.ringWrites := rfl
@[simp] theorem State.setThrAt_deliveries (c i : Nat) (t : Thread) : (s.setThrAt c i t).deliveries = s.deliveries := rfl
@[simp] theorem State.setThrAt_xfers (c i : Nat) (t : Thread) : (s.setThrAt c i t).xfers = s.xfers := rfl
@[simp] theorem State.setThrAt_xseq (c i : Nat) (t : Thread) : (s.setThrAt c i t).xseq = s.xseq := rfl
@[simp] theorem State.setThrAt_groups (c i : Nat) (t : Thread) : (s.setThrAt c i t).groups = s.groups := rfl
@[simp] theorem State.setThrAt_groupLaunch (c i : Nat) (t : Thread) : (s.setThrAt c i t).groupLaunch = s.groupLaunch := rfl
@[simp] theorem State.setThrAt_collIn (c i : Nat) (t : Thread) : (s.setThrAt c i t).collIn = s.collIn := rfl
@[simp] theorem State.setThrAt_collSt (c i : Nat) (t : Thread) : (s.setThrAt c i t).collSt = s.collSt := rfl
@[simp] theorem State.setThrAt_dieTimes (c i : Nat) (t : Thread) : (s.setThrAt c i t).dieTimes = s.dieTimes := rfl
@[simp] theorem State.setThrAt_pkgTimes (c i : Nat) (t : Thread) : (s.setThrAt c i t).pkgTimes = s.pkgTimes := rfl
@[simp] theorem State.setThrAt_dispatch (c i : Nat) (t : Thread) : (s.setThrAt c i t).dispatch = s.dispatch := rfl
@[simp] theorem State.setThrAt_spawned (c i : Nat) (t : Thread) : (s.setThrAt c i t).spawned = s.spawned := rfl
@[simp] theorem State.setThrAt_away (c i : Nat) (t : Thread) : (s.setThrAt c i t).away = s.away := rfl
@[simp] theorem State.setThrAt_coreImgs (c i : Nat) (t : Thread) : (s.setThrAt c i t).coreImgs = s.coreImgs := rfl
@[simp] theorem State.setThrAt_faultQ (c i : Nat) (t : Thread) : (s.setThrAt c i t).faultQ = s.faultQ := rfl
@[simp] theorem State.setThrAt_launches (c i : Nat) (t : Thread) : (s.setThrAt c i t).launches = s.launches := rfl
@[simp] theorem State.setThrAt_workQ (c i : Nat) (t : Thread) : (s.setThrAt c i t).workQ = s.workQ := rfl
@[simp] theorem State.setThrAt_devQ (c i : Nat) (t : Thread) : (s.setThrAt c i t).devQ = s.devQ := rfl
@[simp] theorem State.setThrAt_ovf (c i : Nat) (t : Thread) : (s.setThrAt c i t).ovf = s.ovf := rfl
@[simp] theorem State.setThrAt_waiting (c i : Nat) (t : Thread) : (s.setThrAt c i t).waiting = s.waiting := rfl
@[simp] theorem State.setThrAt_completions (c i : Nat) (t : Thread) : (s.setThrAt c i t).completions = s.completions := rfl
@[simp] theorem State.setThrAt_rrNext (c i : Nat) (t : Thread) : (s.setThrAt c i t).rrNext = s.rrNext := rfl
@[simp] theorem State.setThrAt_lastArb (c i : Nat) (t : Thread) : (s.setThrAt c i t).lastArb = s.lastArb := rfl
@[simp] theorem State.setThrAt_outputs (c i : Nat) (t : Thread) : (s.setThrAt c i t).outputs = s.outputs := rfl
@[simp] theorem State.setThrAt_pci (c i : Nat) (t : Thread) : (s.setThrAt c i t).pci = s.pci := rfl
@[simp] theorem State.setThrAt_groupSlot (c i : Nat) (t : Thread) : (s.setThrAt c i t).groupSlot = s.groupSlot := rfl
@[simp] theorem State.setThrAt_ports (c i : Nat) (t : Thread) : (s.setThrAt c i t).ports = s.ports := rfl
@[simp] theorem State.setThrAt_bonds (c i : Nat) (t : Thread) : (s.setThrAt c i t).bonds = s.bonds := rfl
@[simp] theorem State.setThrAt_podOut (c i : Nat) (t : Thread) : (s.setThrAt c i t).podOut = s.podOut := rfl
@[simp] theorem State.setThrAt_podSent (c i : Nat) (t : Thread) : (s.setThrAt c i t).podSent = s.podSent := rfl
@[simp] theorem State.setThrAt_sendQ (c i : Nat) (t : Thread) : (s.setThrAt c i t).sendQ = s.sendQ := rfl
@[simp] theorem State.setThrAt_chain (c i : Nat) (t : Thread) : (s.setThrAt c i t).chain = s.chain := rfl
@[simp] theorem State.setThrAt_chainNext (c i : Nat) (t : Thread) : (s.setThrAt c i t).chainNext = s.chainNext := rfl
@[simp] theorem State.setThrAt_chainSlot (c i : Nat) (t : Thread) : (s.setThrAt c i t).chainSlot = s.chainSlot := rfl
@[simp] theorem State.setThrAt_bring (c i : Nat) (t : Thread) : (s.setThrAt c i t).bring = s.bring := rfl
@[simp] theorem State.setThrAt_ckpt (c i : Nat) (t : Thread) : (s.setThrAt c i t).ckpt = s.ckpt := rfl
@[simp] theorem State.setThrAt_debt (c i : Nat) (t : Thread) : (s.setThrAt c i t).debt = s.debt := rfl
@[simp] theorem State.setThrAt_swap (c i : Nat) (t : Thread) : (s.setThrAt c i t).swap = s.swap := rfl
@[simp] theorem State.setThrAt_adaptive (c i : Nat) (t : Thread) : (s.setThrAt c i t).adaptive = s.adaptive := rfl
@[simp] theorem State.setThrAt_topo (c i : Nat) (t : Thread) : (s.setThrAt c i t).topo = s.topo := rfl
@[simp] theorem State.setThrAt_nonce (c i : Nat) (t : Thread) : (s.setThrAt c i t).nonce = s.nonce := rfl
@[simp] theorem State.setThrAt_places (c i : Nat) (t : Thread) : (s.setThrAt c i t).places = s.places := rfl
@[simp] theorem State.setThrAt_netMarks (c i : Nat) (t : Thread) : (s.setThrAt c i t).netMarks = s.netMarks := rfl
@[simp] theorem State.setThrAt_gives (c i : Nat) (t : Thread) : (s.setThrAt c i t).gives = s.gives := rfl
@[simp] theorem State.setThrAt_slotCubes (c i : Nat) (t : Thread) : (s.setThrAt c i t).slotCubes = s.slotCubes := rfl
@[simp] theorem State.setThrAt_podParts (c i : Nat) (t : Thread) : (s.setThrAt c i t).podParts = s.podParts := rfl
@[simp] theorem State.setThrAt_nonceMask (c i : Nat) (t : Thread) : (s.setThrAt c i t).nonceMask = s.nonceMask := rfl
@[simp] theorem State.setThrAt_asks (c i : Nat) (t : Thread) : (s.setThrAt c i t).asks = s.asks := rfl
@[simp] theorem State.setThrAt_podIn (c i : Nat) (t : Thread) : (s.setThrAt c i t).podIn = s.podIn := rfl
@[simp] theorem State.setThrAt_hostIn (c i : Nat) (t : Thread) : (s.setThrAt c i t).hostIn = s.hostIn := rfl
@[simp] theorem State.setThrAt_flash (c i : Nat) (t : Thread) : (s.setThrAt c i t).flash = s.flash := rfl
@[simp] theorem State.setThrAt_running (c i : Nat) (t : Thread) : (s.setThrAt c i t).running = s.running := rfl
@[simp] theorem State.setThrAt_cycle (c i : Nat) (t : Thread) : (s.setThrAt c i t).cycle = s.cycle := rfl
@[simp] theorem State.setThrAt_scr4 (c i : Nat) (t : Thread) : (s.setThrAt c i t).scr4 = s.scr4 := rfl
@[simp] theorem State.setThrAt_pod8 (c i : Nat) (t : Thread) : (s.setThrAt c i t).pod8 = s.pod8 := rfl
@[simp] theorem State.setThrAt_cur (c i : Nat) (t : Thread) : (s.setThrAt c i t).cur = s.cur := rfl
@[simp] theorem State.setThrAt_args (c i : Nat) (t : Thread) : (s.setThrAt c i t).args = s.args := rfl
@[simp] theorem State.setThrAt_agenda (c i : Nat) (t : Thread) : (s.setThrAt c i t).agenda = s.agenda := rfl
@[simp] theorem State.setThrAt_issueQ (c i : Nat) (t : Thread) : (s.setThrAt c i t).issueQ = s.issueQ := rfl
@[simp] theorem State.setThrAt_fresh (c i : Nat) (t : Thread) : (s.setThrAt c i t).fresh = s.fresh := rfl

/-! ## setThr -/

@[simp] theorem State.setThr_mem (t : Thread) : (s.setThr t).mem = s.mem := rfl
@[simp] theorem State.setThr_quads (t : Thread) : (s.setThr t).quads = s.quads := rfl
@[simp] theorem State.setThr_skims (t : Thread) : (s.setThr t).skims = s.skims := rfl
@[simp] theorem State.setThr_trapvec (t : Thread) : (s.setThr t).trapvec = s.trapvec := rfl
@[simp] theorem State.setThr_wdog (t : Thread) : (s.setThr t).wdog = s.wdog := rfl
@[simp] theorem State.setThr_cw (t : Thread) : (s.setThr t).cw = s.cw := rfl
@[simp] theorem State.setThr_gran (t : Thread) : (s.setThr t).gran = s.gran := rfl
@[simp] theorem State.setThr_resv (t : Thread) : (s.setThr t).resv = s.resv := rfl
@[simp] theorem State.setThr_poison (t : Thread) : (s.setThr t).poison = s.poison := rfl
@[simp] theorem State.setThr_remap (t : Thread) : (s.setThr t).remap = s.remap := rfl
@[simp] theorem State.setThr_regionCnt (t : Thread) : (s.setThr t).regionCnt = s.regionCnt := rfl
@[simp] theorem State.setThr_chanMap (t : Thread) : (s.setThr t).chanMap = s.chanMap := rfl
@[simp] theorem State.setThr_evict (t : Thread) : (s.setThr t).evict = s.evict := rfl
@[simp] theorem State.setThr_images (t : Thread) : (s.setThr t).images = s.images := rfl
@[simp] theorem State.setThr_l2walk (t : Thread) : (s.setThr t).l2walk = s.l2walk := rfl
@[simp] theorem State.setThr_net (t : Thread) : (s.setThr t).net = s.net := rfl
@[simp] theorem State.setThr_nextMsg (t : Thread) : (s.setThr t).nextMsg = s.nextMsg := rfl
@[simp] theorem State.setThr_engLast (t : Thread) : (s.setThr t).engLast = s.engLast := rfl
@[simp] theorem State.setThr_countAt (t : Thread) : (s.setThr t).countAt = s.countAt := rfl
@[simp] theorem State.setThr_wideNets (t : Thread) : (s.setThr t).wideNets = s.wideNets := rfl
@[simp] theorem State.setThr_hostQ (t : Thread) : (s.setThr t).hostQ = s.hostQ := rfl
@[simp] theorem State.setThr_tier (t : Thread) : (s.setThr t).tier = s.tier := rfl
@[simp] theorem State.setThr_rings (t : Thread) : (s.setThr t).rings = s.rings := rfl
@[simp] theorem State.setThr_ringWrites (t : Thread) : (s.setThr t).ringWrites = s.ringWrites := rfl
@[simp] theorem State.setThr_deliveries (t : Thread) : (s.setThr t).deliveries = s.deliveries := rfl
@[simp] theorem State.setThr_xfers (t : Thread) : (s.setThr t).xfers = s.xfers := rfl
@[simp] theorem State.setThr_xseq (t : Thread) : (s.setThr t).xseq = s.xseq := rfl
@[simp] theorem State.setThr_groups (t : Thread) : (s.setThr t).groups = s.groups := rfl
@[simp] theorem State.setThr_groupLaunch (t : Thread) : (s.setThr t).groupLaunch = s.groupLaunch := rfl
@[simp] theorem State.setThr_collIn (t : Thread) : (s.setThr t).collIn = s.collIn := rfl
@[simp] theorem State.setThr_collSt (t : Thread) : (s.setThr t).collSt = s.collSt := rfl
@[simp] theorem State.setThr_dieTimes (t : Thread) : (s.setThr t).dieTimes = s.dieTimes := rfl
@[simp] theorem State.setThr_pkgTimes (t : Thread) : (s.setThr t).pkgTimes = s.pkgTimes := rfl
@[simp] theorem State.setThr_dispatch (t : Thread) : (s.setThr t).dispatch = s.dispatch := rfl
@[simp] theorem State.setThr_spawned (t : Thread) : (s.setThr t).spawned = s.spawned := rfl
@[simp] theorem State.setThr_away (t : Thread) : (s.setThr t).away = s.away := rfl
@[simp] theorem State.setThr_coreImgs (t : Thread) : (s.setThr t).coreImgs = s.coreImgs := rfl
@[simp] theorem State.setThr_faultQ (t : Thread) : (s.setThr t).faultQ = s.faultQ := rfl
@[simp] theorem State.setThr_launches (t : Thread) : (s.setThr t).launches = s.launches := rfl
@[simp] theorem State.setThr_workQ (t : Thread) : (s.setThr t).workQ = s.workQ := rfl
@[simp] theorem State.setThr_devQ (t : Thread) : (s.setThr t).devQ = s.devQ := rfl
@[simp] theorem State.setThr_ovf (t : Thread) : (s.setThr t).ovf = s.ovf := rfl
@[simp] theorem State.setThr_waiting (t : Thread) : (s.setThr t).waiting = s.waiting := rfl
@[simp] theorem State.setThr_completions (t : Thread) : (s.setThr t).completions = s.completions := rfl
@[simp] theorem State.setThr_rrNext (t : Thread) : (s.setThr t).rrNext = s.rrNext := rfl
@[simp] theorem State.setThr_lastArb (t : Thread) : (s.setThr t).lastArb = s.lastArb := rfl
@[simp] theorem State.setThr_outputs (t : Thread) : (s.setThr t).outputs = s.outputs := rfl
@[simp] theorem State.setThr_pci (t : Thread) : (s.setThr t).pci = s.pci := rfl
@[simp] theorem State.setThr_groupSlot (t : Thread) : (s.setThr t).groupSlot = s.groupSlot := rfl
@[simp] theorem State.setThr_ports (t : Thread) : (s.setThr t).ports = s.ports := rfl
@[simp] theorem State.setThr_bonds (t : Thread) : (s.setThr t).bonds = s.bonds := rfl
@[simp] theorem State.setThr_podOut (t : Thread) : (s.setThr t).podOut = s.podOut := rfl
@[simp] theorem State.setThr_podSent (t : Thread) : (s.setThr t).podSent = s.podSent := rfl
@[simp] theorem State.setThr_sendQ (t : Thread) : (s.setThr t).sendQ = s.sendQ := rfl
@[simp] theorem State.setThr_chain (t : Thread) : (s.setThr t).chain = s.chain := rfl
@[simp] theorem State.setThr_chainNext (t : Thread) : (s.setThr t).chainNext = s.chainNext := rfl
@[simp] theorem State.setThr_chainSlot (t : Thread) : (s.setThr t).chainSlot = s.chainSlot := rfl
@[simp] theorem State.setThr_bring (t : Thread) : (s.setThr t).bring = s.bring := rfl
@[simp] theorem State.setThr_ckpt (t : Thread) : (s.setThr t).ckpt = s.ckpt := rfl
@[simp] theorem State.setThr_debt (t : Thread) : (s.setThr t).debt = s.debt := rfl
@[simp] theorem State.setThr_swap (t : Thread) : (s.setThr t).swap = s.swap := rfl
@[simp] theorem State.setThr_adaptive (t : Thread) : (s.setThr t).adaptive = s.adaptive := rfl
@[simp] theorem State.setThr_topo (t : Thread) : (s.setThr t).topo = s.topo := rfl
@[simp] theorem State.setThr_nonce (t : Thread) : (s.setThr t).nonce = s.nonce := rfl
@[simp] theorem State.setThr_places (t : Thread) : (s.setThr t).places = s.places := rfl
@[simp] theorem State.setThr_netMarks (t : Thread) : (s.setThr t).netMarks = s.netMarks := rfl
@[simp] theorem State.setThr_gives (t : Thread) : (s.setThr t).gives = s.gives := rfl
@[simp] theorem State.setThr_slotCubes (t : Thread) : (s.setThr t).slotCubes = s.slotCubes := rfl
@[simp] theorem State.setThr_podParts (t : Thread) : (s.setThr t).podParts = s.podParts := rfl
@[simp] theorem State.setThr_nonceMask (t : Thread) : (s.setThr t).nonceMask = s.nonceMask := rfl
@[simp] theorem State.setThr_asks (t : Thread) : (s.setThr t).asks = s.asks := rfl
@[simp] theorem State.setThr_podIn (t : Thread) : (s.setThr t).podIn = s.podIn := rfl
@[simp] theorem State.setThr_hostIn (t : Thread) : (s.setThr t).hostIn = s.hostIn := rfl
@[simp] theorem State.setThr_flash (t : Thread) : (s.setThr t).flash = s.flash := rfl
@[simp] theorem State.setThr_running (t : Thread) : (s.setThr t).running = s.running := rfl
@[simp] theorem State.setThr_cycle (t : Thread) : (s.setThr t).cycle = s.cycle := rfl
@[simp] theorem State.setThr_scr4 (t : Thread) : (s.setThr t).scr4 = s.scr4 := rfl
@[simp] theorem State.setThr_pod8 (t : Thread) : (s.setThr t).pod8 = s.pod8 := rfl
@[simp] theorem State.setThr_cur (t : Thread) : (s.setThr t).cur = s.cur := rfl
@[simp] theorem State.setThr_args (t : Thread) : (s.setThr t).args = s.args := rfl
@[simp] theorem State.setThr_agenda (t : Thread) : (s.setThr t).agenda = s.agenda := rfl
@[simp] theorem State.setThr_issueQ (t : Thread) : (s.setThr t).issueQ = s.issueQ := rfl
@[simp] theorem State.setThr_fresh (t : Thread) : (s.setThr t).fresh = s.fresh := rfl

/-! ## modHere -/

@[simp] theorem State.modHere_mem (f : Core → Core) : (s.modHere f).mem = s.mem := rfl
@[simp] theorem State.modHere_quads (f : Core → Core) : (s.modHere f).quads = s.quads := rfl
@[simp] theorem State.modHere_skims (f : Core → Core) : (s.modHere f).skims = s.skims := rfl
@[simp] theorem State.modHere_trapvec (f : Core → Core) : (s.modHere f).trapvec = s.trapvec := rfl
@[simp] theorem State.modHere_wdog (f : Core → Core) : (s.modHere f).wdog = s.wdog := rfl
@[simp] theorem State.modHere_cw (f : Core → Core) : (s.modHere f).cw = s.cw := rfl
@[simp] theorem State.modHere_gran (f : Core → Core) : (s.modHere f).gran = s.gran := rfl
@[simp] theorem State.modHere_resv (f : Core → Core) : (s.modHere f).resv = s.resv := rfl
@[simp] theorem State.modHere_poison (f : Core → Core) : (s.modHere f).poison = s.poison := rfl
@[simp] theorem State.modHere_remap (f : Core → Core) : (s.modHere f).remap = s.remap := rfl
@[simp] theorem State.modHere_regionCnt (f : Core → Core) : (s.modHere f).regionCnt = s.regionCnt := rfl
@[simp] theorem State.modHere_chanMap (f : Core → Core) : (s.modHere f).chanMap = s.chanMap := rfl
@[simp] theorem State.modHere_evict (f : Core → Core) : (s.modHere f).evict = s.evict := rfl
@[simp] theorem State.modHere_images (f : Core → Core) : (s.modHere f).images = s.images := rfl
@[simp] theorem State.modHere_l2walk (f : Core → Core) : (s.modHere f).l2walk = s.l2walk := rfl
@[simp] theorem State.modHere_net (f : Core → Core) : (s.modHere f).net = s.net := rfl
@[simp] theorem State.modHere_nextMsg (f : Core → Core) : (s.modHere f).nextMsg = s.nextMsg := rfl
@[simp] theorem State.modHere_engLast (f : Core → Core) : (s.modHere f).engLast = s.engLast := rfl
@[simp] theorem State.modHere_countAt (f : Core → Core) : (s.modHere f).countAt = s.countAt := rfl
@[simp] theorem State.modHere_wideNets (f : Core → Core) : (s.modHere f).wideNets = s.wideNets := rfl
@[simp] theorem State.modHere_hostQ (f : Core → Core) : (s.modHere f).hostQ = s.hostQ := rfl
@[simp] theorem State.modHere_tier (f : Core → Core) : (s.modHere f).tier = s.tier := rfl
@[simp] theorem State.modHere_rings (f : Core → Core) : (s.modHere f).rings = s.rings := rfl
@[simp] theorem State.modHere_ringWrites (f : Core → Core) : (s.modHere f).ringWrites = s.ringWrites := rfl
@[simp] theorem State.modHere_deliveries (f : Core → Core) : (s.modHere f).deliveries = s.deliveries := rfl
@[simp] theorem State.modHere_xfers (f : Core → Core) : (s.modHere f).xfers = s.xfers := rfl
@[simp] theorem State.modHere_xseq (f : Core → Core) : (s.modHere f).xseq = s.xseq := rfl
@[simp] theorem State.modHere_groups (f : Core → Core) : (s.modHere f).groups = s.groups := rfl
@[simp] theorem State.modHere_groupLaunch (f : Core → Core) : (s.modHere f).groupLaunch = s.groupLaunch := rfl
@[simp] theorem State.modHere_collIn (f : Core → Core) : (s.modHere f).collIn = s.collIn := rfl
@[simp] theorem State.modHere_collSt (f : Core → Core) : (s.modHere f).collSt = s.collSt := rfl
@[simp] theorem State.modHere_dieTimes (f : Core → Core) : (s.modHere f).dieTimes = s.dieTimes := rfl
@[simp] theorem State.modHere_pkgTimes (f : Core → Core) : (s.modHere f).pkgTimes = s.pkgTimes := rfl
@[simp] theorem State.modHere_dispatch (f : Core → Core) : (s.modHere f).dispatch = s.dispatch := rfl
@[simp] theorem State.modHere_spawned (f : Core → Core) : (s.modHere f).spawned = s.spawned := rfl
@[simp] theorem State.modHere_away (f : Core → Core) : (s.modHere f).away = s.away := rfl
@[simp] theorem State.modHere_coreImgs (f : Core → Core) : (s.modHere f).coreImgs = s.coreImgs := rfl
@[simp] theorem State.modHere_faultQ (f : Core → Core) : (s.modHere f).faultQ = s.faultQ := rfl
@[simp] theorem State.modHere_launches (f : Core → Core) : (s.modHere f).launches = s.launches := rfl
@[simp] theorem State.modHere_workQ (f : Core → Core) : (s.modHere f).workQ = s.workQ := rfl
@[simp] theorem State.modHere_devQ (f : Core → Core) : (s.modHere f).devQ = s.devQ := rfl
@[simp] theorem State.modHere_ovf (f : Core → Core) : (s.modHere f).ovf = s.ovf := rfl
@[simp] theorem State.modHere_waiting (f : Core → Core) : (s.modHere f).waiting = s.waiting := rfl
@[simp] theorem State.modHere_completions (f : Core → Core) : (s.modHere f).completions = s.completions := rfl
@[simp] theorem State.modHere_rrNext (f : Core → Core) : (s.modHere f).rrNext = s.rrNext := rfl
@[simp] theorem State.modHere_lastArb (f : Core → Core) : (s.modHere f).lastArb = s.lastArb := rfl
@[simp] theorem State.modHere_outputs (f : Core → Core) : (s.modHere f).outputs = s.outputs := rfl
@[simp] theorem State.modHere_pci (f : Core → Core) : (s.modHere f).pci = s.pci := rfl
@[simp] theorem State.modHere_groupSlot (f : Core → Core) : (s.modHere f).groupSlot = s.groupSlot := rfl
@[simp] theorem State.modHere_ports (f : Core → Core) : (s.modHere f).ports = s.ports := rfl
@[simp] theorem State.modHere_bonds (f : Core → Core) : (s.modHere f).bonds = s.bonds := rfl
@[simp] theorem State.modHere_podOut (f : Core → Core) : (s.modHere f).podOut = s.podOut := rfl
@[simp] theorem State.modHere_podSent (f : Core → Core) : (s.modHere f).podSent = s.podSent := rfl
@[simp] theorem State.modHere_sendQ (f : Core → Core) : (s.modHere f).sendQ = s.sendQ := rfl
@[simp] theorem State.modHere_chain (f : Core → Core) : (s.modHere f).chain = s.chain := rfl
@[simp] theorem State.modHere_chainNext (f : Core → Core) : (s.modHere f).chainNext = s.chainNext := rfl
@[simp] theorem State.modHere_chainSlot (f : Core → Core) : (s.modHere f).chainSlot = s.chainSlot := rfl
@[simp] theorem State.modHere_bring (f : Core → Core) : (s.modHere f).bring = s.bring := rfl
@[simp] theorem State.modHere_ckpt (f : Core → Core) : (s.modHere f).ckpt = s.ckpt := rfl
@[simp] theorem State.modHere_debt (f : Core → Core) : (s.modHere f).debt = s.debt := rfl
@[simp] theorem State.modHere_swap (f : Core → Core) : (s.modHere f).swap = s.swap := rfl
@[simp] theorem State.modHere_adaptive (f : Core → Core) : (s.modHere f).adaptive = s.adaptive := rfl
@[simp] theorem State.modHere_topo (f : Core → Core) : (s.modHere f).topo = s.topo := rfl
@[simp] theorem State.modHere_nonce (f : Core → Core) : (s.modHere f).nonce = s.nonce := rfl
@[simp] theorem State.modHere_places (f : Core → Core) : (s.modHere f).places = s.places := rfl
@[simp] theorem State.modHere_netMarks (f : Core → Core) : (s.modHere f).netMarks = s.netMarks := rfl
@[simp] theorem State.modHere_gives (f : Core → Core) : (s.modHere f).gives = s.gives := rfl
@[simp] theorem State.modHere_slotCubes (f : Core → Core) : (s.modHere f).slotCubes = s.slotCubes := rfl
@[simp] theorem State.modHere_podParts (f : Core → Core) : (s.modHere f).podParts = s.podParts := rfl
@[simp] theorem State.modHere_nonceMask (f : Core → Core) : (s.modHere f).nonceMask = s.nonceMask := rfl
@[simp] theorem State.modHere_asks (f : Core → Core) : (s.modHere f).asks = s.asks := rfl
@[simp] theorem State.modHere_podIn (f : Core → Core) : (s.modHere f).podIn = s.podIn := rfl
@[simp] theorem State.modHere_hostIn (f : Core → Core) : (s.modHere f).hostIn = s.hostIn := rfl
@[simp] theorem State.modHere_flash (f : Core → Core) : (s.modHere f).flash = s.flash := rfl
@[simp] theorem State.modHere_running (f : Core → Core) : (s.modHere f).running = s.running := rfl
@[simp] theorem State.modHere_cycle (f : Core → Core) : (s.modHere f).cycle = s.cycle := rfl
@[simp] theorem State.modHere_scr4 (f : Core → Core) : (s.modHere f).scr4 = s.scr4 := rfl
@[simp] theorem State.modHere_pod8 (f : Core → Core) : (s.modHere f).pod8 = s.pod8 := rfl
@[simp] theorem State.modHere_cur (f : Core → Core) : (s.modHere f).cur = s.cur := rfl
@[simp] theorem State.modHere_args (f : Core → Core) : (s.modHere f).args = s.args := rfl
@[simp] theorem State.modHere_agenda (f : Core → Core) : (s.modHere f).agenda = s.agenda := rfl
@[simp] theorem State.modHere_issueQ (f : Core → Core) : (s.modHere f).issueQ = s.issueQ := rfl
@[simp] theorem State.modHere_fresh (f : Core → Core) : (s.modHere f).fresh = s.fresh := rfl

/-! ## setG -/

@[simp] theorem State.setG_mem (r : Nat) (v : Word) : (s.setG r v).mem = s.mem := rfl
@[simp] theorem State.setG_quads (r : Nat) (v : Word) : (s.setG r v).quads = s.quads := rfl
@[simp] theorem State.setG_skims (r : Nat) (v : Word) : (s.setG r v).skims = s.skims := rfl
@[simp] theorem State.setG_trapvec (r : Nat) (v : Word) : (s.setG r v).trapvec = s.trapvec := rfl
@[simp] theorem State.setG_wdog (r : Nat) (v : Word) : (s.setG r v).wdog = s.wdog := rfl
@[simp] theorem State.setG_cw (r : Nat) (v : Word) : (s.setG r v).cw = s.cw := rfl
@[simp] theorem State.setG_gran (r : Nat) (v : Word) : (s.setG r v).gran = s.gran := rfl
@[simp] theorem State.setG_resv (r : Nat) (v : Word) : (s.setG r v).resv = s.resv := rfl
@[simp] theorem State.setG_poison (r : Nat) (v : Word) : (s.setG r v).poison = s.poison := rfl
@[simp] theorem State.setG_remap (r : Nat) (v : Word) : (s.setG r v).remap = s.remap := rfl
@[simp] theorem State.setG_regionCnt (r : Nat) (v : Word) : (s.setG r v).regionCnt = s.regionCnt := rfl
@[simp] theorem State.setG_chanMap (r : Nat) (v : Word) : (s.setG r v).chanMap = s.chanMap := rfl
@[simp] theorem State.setG_evict (r : Nat) (v : Word) : (s.setG r v).evict = s.evict := rfl
@[simp] theorem State.setG_images (r : Nat) (v : Word) : (s.setG r v).images = s.images := rfl
@[simp] theorem State.setG_l2walk (r : Nat) (v : Word) : (s.setG r v).l2walk = s.l2walk := rfl
@[simp] theorem State.setG_net (r : Nat) (v : Word) : (s.setG r v).net = s.net := rfl
@[simp] theorem State.setG_nextMsg (r : Nat) (v : Word) : (s.setG r v).nextMsg = s.nextMsg := rfl
@[simp] theorem State.setG_engLast (r : Nat) (v : Word) : (s.setG r v).engLast = s.engLast := rfl
@[simp] theorem State.setG_countAt (r : Nat) (v : Word) : (s.setG r v).countAt = s.countAt := rfl
@[simp] theorem State.setG_wideNets (r : Nat) (v : Word) : (s.setG r v).wideNets = s.wideNets := rfl
@[simp] theorem State.setG_hostQ (r : Nat) (v : Word) : (s.setG r v).hostQ = s.hostQ := rfl
@[simp] theorem State.setG_tier (r : Nat) (v : Word) : (s.setG r v).tier = s.tier := rfl
@[simp] theorem State.setG_rings (r : Nat) (v : Word) : (s.setG r v).rings = s.rings := rfl
@[simp] theorem State.setG_ringWrites (r : Nat) (v : Word) : (s.setG r v).ringWrites = s.ringWrites := rfl
@[simp] theorem State.setG_deliveries (r : Nat) (v : Word) : (s.setG r v).deliveries = s.deliveries := rfl
@[simp] theorem State.setG_xfers (r : Nat) (v : Word) : (s.setG r v).xfers = s.xfers := rfl
@[simp] theorem State.setG_xseq (r : Nat) (v : Word) : (s.setG r v).xseq = s.xseq := rfl
@[simp] theorem State.setG_groups (r : Nat) (v : Word) : (s.setG r v).groups = s.groups := rfl
@[simp] theorem State.setG_groupLaunch (r : Nat) (v : Word) : (s.setG r v).groupLaunch = s.groupLaunch := rfl
@[simp] theorem State.setG_collIn (r : Nat) (v : Word) : (s.setG r v).collIn = s.collIn := rfl
@[simp] theorem State.setG_collSt (r : Nat) (v : Word) : (s.setG r v).collSt = s.collSt := rfl
@[simp] theorem State.setG_dieTimes (r : Nat) (v : Word) : (s.setG r v).dieTimes = s.dieTimes := rfl
@[simp] theorem State.setG_pkgTimes (r : Nat) (v : Word) : (s.setG r v).pkgTimes = s.pkgTimes := rfl
@[simp] theorem State.setG_dispatch (r : Nat) (v : Word) : (s.setG r v).dispatch = s.dispatch := rfl
@[simp] theorem State.setG_spawned (r : Nat) (v : Word) : (s.setG r v).spawned = s.spawned := rfl
@[simp] theorem State.setG_away (r : Nat) (v : Word) : (s.setG r v).away = s.away := rfl
@[simp] theorem State.setG_coreImgs (r : Nat) (v : Word) : (s.setG r v).coreImgs = s.coreImgs := rfl
@[simp] theorem State.setG_faultQ (r : Nat) (v : Word) : (s.setG r v).faultQ = s.faultQ := rfl
@[simp] theorem State.setG_launches (r : Nat) (v : Word) : (s.setG r v).launches = s.launches := rfl
@[simp] theorem State.setG_workQ (r : Nat) (v : Word) : (s.setG r v).workQ = s.workQ := rfl
@[simp] theorem State.setG_devQ (r : Nat) (v : Word) : (s.setG r v).devQ = s.devQ := rfl
@[simp] theorem State.setG_ovf (r : Nat) (v : Word) : (s.setG r v).ovf = s.ovf := rfl
@[simp] theorem State.setG_waiting (r : Nat) (v : Word) : (s.setG r v).waiting = s.waiting := rfl
@[simp] theorem State.setG_completions (r : Nat) (v : Word) : (s.setG r v).completions = s.completions := rfl
@[simp] theorem State.setG_rrNext (r : Nat) (v : Word) : (s.setG r v).rrNext = s.rrNext := rfl
@[simp] theorem State.setG_lastArb (r : Nat) (v : Word) : (s.setG r v).lastArb = s.lastArb := rfl
@[simp] theorem State.setG_outputs (r : Nat) (v : Word) : (s.setG r v).outputs = s.outputs := rfl
@[simp] theorem State.setG_pci (r : Nat) (v : Word) : (s.setG r v).pci = s.pci := rfl
@[simp] theorem State.setG_groupSlot (r : Nat) (v : Word) : (s.setG r v).groupSlot = s.groupSlot := rfl
@[simp] theorem State.setG_ports (r : Nat) (v : Word) : (s.setG r v).ports = s.ports := rfl
@[simp] theorem State.setG_bonds (r : Nat) (v : Word) : (s.setG r v).bonds = s.bonds := rfl
@[simp] theorem State.setG_podOut (r : Nat) (v : Word) : (s.setG r v).podOut = s.podOut := rfl
@[simp] theorem State.setG_podSent (r : Nat) (v : Word) : (s.setG r v).podSent = s.podSent := rfl
@[simp] theorem State.setG_sendQ (r : Nat) (v : Word) : (s.setG r v).sendQ = s.sendQ := rfl
@[simp] theorem State.setG_chain (r : Nat) (v : Word) : (s.setG r v).chain = s.chain := rfl
@[simp] theorem State.setG_chainNext (r : Nat) (v : Word) : (s.setG r v).chainNext = s.chainNext := rfl
@[simp] theorem State.setG_chainSlot (r : Nat) (v : Word) : (s.setG r v).chainSlot = s.chainSlot := rfl
@[simp] theorem State.setG_bring (r : Nat) (v : Word) : (s.setG r v).bring = s.bring := rfl
@[simp] theorem State.setG_ckpt (r : Nat) (v : Word) : (s.setG r v).ckpt = s.ckpt := rfl
@[simp] theorem State.setG_debt (r : Nat) (v : Word) : (s.setG r v).debt = s.debt := rfl
@[simp] theorem State.setG_swap (r : Nat) (v : Word) : (s.setG r v).swap = s.swap := rfl
@[simp] theorem State.setG_adaptive (r : Nat) (v : Word) : (s.setG r v).adaptive = s.adaptive := rfl
@[simp] theorem State.setG_topo (r : Nat) (v : Word) : (s.setG r v).topo = s.topo := rfl
@[simp] theorem State.setG_nonce (r : Nat) (v : Word) : (s.setG r v).nonce = s.nonce := rfl
@[simp] theorem State.setG_places (r : Nat) (v : Word) : (s.setG r v).places = s.places := rfl
@[simp] theorem State.setG_netMarks (r : Nat) (v : Word) : (s.setG r v).netMarks = s.netMarks := rfl
@[simp] theorem State.setG_gives (r : Nat) (v : Word) : (s.setG r v).gives = s.gives := rfl
@[simp] theorem State.setG_slotCubes (r : Nat) (v : Word) : (s.setG r v).slotCubes = s.slotCubes := rfl
@[simp] theorem State.setG_podParts (r : Nat) (v : Word) : (s.setG r v).podParts = s.podParts := rfl
@[simp] theorem State.setG_nonceMask (r : Nat) (v : Word) : (s.setG r v).nonceMask = s.nonceMask := rfl
@[simp] theorem State.setG_asks (r : Nat) (v : Word) : (s.setG r v).asks = s.asks := rfl
@[simp] theorem State.setG_podIn (r : Nat) (v : Word) : (s.setG r v).podIn = s.podIn := rfl
@[simp] theorem State.setG_hostIn (r : Nat) (v : Word) : (s.setG r v).hostIn = s.hostIn := rfl
@[simp] theorem State.setG_flash (r : Nat) (v : Word) : (s.setG r v).flash = s.flash := rfl
@[simp] theorem State.setG_running (r : Nat) (v : Word) : (s.setG r v).running = s.running := rfl
@[simp] theorem State.setG_cycle (r : Nat) (v : Word) : (s.setG r v).cycle = s.cycle := rfl
@[simp] theorem State.setG_scr4 (r : Nat) (v : Word) : (s.setG r v).scr4 = s.scr4 := rfl
@[simp] theorem State.setG_pod8 (r : Nat) (v : Word) : (s.setG r v).pod8 = s.pod8 := rfl
@[simp] theorem State.setG_cur (r : Nat) (v : Word) : (s.setG r v).cur = s.cur := rfl
@[simp] theorem State.setG_args (r : Nat) (v : Word) : (s.setG r v).args = s.args := rfl
@[simp] theorem State.setG_agenda (r : Nat) (v : Word) : (s.setG r v).agenda = s.agenda := rfl
@[simp] theorem State.setG_issueQ (r : Nat) (v : Word) : (s.setG r v).issueQ = s.issueQ := rfl
@[simp] theorem State.setG_fresh (r : Nat) (v : Word) : (s.setG r v).fresh = s.fresh := rfl

/-! ## setP -/

@[simp] theorem State.setP_mem (p : Nat) (v : Bool) : (s.setP p v).mem = s.mem := rfl
@[simp] theorem State.setP_quads (p : Nat) (v : Bool) : (s.setP p v).quads = s.quads := rfl
@[simp] theorem State.setP_skims (p : Nat) (v : Bool) : (s.setP p v).skims = s.skims := rfl
@[simp] theorem State.setP_trapvec (p : Nat) (v : Bool) : (s.setP p v).trapvec = s.trapvec := rfl
@[simp] theorem State.setP_wdog (p : Nat) (v : Bool) : (s.setP p v).wdog = s.wdog := rfl
@[simp] theorem State.setP_cw (p : Nat) (v : Bool) : (s.setP p v).cw = s.cw := rfl
@[simp] theorem State.setP_gran (p : Nat) (v : Bool) : (s.setP p v).gran = s.gran := rfl
@[simp] theorem State.setP_resv (p : Nat) (v : Bool) : (s.setP p v).resv = s.resv := rfl
@[simp] theorem State.setP_poison (p : Nat) (v : Bool) : (s.setP p v).poison = s.poison := rfl
@[simp] theorem State.setP_remap (p : Nat) (v : Bool) : (s.setP p v).remap = s.remap := rfl
@[simp] theorem State.setP_regionCnt (p : Nat) (v : Bool) : (s.setP p v).regionCnt = s.regionCnt := rfl
@[simp] theorem State.setP_chanMap (p : Nat) (v : Bool) : (s.setP p v).chanMap = s.chanMap := rfl
@[simp] theorem State.setP_evict (p : Nat) (v : Bool) : (s.setP p v).evict = s.evict := rfl
@[simp] theorem State.setP_images (p : Nat) (v : Bool) : (s.setP p v).images = s.images := rfl
@[simp] theorem State.setP_l2walk (p : Nat) (v : Bool) : (s.setP p v).l2walk = s.l2walk := rfl
@[simp] theorem State.setP_net (p : Nat) (v : Bool) : (s.setP p v).net = s.net := rfl
@[simp] theorem State.setP_nextMsg (p : Nat) (v : Bool) : (s.setP p v).nextMsg = s.nextMsg := rfl
@[simp] theorem State.setP_engLast (p : Nat) (v : Bool) : (s.setP p v).engLast = s.engLast := rfl
@[simp] theorem State.setP_countAt (p : Nat) (v : Bool) : (s.setP p v).countAt = s.countAt := rfl
@[simp] theorem State.setP_wideNets (p : Nat) (v : Bool) : (s.setP p v).wideNets = s.wideNets := rfl
@[simp] theorem State.setP_hostQ (p : Nat) (v : Bool) : (s.setP p v).hostQ = s.hostQ := rfl
@[simp] theorem State.setP_tier (p : Nat) (v : Bool) : (s.setP p v).tier = s.tier := rfl
@[simp] theorem State.setP_rings (p : Nat) (v : Bool) : (s.setP p v).rings = s.rings := rfl
@[simp] theorem State.setP_ringWrites (p : Nat) (v : Bool) : (s.setP p v).ringWrites = s.ringWrites := rfl
@[simp] theorem State.setP_deliveries (p : Nat) (v : Bool) : (s.setP p v).deliveries = s.deliveries := rfl
@[simp] theorem State.setP_xfers (p : Nat) (v : Bool) : (s.setP p v).xfers = s.xfers := rfl
@[simp] theorem State.setP_xseq (p : Nat) (v : Bool) : (s.setP p v).xseq = s.xseq := rfl
@[simp] theorem State.setP_groups (p : Nat) (v : Bool) : (s.setP p v).groups = s.groups := rfl
@[simp] theorem State.setP_groupLaunch (p : Nat) (v : Bool) : (s.setP p v).groupLaunch = s.groupLaunch := rfl
@[simp] theorem State.setP_collIn (p : Nat) (v : Bool) : (s.setP p v).collIn = s.collIn := rfl
@[simp] theorem State.setP_collSt (p : Nat) (v : Bool) : (s.setP p v).collSt = s.collSt := rfl
@[simp] theorem State.setP_dieTimes (p : Nat) (v : Bool) : (s.setP p v).dieTimes = s.dieTimes := rfl
@[simp] theorem State.setP_pkgTimes (p : Nat) (v : Bool) : (s.setP p v).pkgTimes = s.pkgTimes := rfl
@[simp] theorem State.setP_dispatch (p : Nat) (v : Bool) : (s.setP p v).dispatch = s.dispatch := rfl
@[simp] theorem State.setP_spawned (p : Nat) (v : Bool) : (s.setP p v).spawned = s.spawned := rfl
@[simp] theorem State.setP_away (p : Nat) (v : Bool) : (s.setP p v).away = s.away := rfl
@[simp] theorem State.setP_coreImgs (p : Nat) (v : Bool) : (s.setP p v).coreImgs = s.coreImgs := rfl
@[simp] theorem State.setP_faultQ (p : Nat) (v : Bool) : (s.setP p v).faultQ = s.faultQ := rfl
@[simp] theorem State.setP_launches (p : Nat) (v : Bool) : (s.setP p v).launches = s.launches := rfl
@[simp] theorem State.setP_workQ (p : Nat) (v : Bool) : (s.setP p v).workQ = s.workQ := rfl
@[simp] theorem State.setP_devQ (p : Nat) (v : Bool) : (s.setP p v).devQ = s.devQ := rfl
@[simp] theorem State.setP_ovf (p : Nat) (v : Bool) : (s.setP p v).ovf = s.ovf := rfl
@[simp] theorem State.setP_waiting (p : Nat) (v : Bool) : (s.setP p v).waiting = s.waiting := rfl
@[simp] theorem State.setP_completions (p : Nat) (v : Bool) : (s.setP p v).completions = s.completions := rfl
@[simp] theorem State.setP_rrNext (p : Nat) (v : Bool) : (s.setP p v).rrNext = s.rrNext := rfl
@[simp] theorem State.setP_lastArb (p : Nat) (v : Bool) : (s.setP p v).lastArb = s.lastArb := rfl
@[simp] theorem State.setP_outputs (p : Nat) (v : Bool) : (s.setP p v).outputs = s.outputs := rfl
@[simp] theorem State.setP_pci (p : Nat) (v : Bool) : (s.setP p v).pci = s.pci := rfl
@[simp] theorem State.setP_groupSlot (p : Nat) (v : Bool) : (s.setP p v).groupSlot = s.groupSlot := rfl
@[simp] theorem State.setP_ports (p : Nat) (v : Bool) : (s.setP p v).ports = s.ports := rfl
@[simp] theorem State.setP_bonds (p : Nat) (v : Bool) : (s.setP p v).bonds = s.bonds := rfl
@[simp] theorem State.setP_podOut (p : Nat) (v : Bool) : (s.setP p v).podOut = s.podOut := rfl
@[simp] theorem State.setP_podSent (p : Nat) (v : Bool) : (s.setP p v).podSent = s.podSent := rfl
@[simp] theorem State.setP_sendQ (p : Nat) (v : Bool) : (s.setP p v).sendQ = s.sendQ := rfl
@[simp] theorem State.setP_chain (p : Nat) (v : Bool) : (s.setP p v).chain = s.chain := rfl
@[simp] theorem State.setP_chainNext (p : Nat) (v : Bool) : (s.setP p v).chainNext = s.chainNext := rfl
@[simp] theorem State.setP_chainSlot (p : Nat) (v : Bool) : (s.setP p v).chainSlot = s.chainSlot := rfl
@[simp] theorem State.setP_bring (p : Nat) (v : Bool) : (s.setP p v).bring = s.bring := rfl
@[simp] theorem State.setP_ckpt (p : Nat) (v : Bool) : (s.setP p v).ckpt = s.ckpt := rfl
@[simp] theorem State.setP_debt (p : Nat) (v : Bool) : (s.setP p v).debt = s.debt := rfl
@[simp] theorem State.setP_swap (p : Nat) (v : Bool) : (s.setP p v).swap = s.swap := rfl
@[simp] theorem State.setP_adaptive (p : Nat) (v : Bool) : (s.setP p v).adaptive = s.adaptive := rfl
@[simp] theorem State.setP_topo (p : Nat) (v : Bool) : (s.setP p v).topo = s.topo := rfl
@[simp] theorem State.setP_nonce (p : Nat) (v : Bool) : (s.setP p v).nonce = s.nonce := rfl
@[simp] theorem State.setP_places (p : Nat) (v : Bool) : (s.setP p v).places = s.places := rfl
@[simp] theorem State.setP_netMarks (p : Nat) (v : Bool) : (s.setP p v).netMarks = s.netMarks := rfl
@[simp] theorem State.setP_gives (p : Nat) (v : Bool) : (s.setP p v).gives = s.gives := rfl
@[simp] theorem State.setP_slotCubes (p : Nat) (v : Bool) : (s.setP p v).slotCubes = s.slotCubes := rfl
@[simp] theorem State.setP_podParts (p : Nat) (v : Bool) : (s.setP p v).podParts = s.podParts := rfl
@[simp] theorem State.setP_nonceMask (p : Nat) (v : Bool) : (s.setP p v).nonceMask = s.nonceMask := rfl
@[simp] theorem State.setP_asks (p : Nat) (v : Bool) : (s.setP p v).asks = s.asks := rfl
@[simp] theorem State.setP_podIn (p : Nat) (v : Bool) : (s.setP p v).podIn = s.podIn := rfl
@[simp] theorem State.setP_hostIn (p : Nat) (v : Bool) : (s.setP p v).hostIn = s.hostIn := rfl
@[simp] theorem State.setP_flash (p : Nat) (v : Bool) : (s.setP p v).flash = s.flash := rfl
@[simp] theorem State.setP_running (p : Nat) (v : Bool) : (s.setP p v).running = s.running := rfl
@[simp] theorem State.setP_cycle (p : Nat) (v : Bool) : (s.setP p v).cycle = s.cycle := rfl
@[simp] theorem State.setP_scr4 (p : Nat) (v : Bool) : (s.setP p v).scr4 = s.scr4 := rfl
@[simp] theorem State.setP_pod8 (p : Nat) (v : Bool) : (s.setP p v).pod8 = s.pod8 := rfl
@[simp] theorem State.setP_cur (p : Nat) (v : Bool) : (s.setP p v).cur = s.cur := rfl
@[simp] theorem State.setP_args (p : Nat) (v : Bool) : (s.setP p v).args = s.args := rfl
@[simp] theorem State.setP_agenda (p : Nat) (v : Bool) : (s.setP p v).agenda = s.agenda := rfl
@[simp] theorem State.setP_issueQ (p : Nat) (v : Bool) : (s.setP p v).issueQ = s.issueQ := rfl
@[simp] theorem State.setP_fresh (p : Nat) (v : Bool) : (s.setP p v).fresh = s.fresh := rfl

/-! ## setK -/

@[simp] theorem State.setK_mem (k : Nat) (v : Word) : (s.setK k v).mem = s.mem := rfl
@[simp] theorem State.setK_quads (k : Nat) (v : Word) : (s.setK k v).quads = s.quads := rfl
@[simp] theorem State.setK_skims (k : Nat) (v : Word) : (s.setK k v).skims = s.skims := rfl
@[simp] theorem State.setK_trapvec (k : Nat) (v : Word) : (s.setK k v).trapvec = s.trapvec := rfl
@[simp] theorem State.setK_wdog (k : Nat) (v : Word) : (s.setK k v).wdog = s.wdog := rfl
@[simp] theorem State.setK_cw (k : Nat) (v : Word) : (s.setK k v).cw = s.cw := rfl
@[simp] theorem State.setK_gran (k : Nat) (v : Word) : (s.setK k v).gran = s.gran := rfl
@[simp] theorem State.setK_resv (k : Nat) (v : Word) : (s.setK k v).resv = s.resv := rfl
@[simp] theorem State.setK_poison (k : Nat) (v : Word) : (s.setK k v).poison = s.poison := rfl
@[simp] theorem State.setK_remap (k : Nat) (v : Word) : (s.setK k v).remap = s.remap := rfl
@[simp] theorem State.setK_regionCnt (k : Nat) (v : Word) : (s.setK k v).regionCnt = s.regionCnt := rfl
@[simp] theorem State.setK_chanMap (k : Nat) (v : Word) : (s.setK k v).chanMap = s.chanMap := rfl
@[simp] theorem State.setK_evict (k : Nat) (v : Word) : (s.setK k v).evict = s.evict := rfl
@[simp] theorem State.setK_images (k : Nat) (v : Word) : (s.setK k v).images = s.images := rfl
@[simp] theorem State.setK_l2walk (k : Nat) (v : Word) : (s.setK k v).l2walk = s.l2walk := rfl
@[simp] theorem State.setK_net (k : Nat) (v : Word) : (s.setK k v).net = s.net := rfl
@[simp] theorem State.setK_nextMsg (k : Nat) (v : Word) : (s.setK k v).nextMsg = s.nextMsg := rfl
@[simp] theorem State.setK_engLast (k : Nat) (v : Word) : (s.setK k v).engLast = s.engLast := rfl
@[simp] theorem State.setK_countAt (k : Nat) (v : Word) : (s.setK k v).countAt = s.countAt := rfl
@[simp] theorem State.setK_wideNets (k : Nat) (v : Word) : (s.setK k v).wideNets = s.wideNets := rfl
@[simp] theorem State.setK_hostQ (k : Nat) (v : Word) : (s.setK k v).hostQ = s.hostQ := rfl
@[simp] theorem State.setK_tier (k : Nat) (v : Word) : (s.setK k v).tier = s.tier := rfl
@[simp] theorem State.setK_rings (k : Nat) (v : Word) : (s.setK k v).rings = s.rings := rfl
@[simp] theorem State.setK_ringWrites (k : Nat) (v : Word) : (s.setK k v).ringWrites = s.ringWrites := rfl
@[simp] theorem State.setK_deliveries (k : Nat) (v : Word) : (s.setK k v).deliveries = s.deliveries := rfl
@[simp] theorem State.setK_xfers (k : Nat) (v : Word) : (s.setK k v).xfers = s.xfers := rfl
@[simp] theorem State.setK_xseq (k : Nat) (v : Word) : (s.setK k v).xseq = s.xseq := rfl
@[simp] theorem State.setK_groups (k : Nat) (v : Word) : (s.setK k v).groups = s.groups := rfl
@[simp] theorem State.setK_groupLaunch (k : Nat) (v : Word) : (s.setK k v).groupLaunch = s.groupLaunch := rfl
@[simp] theorem State.setK_collIn (k : Nat) (v : Word) : (s.setK k v).collIn = s.collIn := rfl
@[simp] theorem State.setK_collSt (k : Nat) (v : Word) : (s.setK k v).collSt = s.collSt := rfl
@[simp] theorem State.setK_dieTimes (k : Nat) (v : Word) : (s.setK k v).dieTimes = s.dieTimes := rfl
@[simp] theorem State.setK_pkgTimes (k : Nat) (v : Word) : (s.setK k v).pkgTimes = s.pkgTimes := rfl
@[simp] theorem State.setK_dispatch (k : Nat) (v : Word) : (s.setK k v).dispatch = s.dispatch := rfl
@[simp] theorem State.setK_spawned (k : Nat) (v : Word) : (s.setK k v).spawned = s.spawned := rfl
@[simp] theorem State.setK_away (k : Nat) (v : Word) : (s.setK k v).away = s.away := rfl
@[simp] theorem State.setK_coreImgs (k : Nat) (v : Word) : (s.setK k v).coreImgs = s.coreImgs := rfl
@[simp] theorem State.setK_faultQ (k : Nat) (v : Word) : (s.setK k v).faultQ = s.faultQ := rfl
@[simp] theorem State.setK_launches (k : Nat) (v : Word) : (s.setK k v).launches = s.launches := rfl
@[simp] theorem State.setK_workQ (k : Nat) (v : Word) : (s.setK k v).workQ = s.workQ := rfl
@[simp] theorem State.setK_devQ (k : Nat) (v : Word) : (s.setK k v).devQ = s.devQ := rfl
@[simp] theorem State.setK_ovf (k : Nat) (v : Word) : (s.setK k v).ovf = s.ovf := rfl
@[simp] theorem State.setK_waiting (k : Nat) (v : Word) : (s.setK k v).waiting = s.waiting := rfl
@[simp] theorem State.setK_completions (k : Nat) (v : Word) : (s.setK k v).completions = s.completions := rfl
@[simp] theorem State.setK_rrNext (k : Nat) (v : Word) : (s.setK k v).rrNext = s.rrNext := rfl
@[simp] theorem State.setK_lastArb (k : Nat) (v : Word) : (s.setK k v).lastArb = s.lastArb := rfl
@[simp] theorem State.setK_outputs (k : Nat) (v : Word) : (s.setK k v).outputs = s.outputs := rfl
@[simp] theorem State.setK_pci (k : Nat) (v : Word) : (s.setK k v).pci = s.pci := rfl
@[simp] theorem State.setK_groupSlot (k : Nat) (v : Word) : (s.setK k v).groupSlot = s.groupSlot := rfl
@[simp] theorem State.setK_ports (k : Nat) (v : Word) : (s.setK k v).ports = s.ports := rfl
@[simp] theorem State.setK_bonds (k : Nat) (v : Word) : (s.setK k v).bonds = s.bonds := rfl
@[simp] theorem State.setK_podOut (k : Nat) (v : Word) : (s.setK k v).podOut = s.podOut := rfl
@[simp] theorem State.setK_podSent (k : Nat) (v : Word) : (s.setK k v).podSent = s.podSent := rfl
@[simp] theorem State.setK_sendQ (k : Nat) (v : Word) : (s.setK k v).sendQ = s.sendQ := rfl
@[simp] theorem State.setK_chain (k : Nat) (v : Word) : (s.setK k v).chain = s.chain := rfl
@[simp] theorem State.setK_chainNext (k : Nat) (v : Word) : (s.setK k v).chainNext = s.chainNext := rfl
@[simp] theorem State.setK_chainSlot (k : Nat) (v : Word) : (s.setK k v).chainSlot = s.chainSlot := rfl
@[simp] theorem State.setK_bring (k : Nat) (v : Word) : (s.setK k v).bring = s.bring := rfl
@[simp] theorem State.setK_ckpt (k : Nat) (v : Word) : (s.setK k v).ckpt = s.ckpt := rfl
@[simp] theorem State.setK_debt (k : Nat) (v : Word) : (s.setK k v).debt = s.debt := rfl
@[simp] theorem State.setK_swap (k : Nat) (v : Word) : (s.setK k v).swap = s.swap := rfl
@[simp] theorem State.setK_adaptive (k : Nat) (v : Word) : (s.setK k v).adaptive = s.adaptive := rfl
@[simp] theorem State.setK_topo (k : Nat) (v : Word) : (s.setK k v).topo = s.topo := rfl
@[simp] theorem State.setK_nonce (k : Nat) (v : Word) : (s.setK k v).nonce = s.nonce := rfl
@[simp] theorem State.setK_places (k : Nat) (v : Word) : (s.setK k v).places = s.places := rfl
@[simp] theorem State.setK_netMarks (k : Nat) (v : Word) : (s.setK k v).netMarks = s.netMarks := rfl
@[simp] theorem State.setK_gives (k : Nat) (v : Word) : (s.setK k v).gives = s.gives := rfl
@[simp] theorem State.setK_slotCubes (k : Nat) (v : Word) : (s.setK k v).slotCubes = s.slotCubes := rfl
@[simp] theorem State.setK_podParts (k : Nat) (v : Word) : (s.setK k v).podParts = s.podParts := rfl
@[simp] theorem State.setK_nonceMask (k : Nat) (v : Word) : (s.setK k v).nonceMask = s.nonceMask := rfl
@[simp] theorem State.setK_asks (k : Nat) (v : Word) : (s.setK k v).asks = s.asks := rfl
@[simp] theorem State.setK_podIn (k : Nat) (v : Word) : (s.setK k v).podIn = s.podIn := rfl
@[simp] theorem State.setK_hostIn (k : Nat) (v : Word) : (s.setK k v).hostIn = s.hostIn := rfl
@[simp] theorem State.setK_flash (k : Nat) (v : Word) : (s.setK k v).flash = s.flash := rfl
@[simp] theorem State.setK_running (k : Nat) (v : Word) : (s.setK k v).running = s.running := rfl
@[simp] theorem State.setK_cycle (k : Nat) (v : Word) : (s.setK k v).cycle = s.cycle := rfl
@[simp] theorem State.setK_scr4 (k : Nat) (v : Word) : (s.setK k v).scr4 = s.scr4 := rfl
@[simp] theorem State.setK_pod8 (k : Nat) (v : Word) : (s.setK k v).pod8 = s.pod8 := rfl
@[simp] theorem State.setK_cur (k : Nat) (v : Word) : (s.setK k v).cur = s.cur := rfl
@[simp] theorem State.setK_args (k : Nat) (v : Word) : (s.setK k v).args = s.args := rfl
@[simp] theorem State.setK_agenda (k : Nat) (v : Word) : (s.setK k v).agenda = s.agenda := rfl
@[simp] theorem State.setK_issueQ (k : Nat) (v : Word) : (s.setK k v).issueQ = s.issueQ := rfl
@[simp] theorem State.setK_fresh (k : Nat) (v : Word) : (s.setK k v).fresh = s.fresh := rfl

/-! ## setV -/

@[simp] theorem State.setV_mem (r : Nat) (x : Line) : (s.setV r x).mem = s.mem := rfl
@[simp] theorem State.setV_quads (r : Nat) (x : Line) : (s.setV r x).quads = s.quads := rfl
@[simp] theorem State.setV_skims (r : Nat) (x : Line) : (s.setV r x).skims = s.skims := rfl
@[simp] theorem State.setV_trapvec (r : Nat) (x : Line) : (s.setV r x).trapvec = s.trapvec := rfl
@[simp] theorem State.setV_wdog (r : Nat) (x : Line) : (s.setV r x).wdog = s.wdog := rfl
@[simp] theorem State.setV_cw (r : Nat) (x : Line) : (s.setV r x).cw = s.cw := rfl
@[simp] theorem State.setV_gran (r : Nat) (x : Line) : (s.setV r x).gran = s.gran := rfl
@[simp] theorem State.setV_resv (r : Nat) (x : Line) : (s.setV r x).resv = s.resv := rfl
@[simp] theorem State.setV_poison (r : Nat) (x : Line) : (s.setV r x).poison = s.poison := rfl
@[simp] theorem State.setV_remap (r : Nat) (x : Line) : (s.setV r x).remap = s.remap := rfl
@[simp] theorem State.setV_regionCnt (r : Nat) (x : Line) : (s.setV r x).regionCnt = s.regionCnt := rfl
@[simp] theorem State.setV_chanMap (r : Nat) (x : Line) : (s.setV r x).chanMap = s.chanMap := rfl
@[simp] theorem State.setV_evict (r : Nat) (x : Line) : (s.setV r x).evict = s.evict := rfl
@[simp] theorem State.setV_images (r : Nat) (x : Line) : (s.setV r x).images = s.images := rfl
@[simp] theorem State.setV_l2walk (r : Nat) (x : Line) : (s.setV r x).l2walk = s.l2walk := rfl
@[simp] theorem State.setV_net (r : Nat) (x : Line) : (s.setV r x).net = s.net := rfl
@[simp] theorem State.setV_nextMsg (r : Nat) (x : Line) : (s.setV r x).nextMsg = s.nextMsg := rfl
@[simp] theorem State.setV_engLast (r : Nat) (x : Line) : (s.setV r x).engLast = s.engLast := rfl
@[simp] theorem State.setV_countAt (r : Nat) (x : Line) : (s.setV r x).countAt = s.countAt := rfl
@[simp] theorem State.setV_wideNets (r : Nat) (x : Line) : (s.setV r x).wideNets = s.wideNets := rfl
@[simp] theorem State.setV_hostQ (r : Nat) (x : Line) : (s.setV r x).hostQ = s.hostQ := rfl
@[simp] theorem State.setV_tier (r : Nat) (x : Line) : (s.setV r x).tier = s.tier := rfl
@[simp] theorem State.setV_rings (r : Nat) (x : Line) : (s.setV r x).rings = s.rings := rfl
@[simp] theorem State.setV_ringWrites (r : Nat) (x : Line) : (s.setV r x).ringWrites = s.ringWrites := rfl
@[simp] theorem State.setV_deliveries (r : Nat) (x : Line) : (s.setV r x).deliveries = s.deliveries := rfl
@[simp] theorem State.setV_xfers (r : Nat) (x : Line) : (s.setV r x).xfers = s.xfers := rfl
@[simp] theorem State.setV_xseq (r : Nat) (x : Line) : (s.setV r x).xseq = s.xseq := rfl
@[simp] theorem State.setV_groups (r : Nat) (x : Line) : (s.setV r x).groups = s.groups := rfl
@[simp] theorem State.setV_groupLaunch (r : Nat) (x : Line) : (s.setV r x).groupLaunch = s.groupLaunch := rfl
@[simp] theorem State.setV_collIn (r : Nat) (x : Line) : (s.setV r x).collIn = s.collIn := rfl
@[simp] theorem State.setV_collSt (r : Nat) (x : Line) : (s.setV r x).collSt = s.collSt := rfl
@[simp] theorem State.setV_dieTimes (r : Nat) (x : Line) : (s.setV r x).dieTimes = s.dieTimes := rfl
@[simp] theorem State.setV_pkgTimes (r : Nat) (x : Line) : (s.setV r x).pkgTimes = s.pkgTimes := rfl
@[simp] theorem State.setV_dispatch (r : Nat) (x : Line) : (s.setV r x).dispatch = s.dispatch := rfl
@[simp] theorem State.setV_spawned (r : Nat) (x : Line) : (s.setV r x).spawned = s.spawned := rfl
@[simp] theorem State.setV_away (r : Nat) (x : Line) : (s.setV r x).away = s.away := rfl
@[simp] theorem State.setV_coreImgs (r : Nat) (x : Line) : (s.setV r x).coreImgs = s.coreImgs := rfl
@[simp] theorem State.setV_faultQ (r : Nat) (x : Line) : (s.setV r x).faultQ = s.faultQ := rfl
@[simp] theorem State.setV_launches (r : Nat) (x : Line) : (s.setV r x).launches = s.launches := rfl
@[simp] theorem State.setV_workQ (r : Nat) (x : Line) : (s.setV r x).workQ = s.workQ := rfl
@[simp] theorem State.setV_devQ (r : Nat) (x : Line) : (s.setV r x).devQ = s.devQ := rfl
@[simp] theorem State.setV_ovf (r : Nat) (x : Line) : (s.setV r x).ovf = s.ovf := rfl
@[simp] theorem State.setV_waiting (r : Nat) (x : Line) : (s.setV r x).waiting = s.waiting := rfl
@[simp] theorem State.setV_completions (r : Nat) (x : Line) : (s.setV r x).completions = s.completions := rfl
@[simp] theorem State.setV_rrNext (r : Nat) (x : Line) : (s.setV r x).rrNext = s.rrNext := rfl
@[simp] theorem State.setV_lastArb (r : Nat) (x : Line) : (s.setV r x).lastArb = s.lastArb := rfl
@[simp] theorem State.setV_outputs (r : Nat) (x : Line) : (s.setV r x).outputs = s.outputs := rfl
@[simp] theorem State.setV_pci (r : Nat) (x : Line) : (s.setV r x).pci = s.pci := rfl
@[simp] theorem State.setV_groupSlot (r : Nat) (x : Line) : (s.setV r x).groupSlot = s.groupSlot := rfl
@[simp] theorem State.setV_ports (r : Nat) (x : Line) : (s.setV r x).ports = s.ports := rfl
@[simp] theorem State.setV_bonds (r : Nat) (x : Line) : (s.setV r x).bonds = s.bonds := rfl
@[simp] theorem State.setV_podOut (r : Nat) (x : Line) : (s.setV r x).podOut = s.podOut := rfl
@[simp] theorem State.setV_podSent (r : Nat) (x : Line) : (s.setV r x).podSent = s.podSent := rfl
@[simp] theorem State.setV_sendQ (r : Nat) (x : Line) : (s.setV r x).sendQ = s.sendQ := rfl
@[simp] theorem State.setV_chain (r : Nat) (x : Line) : (s.setV r x).chain = s.chain := rfl
@[simp] theorem State.setV_chainNext (r : Nat) (x : Line) : (s.setV r x).chainNext = s.chainNext := rfl
@[simp] theorem State.setV_chainSlot (r : Nat) (x : Line) : (s.setV r x).chainSlot = s.chainSlot := rfl
@[simp] theorem State.setV_bring (r : Nat) (x : Line) : (s.setV r x).bring = s.bring := rfl
@[simp] theorem State.setV_ckpt (r : Nat) (x : Line) : (s.setV r x).ckpt = s.ckpt := rfl
@[simp] theorem State.setV_debt (r : Nat) (x : Line) : (s.setV r x).debt = s.debt := rfl
@[simp] theorem State.setV_swap (r : Nat) (x : Line) : (s.setV r x).swap = s.swap := rfl
@[simp] theorem State.setV_adaptive (r : Nat) (x : Line) : (s.setV r x).adaptive = s.adaptive := rfl
@[simp] theorem State.setV_topo (r : Nat) (x : Line) : (s.setV r x).topo = s.topo := rfl
@[simp] theorem State.setV_nonce (r : Nat) (x : Line) : (s.setV r x).nonce = s.nonce := rfl
@[simp] theorem State.setV_places (r : Nat) (x : Line) : (s.setV r x).places = s.places := rfl
@[simp] theorem State.setV_netMarks (r : Nat) (x : Line) : (s.setV r x).netMarks = s.netMarks := rfl
@[simp] theorem State.setV_gives (r : Nat) (x : Line) : (s.setV r x).gives = s.gives := rfl
@[simp] theorem State.setV_slotCubes (r : Nat) (x : Line) : (s.setV r x).slotCubes = s.slotCubes := rfl
@[simp] theorem State.setV_podParts (r : Nat) (x : Line) : (s.setV r x).podParts = s.podParts := rfl
@[simp] theorem State.setV_nonceMask (r : Nat) (x : Line) : (s.setV r x).nonceMask = s.nonceMask := rfl
@[simp] theorem State.setV_asks (r : Nat) (x : Line) : (s.setV r x).asks = s.asks := rfl
@[simp] theorem State.setV_podIn (r : Nat) (x : Line) : (s.setV r x).podIn = s.podIn := rfl
@[simp] theorem State.setV_hostIn (r : Nat) (x : Line) : (s.setV r x).hostIn = s.hostIn := rfl
@[simp] theorem State.setV_flash (r : Nat) (x : Line) : (s.setV r x).flash = s.flash := rfl
@[simp] theorem State.setV_running (r : Nat) (x : Line) : (s.setV r x).running = s.running := rfl
@[simp] theorem State.setV_cycle (r : Nat) (x : Line) : (s.setV r x).cycle = s.cycle := rfl
@[simp] theorem State.setV_scr4 (r : Nat) (x : Line) : (s.setV r x).scr4 = s.scr4 := rfl
@[simp] theorem State.setV_pod8 (r : Nat) (x : Line) : (s.setV r x).pod8 = s.pod8 := rfl
@[simp] theorem State.setV_cur (r : Nat) (x : Line) : (s.setV r x).cur = s.cur := rfl
@[simp] theorem State.setV_args (r : Nat) (x : Line) : (s.setV r x).args = s.args := rfl
@[simp] theorem State.setV_agenda (r : Nat) (x : Line) : (s.setV r x).agenda = s.agenda := rfl
@[simp] theorem State.setV_issueQ (r : Nat) (x : Line) : (s.setV r x).issueQ = s.issueQ := rfl
@[simp] theorem State.setV_fresh (r : Nat) (x : Line) : (s.setV r x).fresh = s.fresh := rfl

/-! ## modCtl -/

@[simp] theorem State.modCtl_mem (f : Ctl → Ctl) : (s.modCtl f).mem = s.mem := rfl
@[simp] theorem State.modCtl_quads (f : Ctl → Ctl) : (s.modCtl f).quads = s.quads := rfl
@[simp] theorem State.modCtl_skims (f : Ctl → Ctl) : (s.modCtl f).skims = s.skims := rfl
@[simp] theorem State.modCtl_trapvec (f : Ctl → Ctl) : (s.modCtl f).trapvec = s.trapvec := rfl
@[simp] theorem State.modCtl_wdog (f : Ctl → Ctl) : (s.modCtl f).wdog = s.wdog := rfl
@[simp] theorem State.modCtl_cw (f : Ctl → Ctl) : (s.modCtl f).cw = s.cw := rfl
@[simp] theorem State.modCtl_gran (f : Ctl → Ctl) : (s.modCtl f).gran = s.gran := rfl
@[simp] theorem State.modCtl_resv (f : Ctl → Ctl) : (s.modCtl f).resv = s.resv := rfl
@[simp] theorem State.modCtl_poison (f : Ctl → Ctl) : (s.modCtl f).poison = s.poison := rfl
@[simp] theorem State.modCtl_remap (f : Ctl → Ctl) : (s.modCtl f).remap = s.remap := rfl
@[simp] theorem State.modCtl_regionCnt (f : Ctl → Ctl) : (s.modCtl f).regionCnt = s.regionCnt := rfl
@[simp] theorem State.modCtl_chanMap (f : Ctl → Ctl) : (s.modCtl f).chanMap = s.chanMap := rfl
@[simp] theorem State.modCtl_evict (f : Ctl → Ctl) : (s.modCtl f).evict = s.evict := rfl
@[simp] theorem State.modCtl_images (f : Ctl → Ctl) : (s.modCtl f).images = s.images := rfl
@[simp] theorem State.modCtl_l2walk (f : Ctl → Ctl) : (s.modCtl f).l2walk = s.l2walk := rfl
@[simp] theorem State.modCtl_net (f : Ctl → Ctl) : (s.modCtl f).net = s.net := rfl
@[simp] theorem State.modCtl_nextMsg (f : Ctl → Ctl) : (s.modCtl f).nextMsg = s.nextMsg := rfl
@[simp] theorem State.modCtl_engLast (f : Ctl → Ctl) : (s.modCtl f).engLast = s.engLast := rfl
@[simp] theorem State.modCtl_countAt (f : Ctl → Ctl) : (s.modCtl f).countAt = s.countAt := rfl
@[simp] theorem State.modCtl_wideNets (f : Ctl → Ctl) : (s.modCtl f).wideNets = s.wideNets := rfl
@[simp] theorem State.modCtl_hostQ (f : Ctl → Ctl) : (s.modCtl f).hostQ = s.hostQ := rfl
@[simp] theorem State.modCtl_tier (f : Ctl → Ctl) : (s.modCtl f).tier = s.tier := rfl
@[simp] theorem State.modCtl_rings (f : Ctl → Ctl) : (s.modCtl f).rings = s.rings := rfl
@[simp] theorem State.modCtl_ringWrites (f : Ctl → Ctl) : (s.modCtl f).ringWrites = s.ringWrites := rfl
@[simp] theorem State.modCtl_deliveries (f : Ctl → Ctl) : (s.modCtl f).deliveries = s.deliveries := rfl
@[simp] theorem State.modCtl_xfers (f : Ctl → Ctl) : (s.modCtl f).xfers = s.xfers := rfl
@[simp] theorem State.modCtl_xseq (f : Ctl → Ctl) : (s.modCtl f).xseq = s.xseq := rfl
@[simp] theorem State.modCtl_groups (f : Ctl → Ctl) : (s.modCtl f).groups = s.groups := rfl
@[simp] theorem State.modCtl_groupLaunch (f : Ctl → Ctl) : (s.modCtl f).groupLaunch = s.groupLaunch := rfl
@[simp] theorem State.modCtl_collIn (f : Ctl → Ctl) : (s.modCtl f).collIn = s.collIn := rfl
@[simp] theorem State.modCtl_collSt (f : Ctl → Ctl) : (s.modCtl f).collSt = s.collSt := rfl
@[simp] theorem State.modCtl_dieTimes (f : Ctl → Ctl) : (s.modCtl f).dieTimes = s.dieTimes := rfl
@[simp] theorem State.modCtl_pkgTimes (f : Ctl → Ctl) : (s.modCtl f).pkgTimes = s.pkgTimes := rfl
@[simp] theorem State.modCtl_dispatch (f : Ctl → Ctl) : (s.modCtl f).dispatch = s.dispatch := rfl
@[simp] theorem State.modCtl_spawned (f : Ctl → Ctl) : (s.modCtl f).spawned = s.spawned := rfl
@[simp] theorem State.modCtl_away (f : Ctl → Ctl) : (s.modCtl f).away = s.away := rfl
@[simp] theorem State.modCtl_coreImgs (f : Ctl → Ctl) : (s.modCtl f).coreImgs = s.coreImgs := rfl
@[simp] theorem State.modCtl_faultQ (f : Ctl → Ctl) : (s.modCtl f).faultQ = s.faultQ := rfl
@[simp] theorem State.modCtl_launches (f : Ctl → Ctl) : (s.modCtl f).launches = s.launches := rfl
@[simp] theorem State.modCtl_workQ (f : Ctl → Ctl) : (s.modCtl f).workQ = s.workQ := rfl
@[simp] theorem State.modCtl_devQ (f : Ctl → Ctl) : (s.modCtl f).devQ = s.devQ := rfl
@[simp] theorem State.modCtl_ovf (f : Ctl → Ctl) : (s.modCtl f).ovf = s.ovf := rfl
@[simp] theorem State.modCtl_waiting (f : Ctl → Ctl) : (s.modCtl f).waiting = s.waiting := rfl
@[simp] theorem State.modCtl_completions (f : Ctl → Ctl) : (s.modCtl f).completions = s.completions := rfl
@[simp] theorem State.modCtl_rrNext (f : Ctl → Ctl) : (s.modCtl f).rrNext = s.rrNext := rfl
@[simp] theorem State.modCtl_lastArb (f : Ctl → Ctl) : (s.modCtl f).lastArb = s.lastArb := rfl
@[simp] theorem State.modCtl_outputs (f : Ctl → Ctl) : (s.modCtl f).outputs = s.outputs := rfl
@[simp] theorem State.modCtl_pci (f : Ctl → Ctl) : (s.modCtl f).pci = s.pci := rfl
@[simp] theorem State.modCtl_groupSlot (f : Ctl → Ctl) : (s.modCtl f).groupSlot = s.groupSlot := rfl
@[simp] theorem State.modCtl_ports (f : Ctl → Ctl) : (s.modCtl f).ports = s.ports := rfl
@[simp] theorem State.modCtl_bonds (f : Ctl → Ctl) : (s.modCtl f).bonds = s.bonds := rfl
@[simp] theorem State.modCtl_podOut (f : Ctl → Ctl) : (s.modCtl f).podOut = s.podOut := rfl
@[simp] theorem State.modCtl_podSent (f : Ctl → Ctl) : (s.modCtl f).podSent = s.podSent := rfl
@[simp] theorem State.modCtl_sendQ (f : Ctl → Ctl) : (s.modCtl f).sendQ = s.sendQ := rfl
@[simp] theorem State.modCtl_chain (f : Ctl → Ctl) : (s.modCtl f).chain = s.chain := rfl
@[simp] theorem State.modCtl_chainNext (f : Ctl → Ctl) : (s.modCtl f).chainNext = s.chainNext := rfl
@[simp] theorem State.modCtl_chainSlot (f : Ctl → Ctl) : (s.modCtl f).chainSlot = s.chainSlot := rfl
@[simp] theorem State.modCtl_bring (f : Ctl → Ctl) : (s.modCtl f).bring = s.bring := rfl
@[simp] theorem State.modCtl_ckpt (f : Ctl → Ctl) : (s.modCtl f).ckpt = s.ckpt := rfl
@[simp] theorem State.modCtl_debt (f : Ctl → Ctl) : (s.modCtl f).debt = s.debt := rfl
@[simp] theorem State.modCtl_swap (f : Ctl → Ctl) : (s.modCtl f).swap = s.swap := rfl
@[simp] theorem State.modCtl_adaptive (f : Ctl → Ctl) : (s.modCtl f).adaptive = s.adaptive := rfl
@[simp] theorem State.modCtl_topo (f : Ctl → Ctl) : (s.modCtl f).topo = s.topo := rfl
@[simp] theorem State.modCtl_nonce (f : Ctl → Ctl) : (s.modCtl f).nonce = s.nonce := rfl
@[simp] theorem State.modCtl_places (f : Ctl → Ctl) : (s.modCtl f).places = s.places := rfl
@[simp] theorem State.modCtl_netMarks (f : Ctl → Ctl) : (s.modCtl f).netMarks = s.netMarks := rfl
@[simp] theorem State.modCtl_gives (f : Ctl → Ctl) : (s.modCtl f).gives = s.gives := rfl
@[simp] theorem State.modCtl_slotCubes (f : Ctl → Ctl) : (s.modCtl f).slotCubes = s.slotCubes := rfl
@[simp] theorem State.modCtl_podParts (f : Ctl → Ctl) : (s.modCtl f).podParts = s.podParts := rfl
@[simp] theorem State.modCtl_nonceMask (f : Ctl → Ctl) : (s.modCtl f).nonceMask = s.nonceMask := rfl
@[simp] theorem State.modCtl_asks (f : Ctl → Ctl) : (s.modCtl f).asks = s.asks := rfl
@[simp] theorem State.modCtl_podIn (f : Ctl → Ctl) : (s.modCtl f).podIn = s.podIn := rfl
@[simp] theorem State.modCtl_hostIn (f : Ctl → Ctl) : (s.modCtl f).hostIn = s.hostIn := rfl
@[simp] theorem State.modCtl_flash (f : Ctl → Ctl) : (s.modCtl f).flash = s.flash := rfl
@[simp] theorem State.modCtl_running (f : Ctl → Ctl) : (s.modCtl f).running = s.running := rfl
@[simp] theorem State.modCtl_cycle (f : Ctl → Ctl) : (s.modCtl f).cycle = s.cycle := rfl
@[simp] theorem State.modCtl_scr4 (f : Ctl → Ctl) : (s.modCtl f).scr4 = s.scr4 := rfl
@[simp] theorem State.modCtl_pod8 (f : Ctl → Ctl) : (s.modCtl f).pod8 = s.pod8 := rfl
@[simp] theorem State.modCtl_cur (f : Ctl → Ctl) : (s.modCtl f).cur = s.cur := rfl
@[simp] theorem State.modCtl_args (f : Ctl → Ctl) : (s.modCtl f).args = s.args := rfl
@[simp] theorem State.modCtl_agenda (f : Ctl → Ctl) : (s.modCtl f).agenda = s.agenda := rfl
@[simp] theorem State.modCtl_issueQ (f : Ctl → Ctl) : (s.modCtl f).issueQ = s.issueQ := rfl
@[simp] theorem State.modCtl_fresh (f : Ctl → Ctl) : (s.modCtl f).fresh = s.fresh := rfl

/-! ## modQuad -/

@[simp] theorem State.modQuad_mem (q : Nat) (f : Quad → Quad) : (s.modQuad q f).mem = s.mem := rfl
@[simp] theorem State.modQuad_cores (q : Nat) (f : Quad → Quad) : (s.modQuad q f).cores = s.cores := rfl
@[simp] theorem State.modQuad_skims (q : Nat) (f : Quad → Quad) : (s.modQuad q f).skims = s.skims := rfl
@[simp] theorem State.modQuad_trapvec (q : Nat) (f : Quad → Quad) : (s.modQuad q f).trapvec = s.trapvec := rfl
@[simp] theorem State.modQuad_wdog (q : Nat) (f : Quad → Quad) : (s.modQuad q f).wdog = s.wdog := rfl
@[simp] theorem State.modQuad_cw (q : Nat) (f : Quad → Quad) : (s.modQuad q f).cw = s.cw := rfl
@[simp] theorem State.modQuad_gran (q : Nat) (f : Quad → Quad) : (s.modQuad q f).gran = s.gran := rfl
@[simp] theorem State.modQuad_resv (q : Nat) (f : Quad → Quad) : (s.modQuad q f).resv = s.resv := rfl
@[simp] theorem State.modQuad_poison (q : Nat) (f : Quad → Quad) : (s.modQuad q f).poison = s.poison := rfl
@[simp] theorem State.modQuad_remap (q : Nat) (f : Quad → Quad) : (s.modQuad q f).remap = s.remap := rfl
@[simp] theorem State.modQuad_regionCnt (q : Nat) (f : Quad → Quad) : (s.modQuad q f).regionCnt = s.regionCnt := rfl
@[simp] theorem State.modQuad_chanMap (q : Nat) (f : Quad → Quad) : (s.modQuad q f).chanMap = s.chanMap := rfl
@[simp] theorem State.modQuad_evict (q : Nat) (f : Quad → Quad) : (s.modQuad q f).evict = s.evict := rfl
@[simp] theorem State.modQuad_images (q : Nat) (f : Quad → Quad) : (s.modQuad q f).images = s.images := rfl
@[simp] theorem State.modQuad_l2walk (q : Nat) (f : Quad → Quad) : (s.modQuad q f).l2walk = s.l2walk := rfl
@[simp] theorem State.modQuad_net (q : Nat) (f : Quad → Quad) : (s.modQuad q f).net = s.net := rfl
@[simp] theorem State.modQuad_nextMsg (q : Nat) (f : Quad → Quad) : (s.modQuad q f).nextMsg = s.nextMsg := rfl
@[simp] theorem State.modQuad_engLast (q : Nat) (f : Quad → Quad) : (s.modQuad q f).engLast = s.engLast := rfl
@[simp] theorem State.modQuad_countAt (q : Nat) (f : Quad → Quad) : (s.modQuad q f).countAt = s.countAt := rfl
@[simp] theorem State.modQuad_wideNets (q : Nat) (f : Quad → Quad) : (s.modQuad q f).wideNets = s.wideNets := rfl
@[simp] theorem State.modQuad_hostQ (q : Nat) (f : Quad → Quad) : (s.modQuad q f).hostQ = s.hostQ := rfl
@[simp] theorem State.modQuad_tier (q : Nat) (f : Quad → Quad) : (s.modQuad q f).tier = s.tier := rfl
@[simp] theorem State.modQuad_rings (q : Nat) (f : Quad → Quad) : (s.modQuad q f).rings = s.rings := rfl
@[simp] theorem State.modQuad_ringWrites (q : Nat) (f : Quad → Quad) : (s.modQuad q f).ringWrites = s.ringWrites := rfl
@[simp] theorem State.modQuad_deliveries (q : Nat) (f : Quad → Quad) : (s.modQuad q f).deliveries = s.deliveries := rfl
@[simp] theorem State.modQuad_xfers (q : Nat) (f : Quad → Quad) : (s.modQuad q f).xfers = s.xfers := rfl
@[simp] theorem State.modQuad_xseq (q : Nat) (f : Quad → Quad) : (s.modQuad q f).xseq = s.xseq := rfl
@[simp] theorem State.modQuad_groups (q : Nat) (f : Quad → Quad) : (s.modQuad q f).groups = s.groups := rfl
@[simp] theorem State.modQuad_groupLaunch (q : Nat) (f : Quad → Quad) : (s.modQuad q f).groupLaunch = s.groupLaunch := rfl
@[simp] theorem State.modQuad_collIn (q : Nat) (f : Quad → Quad) : (s.modQuad q f).collIn = s.collIn := rfl
@[simp] theorem State.modQuad_collSt (q : Nat) (f : Quad → Quad) : (s.modQuad q f).collSt = s.collSt := rfl
@[simp] theorem State.modQuad_dieTimes (q : Nat) (f : Quad → Quad) : (s.modQuad q f).dieTimes = s.dieTimes := rfl
@[simp] theorem State.modQuad_pkgTimes (q : Nat) (f : Quad → Quad) : (s.modQuad q f).pkgTimes = s.pkgTimes := rfl
@[simp] theorem State.modQuad_dispatch (q : Nat) (f : Quad → Quad) : (s.modQuad q f).dispatch = s.dispatch := rfl
@[simp] theorem State.modQuad_spawned (q : Nat) (f : Quad → Quad) : (s.modQuad q f).spawned = s.spawned := rfl
@[simp] theorem State.modQuad_away (q : Nat) (f : Quad → Quad) : (s.modQuad q f).away = s.away := rfl
@[simp] theorem State.modQuad_coreImgs (q : Nat) (f : Quad → Quad) : (s.modQuad q f).coreImgs = s.coreImgs := rfl
@[simp] theorem State.modQuad_faultQ (q : Nat) (f : Quad → Quad) : (s.modQuad q f).faultQ = s.faultQ := rfl
@[simp] theorem State.modQuad_launches (q : Nat) (f : Quad → Quad) : (s.modQuad q f).launches = s.launches := rfl
@[simp] theorem State.modQuad_workQ (q : Nat) (f : Quad → Quad) : (s.modQuad q f).workQ = s.workQ := rfl
@[simp] theorem State.modQuad_devQ (q : Nat) (f : Quad → Quad) : (s.modQuad q f).devQ = s.devQ := rfl
@[simp] theorem State.modQuad_ovf (q : Nat) (f : Quad → Quad) : (s.modQuad q f).ovf = s.ovf := rfl
@[simp] theorem State.modQuad_waiting (q : Nat) (f : Quad → Quad) : (s.modQuad q f).waiting = s.waiting := rfl
@[simp] theorem State.modQuad_completions (q : Nat) (f : Quad → Quad) : (s.modQuad q f).completions = s.completions := rfl
@[simp] theorem State.modQuad_rrNext (q : Nat) (f : Quad → Quad) : (s.modQuad q f).rrNext = s.rrNext := rfl
@[simp] theorem State.modQuad_lastArb (q : Nat) (f : Quad → Quad) : (s.modQuad q f).lastArb = s.lastArb := rfl
@[simp] theorem State.modQuad_outputs (q : Nat) (f : Quad → Quad) : (s.modQuad q f).outputs = s.outputs := rfl
@[simp] theorem State.modQuad_pci (q : Nat) (f : Quad → Quad) : (s.modQuad q f).pci = s.pci := rfl
@[simp] theorem State.modQuad_groupSlot (q : Nat) (f : Quad → Quad) : (s.modQuad q f).groupSlot = s.groupSlot := rfl
@[simp] theorem State.modQuad_ports (q : Nat) (f : Quad → Quad) : (s.modQuad q f).ports = s.ports := rfl
@[simp] theorem State.modQuad_bonds (q : Nat) (f : Quad → Quad) : (s.modQuad q f).bonds = s.bonds := rfl
@[simp] theorem State.modQuad_podOut (q : Nat) (f : Quad → Quad) : (s.modQuad q f).podOut = s.podOut := rfl
@[simp] theorem State.modQuad_podSent (q : Nat) (f : Quad → Quad) : (s.modQuad q f).podSent = s.podSent := rfl
@[simp] theorem State.modQuad_sendQ (q : Nat) (f : Quad → Quad) : (s.modQuad q f).sendQ = s.sendQ := rfl
@[simp] theorem State.modQuad_chain (q : Nat) (f : Quad → Quad) : (s.modQuad q f).chain = s.chain := rfl
@[simp] theorem State.modQuad_chainNext (q : Nat) (f : Quad → Quad) : (s.modQuad q f).chainNext = s.chainNext := rfl
@[simp] theorem State.modQuad_chainSlot (q : Nat) (f : Quad → Quad) : (s.modQuad q f).chainSlot = s.chainSlot := rfl
@[simp] theorem State.modQuad_bring (q : Nat) (f : Quad → Quad) : (s.modQuad q f).bring = s.bring := rfl
@[simp] theorem State.modQuad_ckpt (q : Nat) (f : Quad → Quad) : (s.modQuad q f).ckpt = s.ckpt := rfl
@[simp] theorem State.modQuad_debt (q : Nat) (f : Quad → Quad) : (s.modQuad q f).debt = s.debt := rfl
@[simp] theorem State.modQuad_swap (q : Nat) (f : Quad → Quad) : (s.modQuad q f).swap = s.swap := rfl
@[simp] theorem State.modQuad_adaptive (q : Nat) (f : Quad → Quad) : (s.modQuad q f).adaptive = s.adaptive := rfl
@[simp] theorem State.modQuad_topo (q : Nat) (f : Quad → Quad) : (s.modQuad q f).topo = s.topo := rfl
@[simp] theorem State.modQuad_nonce (q : Nat) (f : Quad → Quad) : (s.modQuad q f).nonce = s.nonce := rfl
@[simp] theorem State.modQuad_places (q : Nat) (f : Quad → Quad) : (s.modQuad q f).places = s.places := rfl
@[simp] theorem State.modQuad_netMarks (q : Nat) (f : Quad → Quad) : (s.modQuad q f).netMarks = s.netMarks := rfl
@[simp] theorem State.modQuad_gives (q : Nat) (f : Quad → Quad) : (s.modQuad q f).gives = s.gives := rfl
@[simp] theorem State.modQuad_slotCubes (q : Nat) (f : Quad → Quad) : (s.modQuad q f).slotCubes = s.slotCubes := rfl
@[simp] theorem State.modQuad_podParts (q : Nat) (f : Quad → Quad) : (s.modQuad q f).podParts = s.podParts := rfl
@[simp] theorem State.modQuad_nonceMask (q : Nat) (f : Quad → Quad) : (s.modQuad q f).nonceMask = s.nonceMask := rfl
@[simp] theorem State.modQuad_asks (q : Nat) (f : Quad → Quad) : (s.modQuad q f).asks = s.asks := rfl
@[simp] theorem State.modQuad_podIn (q : Nat) (f : Quad → Quad) : (s.modQuad q f).podIn = s.podIn := rfl
@[simp] theorem State.modQuad_hostIn (q : Nat) (f : Quad → Quad) : (s.modQuad q f).hostIn = s.hostIn := rfl
@[simp] theorem State.modQuad_flash (q : Nat) (f : Quad → Quad) : (s.modQuad q f).flash = s.flash := rfl
@[simp] theorem State.modQuad_running (q : Nat) (f : Quad → Quad) : (s.modQuad q f).running = s.running := rfl
@[simp] theorem State.modQuad_cycle (q : Nat) (f : Quad → Quad) : (s.modQuad q f).cycle = s.cycle := rfl
@[simp] theorem State.modQuad_scr4 (q : Nat) (f : Quad → Quad) : (s.modQuad q f).scr4 = s.scr4 := rfl
@[simp] theorem State.modQuad_pod8 (q : Nat) (f : Quad → Quad) : (s.modQuad q f).pod8 = s.pod8 := rfl
@[simp] theorem State.modQuad_cur (q : Nat) (f : Quad → Quad) : (s.modQuad q f).cur = s.cur := rfl
@[simp] theorem State.modQuad_args (q : Nat) (f : Quad → Quad) : (s.modQuad q f).args = s.args := rfl
@[simp] theorem State.modQuad_agenda (q : Nat) (f : Quad → Quad) : (s.modQuad q f).agenda = s.agenda := rfl
@[simp] theorem State.modQuad_issueQ (q : Nat) (f : Quad → Quad) : (s.modQuad q f).issueQ = s.issueQ := rfl
@[simp] theorem State.modQuad_fresh (q : Nat) (f : Quad → Quad) : (s.modQuad q f).fresh = s.fresh := rfl

/-! ## setSkim -/

@[simp] theorem State.setSkim_mem (x c i : Nat) (k : Skim) : (s.setSkim x c i k).mem = s.mem := rfl
@[simp] theorem State.setSkim_cores (x c i : Nat) (k : Skim) : (s.setSkim x c i k).cores = s.cores := rfl
@[simp] theorem State.setSkim_quads (x c i : Nat) (k : Skim) : (s.setSkim x c i k).quads = s.quads := rfl
@[simp] theorem State.setSkim_trapvec (x c i : Nat) (k : Skim) : (s.setSkim x c i k).trapvec = s.trapvec := rfl
@[simp] theorem State.setSkim_wdog (x c i : Nat) (k : Skim) : (s.setSkim x c i k).wdog = s.wdog := rfl
@[simp] theorem State.setSkim_cw (x c i : Nat) (k : Skim) : (s.setSkim x c i k).cw = s.cw := rfl
@[simp] theorem State.setSkim_gran (x c i : Nat) (k : Skim) : (s.setSkim x c i k).gran = s.gran := rfl
@[simp] theorem State.setSkim_resv (x c i : Nat) (k : Skim) : (s.setSkim x c i k).resv = s.resv := rfl
@[simp] theorem State.setSkim_poison (x c i : Nat) (k : Skim) : (s.setSkim x c i k).poison = s.poison := rfl
@[simp] theorem State.setSkim_remap (x c i : Nat) (k : Skim) : (s.setSkim x c i k).remap = s.remap := rfl
@[simp] theorem State.setSkim_regionCnt (x c i : Nat) (k : Skim) : (s.setSkim x c i k).regionCnt = s.regionCnt := rfl
@[simp] theorem State.setSkim_chanMap (x c i : Nat) (k : Skim) : (s.setSkim x c i k).chanMap = s.chanMap := rfl
@[simp] theorem State.setSkim_evict (x c i : Nat) (k : Skim) : (s.setSkim x c i k).evict = s.evict := rfl
@[simp] theorem State.setSkim_images (x c i : Nat) (k : Skim) : (s.setSkim x c i k).images = s.images := rfl
@[simp] theorem State.setSkim_l2walk (x c i : Nat) (k : Skim) : (s.setSkim x c i k).l2walk = s.l2walk := rfl
@[simp] theorem State.setSkim_net (x c i : Nat) (k : Skim) : (s.setSkim x c i k).net = s.net := rfl
@[simp] theorem State.setSkim_nextMsg (x c i : Nat) (k : Skim) : (s.setSkim x c i k).nextMsg = s.nextMsg := rfl
@[simp] theorem State.setSkim_engLast (x c i : Nat) (k : Skim) : (s.setSkim x c i k).engLast = s.engLast := rfl
@[simp] theorem State.setSkim_countAt (x c i : Nat) (k : Skim) : (s.setSkim x c i k).countAt = s.countAt := rfl
@[simp] theorem State.setSkim_wideNets (x c i : Nat) (k : Skim) : (s.setSkim x c i k).wideNets = s.wideNets := rfl
@[simp] theorem State.setSkim_hostQ (x c i : Nat) (k : Skim) : (s.setSkim x c i k).hostQ = s.hostQ := rfl
@[simp] theorem State.setSkim_tier (x c i : Nat) (k : Skim) : (s.setSkim x c i k).tier = s.tier := rfl
@[simp] theorem State.setSkim_rings (x c i : Nat) (k : Skim) : (s.setSkim x c i k).rings = s.rings := rfl
@[simp] theorem State.setSkim_ringWrites (x c i : Nat) (k : Skim) : (s.setSkim x c i k).ringWrites = s.ringWrites := rfl
@[simp] theorem State.setSkim_deliveries (x c i : Nat) (k : Skim) : (s.setSkim x c i k).deliveries = s.deliveries := rfl
@[simp] theorem State.setSkim_xfers (x c i : Nat) (k : Skim) : (s.setSkim x c i k).xfers = s.xfers := rfl
@[simp] theorem State.setSkim_xseq (x c i : Nat) (k : Skim) : (s.setSkim x c i k).xseq = s.xseq := rfl
@[simp] theorem State.setSkim_groups (x c i : Nat) (k : Skim) : (s.setSkim x c i k).groups = s.groups := rfl
@[simp] theorem State.setSkim_groupLaunch (x c i : Nat) (k : Skim) : (s.setSkim x c i k).groupLaunch = s.groupLaunch := rfl
@[simp] theorem State.setSkim_collIn (x c i : Nat) (k : Skim) : (s.setSkim x c i k).collIn = s.collIn := rfl
@[simp] theorem State.setSkim_collSt (x c i : Nat) (k : Skim) : (s.setSkim x c i k).collSt = s.collSt := rfl
@[simp] theorem State.setSkim_dieTimes (x c i : Nat) (k : Skim) : (s.setSkim x c i k).dieTimes = s.dieTimes := rfl
@[simp] theorem State.setSkim_pkgTimes (x c i : Nat) (k : Skim) : (s.setSkim x c i k).pkgTimes = s.pkgTimes := rfl
@[simp] theorem State.setSkim_dispatch (x c i : Nat) (k : Skim) : (s.setSkim x c i k).dispatch = s.dispatch := rfl
@[simp] theorem State.setSkim_spawned (x c i : Nat) (k : Skim) : (s.setSkim x c i k).spawned = s.spawned := rfl
@[simp] theorem State.setSkim_away (x c i : Nat) (k : Skim) : (s.setSkim x c i k).away = s.away := rfl
@[simp] theorem State.setSkim_coreImgs (x c i : Nat) (k : Skim) : (s.setSkim x c i k).coreImgs = s.coreImgs := rfl
@[simp] theorem State.setSkim_faultQ (x c i : Nat) (k : Skim) : (s.setSkim x c i k).faultQ = s.faultQ := rfl
@[simp] theorem State.setSkim_launches (x c i : Nat) (k : Skim) : (s.setSkim x c i k).launches = s.launches := rfl
@[simp] theorem State.setSkim_workQ (x c i : Nat) (k : Skim) : (s.setSkim x c i k).workQ = s.workQ := rfl
@[simp] theorem State.setSkim_devQ (x c i : Nat) (k : Skim) : (s.setSkim x c i k).devQ = s.devQ := rfl
@[simp] theorem State.setSkim_ovf (x c i : Nat) (k : Skim) : (s.setSkim x c i k).ovf = s.ovf := rfl
@[simp] theorem State.setSkim_waiting (x c i : Nat) (k : Skim) : (s.setSkim x c i k).waiting = s.waiting := rfl
@[simp] theorem State.setSkim_completions (x c i : Nat) (k : Skim) : (s.setSkim x c i k).completions = s.completions := rfl
@[simp] theorem State.setSkim_rrNext (x c i : Nat) (k : Skim) : (s.setSkim x c i k).rrNext = s.rrNext := rfl
@[simp] theorem State.setSkim_lastArb (x c i : Nat) (k : Skim) : (s.setSkim x c i k).lastArb = s.lastArb := rfl
@[simp] theorem State.setSkim_outputs (x c i : Nat) (k : Skim) : (s.setSkim x c i k).outputs = s.outputs := rfl
@[simp] theorem State.setSkim_pci (x c i : Nat) (k : Skim) : (s.setSkim x c i k).pci = s.pci := rfl
@[simp] theorem State.setSkim_groupSlot (x c i : Nat) (k : Skim) : (s.setSkim x c i k).groupSlot = s.groupSlot := rfl
@[simp] theorem State.setSkim_ports (x c i : Nat) (k : Skim) : (s.setSkim x c i k).ports = s.ports := rfl
@[simp] theorem State.setSkim_bonds (x c i : Nat) (k : Skim) : (s.setSkim x c i k).bonds = s.bonds := rfl
@[simp] theorem State.setSkim_podOut (x c i : Nat) (k : Skim) : (s.setSkim x c i k).podOut = s.podOut := rfl
@[simp] theorem State.setSkim_podSent (x c i : Nat) (k : Skim) : (s.setSkim x c i k).podSent = s.podSent := rfl
@[simp] theorem State.setSkim_sendQ (x c i : Nat) (k : Skim) : (s.setSkim x c i k).sendQ = s.sendQ := rfl
@[simp] theorem State.setSkim_chain (x c i : Nat) (k : Skim) : (s.setSkim x c i k).chain = s.chain := rfl
@[simp] theorem State.setSkim_chainNext (x c i : Nat) (k : Skim) : (s.setSkim x c i k).chainNext = s.chainNext := rfl
@[simp] theorem State.setSkim_chainSlot (x c i : Nat) (k : Skim) : (s.setSkim x c i k).chainSlot = s.chainSlot := rfl
@[simp] theorem State.setSkim_bring (x c i : Nat) (k : Skim) : (s.setSkim x c i k).bring = s.bring := rfl
@[simp] theorem State.setSkim_ckpt (x c i : Nat) (k : Skim) : (s.setSkim x c i k).ckpt = s.ckpt := rfl
@[simp] theorem State.setSkim_debt (x c i : Nat) (k : Skim) : (s.setSkim x c i k).debt = s.debt := rfl
@[simp] theorem State.setSkim_swap (x c i : Nat) (k : Skim) : (s.setSkim x c i k).swap = s.swap := rfl
@[simp] theorem State.setSkim_adaptive (x c i : Nat) (k : Skim) : (s.setSkim x c i k).adaptive = s.adaptive := rfl
@[simp] theorem State.setSkim_topo (x c i : Nat) (k : Skim) : (s.setSkim x c i k).topo = s.topo := rfl
@[simp] theorem State.setSkim_nonce (x c i : Nat) (k : Skim) : (s.setSkim x c i k).nonce = s.nonce := rfl
@[simp] theorem State.setSkim_places (x c i : Nat) (k : Skim) : (s.setSkim x c i k).places = s.places := rfl
@[simp] theorem State.setSkim_netMarks (x c i : Nat) (k : Skim) : (s.setSkim x c i k).netMarks = s.netMarks := rfl
@[simp] theorem State.setSkim_gives (x c i : Nat) (k : Skim) : (s.setSkim x c i k).gives = s.gives := rfl
@[simp] theorem State.setSkim_slotCubes (x c i : Nat) (k : Skim) : (s.setSkim x c i k).slotCubes = s.slotCubes := rfl
@[simp] theorem State.setSkim_podParts (x c i : Nat) (k : Skim) : (s.setSkim x c i k).podParts = s.podParts := rfl
@[simp] theorem State.setSkim_nonceMask (x c i : Nat) (k : Skim) : (s.setSkim x c i k).nonceMask = s.nonceMask := rfl
@[simp] theorem State.setSkim_asks (x c i : Nat) (k : Skim) : (s.setSkim x c i k).asks = s.asks := rfl
@[simp] theorem State.setSkim_podIn (x c i : Nat) (k : Skim) : (s.setSkim x c i k).podIn = s.podIn := rfl
@[simp] theorem State.setSkim_hostIn (x c i : Nat) (k : Skim) : (s.setSkim x c i k).hostIn = s.hostIn := rfl
@[simp] theorem State.setSkim_flash (x c i : Nat) (k : Skim) : (s.setSkim x c i k).flash = s.flash := rfl
@[simp] theorem State.setSkim_running (x c i : Nat) (k : Skim) : (s.setSkim x c i k).running = s.running := rfl
@[simp] theorem State.setSkim_cycle (x c i : Nat) (k : Skim) : (s.setSkim x c i k).cycle = s.cycle := rfl
@[simp] theorem State.setSkim_scr4 (x c i : Nat) (k : Skim) : (s.setSkim x c i k).scr4 = s.scr4 := rfl
@[simp] theorem State.setSkim_pod8 (x c i : Nat) (k : Skim) : (s.setSkim x c i k).pod8 = s.pod8 := rfl
@[simp] theorem State.setSkim_cur (x c i : Nat) (k : Skim) : (s.setSkim x c i k).cur = s.cur := rfl
@[simp] theorem State.setSkim_args (x c i : Nat) (k : Skim) : (s.setSkim x c i k).args = s.args := rfl
@[simp] theorem State.setSkim_agenda (x c i : Nat) (k : Skim) : (s.setSkim x c i k).agenda = s.agenda := rfl
@[simp] theorem State.setSkim_issueQ (x c i : Nat) (k : Skim) : (s.setSkim x c i k).issueQ = s.issueQ := rfl
@[simp] theorem State.setSkim_fresh (x c i : Nat) (k : Skim) : (s.setSkim x c i k).fresh = s.fresh := rfl

/-! ## setByte -/

@[simp] theorem State.setByte_cores (k : Nat) (b : Byte) : (s.setByte k b).cores = s.cores := rfl
@[simp] theorem State.setByte_quads (k : Nat) (b : Byte) : (s.setByte k b).quads = s.quads := rfl
@[simp] theorem State.setByte_skims (k : Nat) (b : Byte) : (s.setByte k b).skims = s.skims := rfl
@[simp] theorem State.setByte_trapvec (k : Nat) (b : Byte) : (s.setByte k b).trapvec = s.trapvec := rfl
@[simp] theorem State.setByte_wdog (k : Nat) (b : Byte) : (s.setByte k b).wdog = s.wdog := rfl
@[simp] theorem State.setByte_cw (k : Nat) (b : Byte) : (s.setByte k b).cw = s.cw := rfl
@[simp] theorem State.setByte_gran (k : Nat) (b : Byte) : (s.setByte k b).gran = s.gran := rfl
@[simp] theorem State.setByte_resv (k : Nat) (b : Byte) : (s.setByte k b).resv = s.resv := rfl
@[simp] theorem State.setByte_poison (k : Nat) (b : Byte) : (s.setByte k b).poison = s.poison := rfl
@[simp] theorem State.setByte_remap (k : Nat) (b : Byte) : (s.setByte k b).remap = s.remap := rfl
@[simp] theorem State.setByte_regionCnt (k : Nat) (b : Byte) : (s.setByte k b).regionCnt = s.regionCnt := rfl
@[simp] theorem State.setByte_chanMap (k : Nat) (b : Byte) : (s.setByte k b).chanMap = s.chanMap := rfl
@[simp] theorem State.setByte_evict (k : Nat) (b : Byte) : (s.setByte k b).evict = s.evict := rfl
@[simp] theorem State.setByte_images (k : Nat) (b : Byte) : (s.setByte k b).images = s.images := rfl
@[simp] theorem State.setByte_l2walk (k : Nat) (b : Byte) : (s.setByte k b).l2walk = s.l2walk := rfl
@[simp] theorem State.setByte_net (k : Nat) (b : Byte) : (s.setByte k b).net = s.net := rfl
@[simp] theorem State.setByte_nextMsg (k : Nat) (b : Byte) : (s.setByte k b).nextMsg = s.nextMsg := rfl
@[simp] theorem State.setByte_engLast (k : Nat) (b : Byte) : (s.setByte k b).engLast = s.engLast := rfl
@[simp] theorem State.setByte_countAt (k : Nat) (b : Byte) : (s.setByte k b).countAt = s.countAt := rfl
@[simp] theorem State.setByte_wideNets (k : Nat) (b : Byte) : (s.setByte k b).wideNets = s.wideNets := rfl
@[simp] theorem State.setByte_hostQ (k : Nat) (b : Byte) : (s.setByte k b).hostQ = s.hostQ := rfl
@[simp] theorem State.setByte_tier (k : Nat) (b : Byte) : (s.setByte k b).tier = s.tier := rfl
@[simp] theorem State.setByte_rings (k : Nat) (b : Byte) : (s.setByte k b).rings = s.rings := rfl
@[simp] theorem State.setByte_ringWrites (k : Nat) (b : Byte) : (s.setByte k b).ringWrites = s.ringWrites := rfl
@[simp] theorem State.setByte_deliveries (k : Nat) (b : Byte) : (s.setByte k b).deliveries = s.deliveries := rfl
@[simp] theorem State.setByte_xfers (k : Nat) (b : Byte) : (s.setByte k b).xfers = s.xfers := rfl
@[simp] theorem State.setByte_xseq (k : Nat) (b : Byte) : (s.setByte k b).xseq = s.xseq := rfl
@[simp] theorem State.setByte_groups (k : Nat) (b : Byte) : (s.setByte k b).groups = s.groups := rfl
@[simp] theorem State.setByte_groupLaunch (k : Nat) (b : Byte) : (s.setByte k b).groupLaunch = s.groupLaunch := rfl
@[simp] theorem State.setByte_collIn (k : Nat) (b : Byte) : (s.setByte k b).collIn = s.collIn := rfl
@[simp] theorem State.setByte_collSt (k : Nat) (b : Byte) : (s.setByte k b).collSt = s.collSt := rfl
@[simp] theorem State.setByte_dieTimes (k : Nat) (b : Byte) : (s.setByte k b).dieTimes = s.dieTimes := rfl
@[simp] theorem State.setByte_pkgTimes (k : Nat) (b : Byte) : (s.setByte k b).pkgTimes = s.pkgTimes := rfl
@[simp] theorem State.setByte_dispatch (k : Nat) (b : Byte) : (s.setByte k b).dispatch = s.dispatch := rfl
@[simp] theorem State.setByte_spawned (k : Nat) (b : Byte) : (s.setByte k b).spawned = s.spawned := rfl
@[simp] theorem State.setByte_away (k : Nat) (b : Byte) : (s.setByte k b).away = s.away := rfl
@[simp] theorem State.setByte_coreImgs (k : Nat) (b : Byte) : (s.setByte k b).coreImgs = s.coreImgs := rfl
@[simp] theorem State.setByte_faultQ (k : Nat) (b : Byte) : (s.setByte k b).faultQ = s.faultQ := rfl
@[simp] theorem State.setByte_launches (k : Nat) (b : Byte) : (s.setByte k b).launches = s.launches := rfl
@[simp] theorem State.setByte_workQ (k : Nat) (b : Byte) : (s.setByte k b).workQ = s.workQ := rfl
@[simp] theorem State.setByte_devQ (k : Nat) (b : Byte) : (s.setByte k b).devQ = s.devQ := rfl
@[simp] theorem State.setByte_ovf (k : Nat) (b : Byte) : (s.setByte k b).ovf = s.ovf := rfl
@[simp] theorem State.setByte_waiting (k : Nat) (b : Byte) : (s.setByte k b).waiting = s.waiting := rfl
@[simp] theorem State.setByte_completions (k : Nat) (b : Byte) : (s.setByte k b).completions = s.completions := rfl
@[simp] theorem State.setByte_rrNext (k : Nat) (b : Byte) : (s.setByte k b).rrNext = s.rrNext := rfl
@[simp] theorem State.setByte_lastArb (k : Nat) (b : Byte) : (s.setByte k b).lastArb = s.lastArb := rfl
@[simp] theorem State.setByte_outputs (k : Nat) (b : Byte) : (s.setByte k b).outputs = s.outputs := rfl
@[simp] theorem State.setByte_pci (k : Nat) (b : Byte) : (s.setByte k b).pci = s.pci := rfl
@[simp] theorem State.setByte_groupSlot (k : Nat) (b : Byte) : (s.setByte k b).groupSlot = s.groupSlot := rfl
@[simp] theorem State.setByte_ports (k : Nat) (b : Byte) : (s.setByte k b).ports = s.ports := rfl
@[simp] theorem State.setByte_bonds (k : Nat) (b : Byte) : (s.setByte k b).bonds = s.bonds := rfl
@[simp] theorem State.setByte_podOut (k : Nat) (b : Byte) : (s.setByte k b).podOut = s.podOut := rfl
@[simp] theorem State.setByte_podSent (k : Nat) (b : Byte) : (s.setByte k b).podSent = s.podSent := rfl
@[simp] theorem State.setByte_sendQ (k : Nat) (b : Byte) : (s.setByte k b).sendQ = s.sendQ := rfl
@[simp] theorem State.setByte_chain (k : Nat) (b : Byte) : (s.setByte k b).chain = s.chain := rfl
@[simp] theorem State.setByte_chainNext (k : Nat) (b : Byte) : (s.setByte k b).chainNext = s.chainNext := rfl
@[simp] theorem State.setByte_chainSlot (k : Nat) (b : Byte) : (s.setByte k b).chainSlot = s.chainSlot := rfl
@[simp] theorem State.setByte_bring (k : Nat) (b : Byte) : (s.setByte k b).bring = s.bring := rfl
@[simp] theorem State.setByte_ckpt (k : Nat) (b : Byte) : (s.setByte k b).ckpt = s.ckpt := rfl
@[simp] theorem State.setByte_debt (k : Nat) (b : Byte) : (s.setByte k b).debt = s.debt := rfl
@[simp] theorem State.setByte_swap (k : Nat) (b : Byte) : (s.setByte k b).swap = s.swap := rfl
@[simp] theorem State.setByte_adaptive (k : Nat) (b : Byte) : (s.setByte k b).adaptive = s.adaptive := rfl
@[simp] theorem State.setByte_topo (k : Nat) (b : Byte) : (s.setByte k b).topo = s.topo := rfl
@[simp] theorem State.setByte_nonce (k : Nat) (b : Byte) : (s.setByte k b).nonce = s.nonce := rfl
@[simp] theorem State.setByte_places (k : Nat) (b : Byte) : (s.setByte k b).places = s.places := rfl
@[simp] theorem State.setByte_netMarks (k : Nat) (b : Byte) : (s.setByte k b).netMarks = s.netMarks := rfl
@[simp] theorem State.setByte_gives (k : Nat) (b : Byte) : (s.setByte k b).gives = s.gives := rfl
@[simp] theorem State.setByte_slotCubes (k : Nat) (b : Byte) : (s.setByte k b).slotCubes = s.slotCubes := rfl
@[simp] theorem State.setByte_podParts (k : Nat) (b : Byte) : (s.setByte k b).podParts = s.podParts := rfl
@[simp] theorem State.setByte_nonceMask (k : Nat) (b : Byte) : (s.setByte k b).nonceMask = s.nonceMask := rfl
@[simp] theorem State.setByte_asks (k : Nat) (b : Byte) : (s.setByte k b).asks = s.asks := rfl
@[simp] theorem State.setByte_podIn (k : Nat) (b : Byte) : (s.setByte k b).podIn = s.podIn := rfl
@[simp] theorem State.setByte_hostIn (k : Nat) (b : Byte) : (s.setByte k b).hostIn = s.hostIn := rfl
@[simp] theorem State.setByte_flash (k : Nat) (b : Byte) : (s.setByte k b).flash = s.flash := rfl
@[simp] theorem State.setByte_running (k : Nat) (b : Byte) : (s.setByte k b).running = s.running := rfl
@[simp] theorem State.setByte_cycle (k : Nat) (b : Byte) : (s.setByte k b).cycle = s.cycle := rfl
@[simp] theorem State.setByte_scr4 (k : Nat) (b : Byte) : (s.setByte k b).scr4 = s.scr4 := rfl
@[simp] theorem State.setByte_pod8 (k : Nat) (b : Byte) : (s.setByte k b).pod8 = s.pod8 := rfl
@[simp] theorem State.setByte_cur (k : Nat) (b : Byte) : (s.setByte k b).cur = s.cur := rfl
@[simp] theorem State.setByte_args (k : Nat) (b : Byte) : (s.setByte k b).args = s.args := rfl
@[simp] theorem State.setByte_agenda (k : Nat) (b : Byte) : (s.setByte k b).agenda = s.agenda := rfl
@[simp] theorem State.setByte_issueQ (k : Nat) (b : Byte) : (s.setByte k b).issueQ = s.issueQ := rfl
@[simp] theorem State.setByte_fresh (k : Nat) (b : Byte) : (s.setByte k b).fresh = s.fresh := rfl

/-! ## cwSet -/

@[simp] theorem State.cwSet_mem (off : Nat) (v : Word) : (s.cwSet off v).mem = s.mem := rfl
@[simp] theorem State.cwSet_cores (off : Nat) (v : Word) : (s.cwSet off v).cores = s.cores := rfl
@[simp] theorem State.cwSet_quads (off : Nat) (v : Word) : (s.cwSet off v).quads = s.quads := rfl
@[simp] theorem State.cwSet_skims (off : Nat) (v : Word) : (s.cwSet off v).skims = s.skims := rfl
@[simp] theorem State.cwSet_trapvec (off : Nat) (v : Word) : (s.cwSet off v).trapvec = s.trapvec := rfl
@[simp] theorem State.cwSet_wdog (off : Nat) (v : Word) : (s.cwSet off v).wdog = s.wdog := rfl
@[simp] theorem State.cwSet_gran (off : Nat) (v : Word) : (s.cwSet off v).gran = s.gran := rfl
@[simp] theorem State.cwSet_resv (off : Nat) (v : Word) : (s.cwSet off v).resv = s.resv := rfl
@[simp] theorem State.cwSet_poison (off : Nat) (v : Word) : (s.cwSet off v).poison = s.poison := rfl
@[simp] theorem State.cwSet_remap (off : Nat) (v : Word) : (s.cwSet off v).remap = s.remap := rfl
@[simp] theorem State.cwSet_regionCnt (off : Nat) (v : Word) : (s.cwSet off v).regionCnt = s.regionCnt := rfl
@[simp] theorem State.cwSet_chanMap (off : Nat) (v : Word) : (s.cwSet off v).chanMap = s.chanMap := rfl
@[simp] theorem State.cwSet_evict (off : Nat) (v : Word) : (s.cwSet off v).evict = s.evict := rfl
@[simp] theorem State.cwSet_images (off : Nat) (v : Word) : (s.cwSet off v).images = s.images := rfl
@[simp] theorem State.cwSet_l2walk (off : Nat) (v : Word) : (s.cwSet off v).l2walk = s.l2walk := rfl
@[simp] theorem State.cwSet_net (off : Nat) (v : Word) : (s.cwSet off v).net = s.net := rfl
@[simp] theorem State.cwSet_nextMsg (off : Nat) (v : Word) : (s.cwSet off v).nextMsg = s.nextMsg := rfl
@[simp] theorem State.cwSet_engLast (off : Nat) (v : Word) : (s.cwSet off v).engLast = s.engLast := rfl
@[simp] theorem State.cwSet_countAt (off : Nat) (v : Word) : (s.cwSet off v).countAt = s.countAt := rfl
@[simp] theorem State.cwSet_wideNets (off : Nat) (v : Word) : (s.cwSet off v).wideNets = s.wideNets := rfl
@[simp] theorem State.cwSet_hostQ (off : Nat) (v : Word) : (s.cwSet off v).hostQ = s.hostQ := rfl
@[simp] theorem State.cwSet_tier (off : Nat) (v : Word) : (s.cwSet off v).tier = s.tier := rfl
@[simp] theorem State.cwSet_rings (off : Nat) (v : Word) : (s.cwSet off v).rings = s.rings := rfl
@[simp] theorem State.cwSet_ringWrites (off : Nat) (v : Word) : (s.cwSet off v).ringWrites = s.ringWrites := rfl
@[simp] theorem State.cwSet_deliveries (off : Nat) (v : Word) : (s.cwSet off v).deliveries = s.deliveries := rfl
@[simp] theorem State.cwSet_xfers (off : Nat) (v : Word) : (s.cwSet off v).xfers = s.xfers := rfl
@[simp] theorem State.cwSet_xseq (off : Nat) (v : Word) : (s.cwSet off v).xseq = s.xseq := rfl
@[simp] theorem State.cwSet_groups (off : Nat) (v : Word) : (s.cwSet off v).groups = s.groups := rfl
@[simp] theorem State.cwSet_groupLaunch (off : Nat) (v : Word) : (s.cwSet off v).groupLaunch = s.groupLaunch := rfl
@[simp] theorem State.cwSet_collIn (off : Nat) (v : Word) : (s.cwSet off v).collIn = s.collIn := rfl
@[simp] theorem State.cwSet_collSt (off : Nat) (v : Word) : (s.cwSet off v).collSt = s.collSt := rfl
@[simp] theorem State.cwSet_dieTimes (off : Nat) (v : Word) : (s.cwSet off v).dieTimes = s.dieTimes := rfl
@[simp] theorem State.cwSet_pkgTimes (off : Nat) (v : Word) : (s.cwSet off v).pkgTimes = s.pkgTimes := rfl
@[simp] theorem State.cwSet_dispatch (off : Nat) (v : Word) : (s.cwSet off v).dispatch = s.dispatch := rfl
@[simp] theorem State.cwSet_spawned (off : Nat) (v : Word) : (s.cwSet off v).spawned = s.spawned := rfl
@[simp] theorem State.cwSet_away (off : Nat) (v : Word) : (s.cwSet off v).away = s.away := rfl
@[simp] theorem State.cwSet_coreImgs (off : Nat) (v : Word) : (s.cwSet off v).coreImgs = s.coreImgs := rfl
@[simp] theorem State.cwSet_faultQ (off : Nat) (v : Word) : (s.cwSet off v).faultQ = s.faultQ := rfl
@[simp] theorem State.cwSet_launches (off : Nat) (v : Word) : (s.cwSet off v).launches = s.launches := rfl
@[simp] theorem State.cwSet_workQ (off : Nat) (v : Word) : (s.cwSet off v).workQ = s.workQ := rfl
@[simp] theorem State.cwSet_devQ (off : Nat) (v : Word) : (s.cwSet off v).devQ = s.devQ := rfl
@[simp] theorem State.cwSet_ovf (off : Nat) (v : Word) : (s.cwSet off v).ovf = s.ovf := rfl
@[simp] theorem State.cwSet_waiting (off : Nat) (v : Word) : (s.cwSet off v).waiting = s.waiting := rfl
@[simp] theorem State.cwSet_completions (off : Nat) (v : Word) : (s.cwSet off v).completions = s.completions := rfl
@[simp] theorem State.cwSet_rrNext (off : Nat) (v : Word) : (s.cwSet off v).rrNext = s.rrNext := rfl
@[simp] theorem State.cwSet_lastArb (off : Nat) (v : Word) : (s.cwSet off v).lastArb = s.lastArb := rfl
@[simp] theorem State.cwSet_outputs (off : Nat) (v : Word) : (s.cwSet off v).outputs = s.outputs := rfl
@[simp] theorem State.cwSet_pci (off : Nat) (v : Word) : (s.cwSet off v).pci = s.pci := rfl
@[simp] theorem State.cwSet_groupSlot (off : Nat) (v : Word) : (s.cwSet off v).groupSlot = s.groupSlot := rfl
@[simp] theorem State.cwSet_ports (off : Nat) (v : Word) : (s.cwSet off v).ports = s.ports := rfl
@[simp] theorem State.cwSet_bonds (off : Nat) (v : Word) : (s.cwSet off v).bonds = s.bonds := rfl
@[simp] theorem State.cwSet_podOut (off : Nat) (v : Word) : (s.cwSet off v).podOut = s.podOut := rfl
@[simp] theorem State.cwSet_podSent (off : Nat) (v : Word) : (s.cwSet off v).podSent = s.podSent := rfl
@[simp] theorem State.cwSet_sendQ (off : Nat) (v : Word) : (s.cwSet off v).sendQ = s.sendQ := rfl
@[simp] theorem State.cwSet_chain (off : Nat) (v : Word) : (s.cwSet off v).chain = s.chain := rfl
@[simp] theorem State.cwSet_chainNext (off : Nat) (v : Word) : (s.cwSet off v).chainNext = s.chainNext := rfl
@[simp] theorem State.cwSet_chainSlot (off : Nat) (v : Word) : (s.cwSet off v).chainSlot = s.chainSlot := rfl
@[simp] theorem State.cwSet_bring (off : Nat) (v : Word) : (s.cwSet off v).bring = s.bring := rfl
@[simp] theorem State.cwSet_ckpt (off : Nat) (v : Word) : (s.cwSet off v).ckpt = s.ckpt := rfl
@[simp] theorem State.cwSet_debt (off : Nat) (v : Word) : (s.cwSet off v).debt = s.debt := rfl
@[simp] theorem State.cwSet_swap (off : Nat) (v : Word) : (s.cwSet off v).swap = s.swap := rfl
@[simp] theorem State.cwSet_adaptive (off : Nat) (v : Word) : (s.cwSet off v).adaptive = s.adaptive := rfl
@[simp] theorem State.cwSet_topo (off : Nat) (v : Word) : (s.cwSet off v).topo = s.topo := rfl
@[simp] theorem State.cwSet_nonce (off : Nat) (v : Word) : (s.cwSet off v).nonce = s.nonce := rfl
@[simp] theorem State.cwSet_places (off : Nat) (v : Word) : (s.cwSet off v).places = s.places := rfl
@[simp] theorem State.cwSet_netMarks (off : Nat) (v : Word) : (s.cwSet off v).netMarks = s.netMarks := rfl
@[simp] theorem State.cwSet_gives (off : Nat) (v : Word) : (s.cwSet off v).gives = s.gives := rfl
@[simp] theorem State.cwSet_slotCubes (off : Nat) (v : Word) : (s.cwSet off v).slotCubes = s.slotCubes := rfl
@[simp] theorem State.cwSet_podParts (off : Nat) (v : Word) : (s.cwSet off v).podParts = s.podParts := rfl
@[simp] theorem State.cwSet_nonceMask (off : Nat) (v : Word) : (s.cwSet off v).nonceMask = s.nonceMask := rfl
@[simp] theorem State.cwSet_asks (off : Nat) (v : Word) : (s.cwSet off v).asks = s.asks := rfl
@[simp] theorem State.cwSet_podIn (off : Nat) (v : Word) : (s.cwSet off v).podIn = s.podIn := rfl
@[simp] theorem State.cwSet_hostIn (off : Nat) (v : Word) : (s.cwSet off v).hostIn = s.hostIn := rfl
@[simp] theorem State.cwSet_flash (off : Nat) (v : Word) : (s.cwSet off v).flash = s.flash := rfl
@[simp] theorem State.cwSet_running (off : Nat) (v : Word) : (s.cwSet off v).running = s.running := rfl
@[simp] theorem State.cwSet_cycle (off : Nat) (v : Word) : (s.cwSet off v).cycle = s.cycle := rfl
@[simp] theorem State.cwSet_scr4 (off : Nat) (v : Word) : (s.cwSet off v).scr4 = s.scr4 := rfl
@[simp] theorem State.cwSet_pod8 (off : Nat) (v : Word) : (s.cwSet off v).pod8 = s.pod8 := rfl
@[simp] theorem State.cwSet_cur (off : Nat) (v : Word) : (s.cwSet off v).cur = s.cur := rfl
@[simp] theorem State.cwSet_args (off : Nat) (v : Word) : (s.cwSet off v).args = s.args := rfl
@[simp] theorem State.cwSet_agenda (off : Nat) (v : Word) : (s.cwSet off v).agenda = s.agenda := rfl
@[simp] theorem State.cwSet_issueQ (off : Nat) (v : Word) : (s.cwSet off v).issueQ = s.issueQ := rfl
@[simp] theorem State.cwSet_fresh (off : Nat) (v : Word) : (s.cwSet off v).fresh = s.fresh := rfl

/-! ## addFlags -/

@[simp] theorem State.addFlags_mem (f : BitVec 5) : (s.addFlags f).mem = s.mem := rfl
@[simp] theorem State.addFlags_cores (f : BitVec 5) : (s.addFlags f).cores = s.cores := rfl
@[simp] theorem State.addFlags_quads (f : BitVec 5) : (s.addFlags f).quads = s.quads := rfl
@[simp] theorem State.addFlags_skims (f : BitVec 5) : (s.addFlags f).skims = s.skims := rfl
@[simp] theorem State.addFlags_trapvec (f : BitVec 5) : (s.addFlags f).trapvec = s.trapvec := rfl
@[simp] theorem State.addFlags_wdog (f : BitVec 5) : (s.addFlags f).wdog = s.wdog := rfl
@[simp] theorem State.addFlags_cw (f : BitVec 5) : (s.addFlags f).cw = s.cw := rfl
@[simp] theorem State.addFlags_gran (f : BitVec 5) : (s.addFlags f).gran = s.gran := rfl
@[simp] theorem State.addFlags_resv (f : BitVec 5) : (s.addFlags f).resv = s.resv := rfl
@[simp] theorem State.addFlags_poison (f : BitVec 5) : (s.addFlags f).poison = s.poison := rfl
@[simp] theorem State.addFlags_remap (f : BitVec 5) : (s.addFlags f).remap = s.remap := rfl
@[simp] theorem State.addFlags_regionCnt (f : BitVec 5) : (s.addFlags f).regionCnt = s.regionCnt := rfl
@[simp] theorem State.addFlags_chanMap (f : BitVec 5) : (s.addFlags f).chanMap = s.chanMap := rfl
@[simp] theorem State.addFlags_evict (f : BitVec 5) : (s.addFlags f).evict = s.evict := rfl
@[simp] theorem State.addFlags_images (f : BitVec 5) : (s.addFlags f).images = s.images := rfl
@[simp] theorem State.addFlags_l2walk (f : BitVec 5) : (s.addFlags f).l2walk = s.l2walk := rfl
@[simp] theorem State.addFlags_net (f : BitVec 5) : (s.addFlags f).net = s.net := rfl
@[simp] theorem State.addFlags_nextMsg (f : BitVec 5) : (s.addFlags f).nextMsg = s.nextMsg := rfl
@[simp] theorem State.addFlags_engLast (f : BitVec 5) : (s.addFlags f).engLast = s.engLast := rfl
@[simp] theorem State.addFlags_countAt (f : BitVec 5) : (s.addFlags f).countAt = s.countAt := rfl
@[simp] theorem State.addFlags_wideNets (f : BitVec 5) : (s.addFlags f).wideNets = s.wideNets := rfl
@[simp] theorem State.addFlags_hostQ (f : BitVec 5) : (s.addFlags f).hostQ = s.hostQ := rfl
@[simp] theorem State.addFlags_tier (f : BitVec 5) : (s.addFlags f).tier = s.tier := rfl
@[simp] theorem State.addFlags_rings (f : BitVec 5) : (s.addFlags f).rings = s.rings := rfl
@[simp] theorem State.addFlags_ringWrites (f : BitVec 5) : (s.addFlags f).ringWrites = s.ringWrites := rfl
@[simp] theorem State.addFlags_deliveries (f : BitVec 5) : (s.addFlags f).deliveries = s.deliveries := rfl
@[simp] theorem State.addFlags_xfers (f : BitVec 5) : (s.addFlags f).xfers = s.xfers := rfl
@[simp] theorem State.addFlags_xseq (f : BitVec 5) : (s.addFlags f).xseq = s.xseq := rfl
@[simp] theorem State.addFlags_groups (f : BitVec 5) : (s.addFlags f).groups = s.groups := rfl
@[simp] theorem State.addFlags_groupLaunch (f : BitVec 5) : (s.addFlags f).groupLaunch = s.groupLaunch := rfl
@[simp] theorem State.addFlags_collIn (f : BitVec 5) : (s.addFlags f).collIn = s.collIn := rfl
@[simp] theorem State.addFlags_collSt (f : BitVec 5) : (s.addFlags f).collSt = s.collSt := rfl
@[simp] theorem State.addFlags_dieTimes (f : BitVec 5) : (s.addFlags f).dieTimes = s.dieTimes := rfl
@[simp] theorem State.addFlags_pkgTimes (f : BitVec 5) : (s.addFlags f).pkgTimes = s.pkgTimes := rfl
@[simp] theorem State.addFlags_dispatch (f : BitVec 5) : (s.addFlags f).dispatch = s.dispatch := rfl
@[simp] theorem State.addFlags_spawned (f : BitVec 5) : (s.addFlags f).spawned = s.spawned := rfl
@[simp] theorem State.addFlags_away (f : BitVec 5) : (s.addFlags f).away = s.away := rfl
@[simp] theorem State.addFlags_coreImgs (f : BitVec 5) : (s.addFlags f).coreImgs = s.coreImgs := rfl
@[simp] theorem State.addFlags_faultQ (f : BitVec 5) : (s.addFlags f).faultQ = s.faultQ := rfl
@[simp] theorem State.addFlags_launches (f : BitVec 5) : (s.addFlags f).launches = s.launches := rfl
@[simp] theorem State.addFlags_workQ (f : BitVec 5) : (s.addFlags f).workQ = s.workQ := rfl
@[simp] theorem State.addFlags_devQ (f : BitVec 5) : (s.addFlags f).devQ = s.devQ := rfl
@[simp] theorem State.addFlags_ovf (f : BitVec 5) : (s.addFlags f).ovf = s.ovf := rfl
@[simp] theorem State.addFlags_waiting (f : BitVec 5) : (s.addFlags f).waiting = s.waiting := rfl
@[simp] theorem State.addFlags_completions (f : BitVec 5) : (s.addFlags f).completions = s.completions := rfl
@[simp] theorem State.addFlags_rrNext (f : BitVec 5) : (s.addFlags f).rrNext = s.rrNext := rfl
@[simp] theorem State.addFlags_lastArb (f : BitVec 5) : (s.addFlags f).lastArb = s.lastArb := rfl
@[simp] theorem State.addFlags_outputs (f : BitVec 5) : (s.addFlags f).outputs = s.outputs := rfl
@[simp] theorem State.addFlags_pci (f : BitVec 5) : (s.addFlags f).pci = s.pci := rfl
@[simp] theorem State.addFlags_groupSlot (f : BitVec 5) : (s.addFlags f).groupSlot = s.groupSlot := rfl
@[simp] theorem State.addFlags_ports (f : BitVec 5) : (s.addFlags f).ports = s.ports := rfl
@[simp] theorem State.addFlags_bonds (f : BitVec 5) : (s.addFlags f).bonds = s.bonds := rfl
@[simp] theorem State.addFlags_podOut (f : BitVec 5) : (s.addFlags f).podOut = s.podOut := rfl
@[simp] theorem State.addFlags_podSent (f : BitVec 5) : (s.addFlags f).podSent = s.podSent := rfl
@[simp] theorem State.addFlags_sendQ (f : BitVec 5) : (s.addFlags f).sendQ = s.sendQ := rfl
@[simp] theorem State.addFlags_chain (f : BitVec 5) : (s.addFlags f).chain = s.chain := rfl
@[simp] theorem State.addFlags_chainNext (f : BitVec 5) : (s.addFlags f).chainNext = s.chainNext := rfl
@[simp] theorem State.addFlags_chainSlot (f : BitVec 5) : (s.addFlags f).chainSlot = s.chainSlot := rfl
@[simp] theorem State.addFlags_bring (f : BitVec 5) : (s.addFlags f).bring = s.bring := rfl
@[simp] theorem State.addFlags_ckpt (f : BitVec 5) : (s.addFlags f).ckpt = s.ckpt := rfl
@[simp] theorem State.addFlags_debt (f : BitVec 5) : (s.addFlags f).debt = s.debt := rfl
@[simp] theorem State.addFlags_swap (f : BitVec 5) : (s.addFlags f).swap = s.swap := rfl
@[simp] theorem State.addFlags_adaptive (f : BitVec 5) : (s.addFlags f).adaptive = s.adaptive := rfl
@[simp] theorem State.addFlags_topo (f : BitVec 5) : (s.addFlags f).topo = s.topo := rfl
@[simp] theorem State.addFlags_nonce (f : BitVec 5) : (s.addFlags f).nonce = s.nonce := rfl
@[simp] theorem State.addFlags_places (f : BitVec 5) : (s.addFlags f).places = s.places := rfl
@[simp] theorem State.addFlags_netMarks (f : BitVec 5) : (s.addFlags f).netMarks = s.netMarks := rfl
@[simp] theorem State.addFlags_gives (f : BitVec 5) : (s.addFlags f).gives = s.gives := rfl
@[simp] theorem State.addFlags_slotCubes (f : BitVec 5) : (s.addFlags f).slotCubes = s.slotCubes := rfl
@[simp] theorem State.addFlags_podParts (f : BitVec 5) : (s.addFlags f).podParts = s.podParts := rfl
@[simp] theorem State.addFlags_nonceMask (f : BitVec 5) : (s.addFlags f).nonceMask = s.nonceMask := rfl
@[simp] theorem State.addFlags_asks (f : BitVec 5) : (s.addFlags f).asks = s.asks := rfl
@[simp] theorem State.addFlags_podIn (f : BitVec 5) : (s.addFlags f).podIn = s.podIn := rfl
@[simp] theorem State.addFlags_hostIn (f : BitVec 5) : (s.addFlags f).hostIn = s.hostIn := rfl
@[simp] theorem State.addFlags_flash (f : BitVec 5) : (s.addFlags f).flash = s.flash := rfl
@[simp] theorem State.addFlags_running (f : BitVec 5) : (s.addFlags f).running = s.running := rfl
@[simp] theorem State.addFlags_cycle (f : BitVec 5) : (s.addFlags f).cycle = s.cycle := rfl
@[simp] theorem State.addFlags_scr4 (f : BitVec 5) : (s.addFlags f).scr4 = s.scr4 := rfl
@[simp] theorem State.addFlags_pod8 (f : BitVec 5) : (s.addFlags f).pod8 = s.pod8 := rfl
@[simp] theorem State.addFlags_args (f : BitVec 5) : (s.addFlags f).args = s.args := rfl
@[simp] theorem State.addFlags_agenda (f : BitVec 5) : (s.addFlags f).agenda = s.agenda := rfl
@[simp] theorem State.addFlags_issueQ (f : BitVec 5) : (s.addFlags f).issueQ = s.issueQ := rfl
@[simp] theorem State.addFlags_fresh (f : BitVec 5) : (s.addFlags f).fresh = s.fresh := rfl

/-! ## jump -/

@[simp] theorem State.jump_mem (a : Word) : (s.jump a).mem = s.mem := rfl
@[simp] theorem State.jump_cores (a : Word) : (s.jump a).cores = s.cores := rfl
@[simp] theorem State.jump_quads (a : Word) : (s.jump a).quads = s.quads := rfl
@[simp] theorem State.jump_skims (a : Word) : (s.jump a).skims = s.skims := rfl
@[simp] theorem State.jump_trapvec (a : Word) : (s.jump a).trapvec = s.trapvec := rfl
@[simp] theorem State.jump_wdog (a : Word) : (s.jump a).wdog = s.wdog := rfl
@[simp] theorem State.jump_cw (a : Word) : (s.jump a).cw = s.cw := rfl
@[simp] theorem State.jump_gran (a : Word) : (s.jump a).gran = s.gran := rfl
@[simp] theorem State.jump_resv (a : Word) : (s.jump a).resv = s.resv := rfl
@[simp] theorem State.jump_poison (a : Word) : (s.jump a).poison = s.poison := rfl
@[simp] theorem State.jump_remap (a : Word) : (s.jump a).remap = s.remap := rfl
@[simp] theorem State.jump_regionCnt (a : Word) : (s.jump a).regionCnt = s.regionCnt := rfl
@[simp] theorem State.jump_chanMap (a : Word) : (s.jump a).chanMap = s.chanMap := rfl
@[simp] theorem State.jump_evict (a : Word) : (s.jump a).evict = s.evict := rfl
@[simp] theorem State.jump_images (a : Word) : (s.jump a).images = s.images := rfl
@[simp] theorem State.jump_l2walk (a : Word) : (s.jump a).l2walk = s.l2walk := rfl
@[simp] theorem State.jump_net (a : Word) : (s.jump a).net = s.net := rfl
@[simp] theorem State.jump_nextMsg (a : Word) : (s.jump a).nextMsg = s.nextMsg := rfl
@[simp] theorem State.jump_engLast (a : Word) : (s.jump a).engLast = s.engLast := rfl
@[simp] theorem State.jump_countAt (a : Word) : (s.jump a).countAt = s.countAt := rfl
@[simp] theorem State.jump_wideNets (a : Word) : (s.jump a).wideNets = s.wideNets := rfl
@[simp] theorem State.jump_hostQ (a : Word) : (s.jump a).hostQ = s.hostQ := rfl
@[simp] theorem State.jump_tier (a : Word) : (s.jump a).tier = s.tier := rfl
@[simp] theorem State.jump_rings (a : Word) : (s.jump a).rings = s.rings := rfl
@[simp] theorem State.jump_ringWrites (a : Word) : (s.jump a).ringWrites = s.ringWrites := rfl
@[simp] theorem State.jump_deliveries (a : Word) : (s.jump a).deliveries = s.deliveries := rfl
@[simp] theorem State.jump_xfers (a : Word) : (s.jump a).xfers = s.xfers := rfl
@[simp] theorem State.jump_xseq (a : Word) : (s.jump a).xseq = s.xseq := rfl
@[simp] theorem State.jump_groups (a : Word) : (s.jump a).groups = s.groups := rfl
@[simp] theorem State.jump_groupLaunch (a : Word) : (s.jump a).groupLaunch = s.groupLaunch := rfl
@[simp] theorem State.jump_collIn (a : Word) : (s.jump a).collIn = s.collIn := rfl
@[simp] theorem State.jump_collSt (a : Word) : (s.jump a).collSt = s.collSt := rfl
@[simp] theorem State.jump_dieTimes (a : Word) : (s.jump a).dieTimes = s.dieTimes := rfl
@[simp] theorem State.jump_pkgTimes (a : Word) : (s.jump a).pkgTimes = s.pkgTimes := rfl
@[simp] theorem State.jump_dispatch (a : Word) : (s.jump a).dispatch = s.dispatch := rfl
@[simp] theorem State.jump_spawned (a : Word) : (s.jump a).spawned = s.spawned := rfl
@[simp] theorem State.jump_away (a : Word) : (s.jump a).away = s.away := rfl
@[simp] theorem State.jump_coreImgs (a : Word) : (s.jump a).coreImgs = s.coreImgs := rfl
@[simp] theorem State.jump_faultQ (a : Word) : (s.jump a).faultQ = s.faultQ := rfl
@[simp] theorem State.jump_launches (a : Word) : (s.jump a).launches = s.launches := rfl
@[simp] theorem State.jump_workQ (a : Word) : (s.jump a).workQ = s.workQ := rfl
@[simp] theorem State.jump_devQ (a : Word) : (s.jump a).devQ = s.devQ := rfl
@[simp] theorem State.jump_ovf (a : Word) : (s.jump a).ovf = s.ovf := rfl
@[simp] theorem State.jump_waiting (a : Word) : (s.jump a).waiting = s.waiting := rfl
@[simp] theorem State.jump_completions (a : Word) : (s.jump a).completions = s.completions := rfl
@[simp] theorem State.jump_rrNext (a : Word) : (s.jump a).rrNext = s.rrNext := rfl
@[simp] theorem State.jump_lastArb (a : Word) : (s.jump a).lastArb = s.lastArb := rfl
@[simp] theorem State.jump_outputs (a : Word) : (s.jump a).outputs = s.outputs := rfl
@[simp] theorem State.jump_pci (a : Word) : (s.jump a).pci = s.pci := rfl
@[simp] theorem State.jump_groupSlot (a : Word) : (s.jump a).groupSlot = s.groupSlot := rfl
@[simp] theorem State.jump_ports (a : Word) : (s.jump a).ports = s.ports := rfl
@[simp] theorem State.jump_bonds (a : Word) : (s.jump a).bonds = s.bonds := rfl
@[simp] theorem State.jump_podOut (a : Word) : (s.jump a).podOut = s.podOut := rfl
@[simp] theorem State.jump_podSent (a : Word) : (s.jump a).podSent = s.podSent := rfl
@[simp] theorem State.jump_sendQ (a : Word) : (s.jump a).sendQ = s.sendQ := rfl
@[simp] theorem State.jump_chain (a : Word) : (s.jump a).chain = s.chain := rfl
@[simp] theorem State.jump_chainNext (a : Word) : (s.jump a).chainNext = s.chainNext := rfl
@[simp] theorem State.jump_chainSlot (a : Word) : (s.jump a).chainSlot = s.chainSlot := rfl
@[simp] theorem State.jump_bring (a : Word) : (s.jump a).bring = s.bring := rfl
@[simp] theorem State.jump_ckpt (a : Word) : (s.jump a).ckpt = s.ckpt := rfl
@[simp] theorem State.jump_debt (a : Word) : (s.jump a).debt = s.debt := rfl
@[simp] theorem State.jump_swap (a : Word) : (s.jump a).swap = s.swap := rfl
@[simp] theorem State.jump_adaptive (a : Word) : (s.jump a).adaptive = s.adaptive := rfl
@[simp] theorem State.jump_topo (a : Word) : (s.jump a).topo = s.topo := rfl
@[simp] theorem State.jump_nonce (a : Word) : (s.jump a).nonce = s.nonce := rfl
@[simp] theorem State.jump_places (a : Word) : (s.jump a).places = s.places := rfl
@[simp] theorem State.jump_netMarks (a : Word) : (s.jump a).netMarks = s.netMarks := rfl
@[simp] theorem State.jump_gives (a : Word) : (s.jump a).gives = s.gives := rfl
@[simp] theorem State.jump_slotCubes (a : Word) : (s.jump a).slotCubes = s.slotCubes := rfl
@[simp] theorem State.jump_podParts (a : Word) : (s.jump a).podParts = s.podParts := rfl
@[simp] theorem State.jump_nonceMask (a : Word) : (s.jump a).nonceMask = s.nonceMask := rfl
@[simp] theorem State.jump_asks (a : Word) : (s.jump a).asks = s.asks := rfl
@[simp] theorem State.jump_podIn (a : Word) : (s.jump a).podIn = s.podIn := rfl
@[simp] theorem State.jump_hostIn (a : Word) : (s.jump a).hostIn = s.hostIn := rfl
@[simp] theorem State.jump_flash (a : Word) : (s.jump a).flash = s.flash := rfl
@[simp] theorem State.jump_running (a : Word) : (s.jump a).running = s.running := rfl
@[simp] theorem State.jump_cycle (a : Word) : (s.jump a).cycle = s.cycle := rfl
@[simp] theorem State.jump_scr4 (a : Word) : (s.jump a).scr4 = s.scr4 := rfl
@[simp] theorem State.jump_pod8 (a : Word) : (s.jump a).pod8 = s.pod8 := rfl
@[simp] theorem State.jump_args (a : Word) : (s.jump a).args = s.args := rfl
@[simp] theorem State.jump_agenda (a : Word) : (s.jump a).agenda = s.agenda := rfl
@[simp] theorem State.jump_issueQ (a : Word) : (s.jump a).issueQ = s.issueQ := rfl
@[simp] theorem State.jump_fresh (a : Word) : (s.jump a).fresh = s.fresh := rfl

/-! ## nextFree -/

@[simp] theorem State.nextFree_mem : s.nextFree.2.mem = s.mem := rfl
@[simp] theorem State.nextFree_cores : s.nextFree.2.cores = s.cores := rfl
@[simp] theorem State.nextFree_quads : s.nextFree.2.quads = s.quads := rfl
@[simp] theorem State.nextFree_skims : s.nextFree.2.skims = s.skims := rfl
@[simp] theorem State.nextFree_trapvec : s.nextFree.2.trapvec = s.trapvec := rfl
@[simp] theorem State.nextFree_wdog : s.nextFree.2.wdog = s.wdog := rfl
@[simp] theorem State.nextFree_cw : s.nextFree.2.cw = s.cw := rfl
@[simp] theorem State.nextFree_gran : s.nextFree.2.gran = s.gran := rfl
@[simp] theorem State.nextFree_resv : s.nextFree.2.resv = s.resv := rfl
@[simp] theorem State.nextFree_poison : s.nextFree.2.poison = s.poison := rfl
@[simp] theorem State.nextFree_remap : s.nextFree.2.remap = s.remap := rfl
@[simp] theorem State.nextFree_regionCnt : s.nextFree.2.regionCnt = s.regionCnt := rfl
@[simp] theorem State.nextFree_chanMap : s.nextFree.2.chanMap = s.chanMap := rfl
@[simp] theorem State.nextFree_evict : s.nextFree.2.evict = s.evict := rfl
@[simp] theorem State.nextFree_images : s.nextFree.2.images = s.images := rfl
@[simp] theorem State.nextFree_l2walk : s.nextFree.2.l2walk = s.l2walk := rfl
@[simp] theorem State.nextFree_net : s.nextFree.2.net = s.net := rfl
@[simp] theorem State.nextFree_nextMsg : s.nextFree.2.nextMsg = s.nextMsg := rfl
@[simp] theorem State.nextFree_engLast : s.nextFree.2.engLast = s.engLast := rfl
@[simp] theorem State.nextFree_countAt : s.nextFree.2.countAt = s.countAt := rfl
@[simp] theorem State.nextFree_wideNets : s.nextFree.2.wideNets = s.wideNets := rfl
@[simp] theorem State.nextFree_hostQ : s.nextFree.2.hostQ = s.hostQ := rfl
@[simp] theorem State.nextFree_tier : s.nextFree.2.tier = s.tier := rfl
@[simp] theorem State.nextFree_rings : s.nextFree.2.rings = s.rings := rfl
@[simp] theorem State.nextFree_ringWrites : s.nextFree.2.ringWrites = s.ringWrites := rfl
@[simp] theorem State.nextFree_deliveries : s.nextFree.2.deliveries = s.deliveries := rfl
@[simp] theorem State.nextFree_xfers : s.nextFree.2.xfers = s.xfers := rfl
@[simp] theorem State.nextFree_xseq : s.nextFree.2.xseq = s.xseq := rfl
@[simp] theorem State.nextFree_groups : s.nextFree.2.groups = s.groups := rfl
@[simp] theorem State.nextFree_groupLaunch : s.nextFree.2.groupLaunch = s.groupLaunch := rfl
@[simp] theorem State.nextFree_collIn : s.nextFree.2.collIn = s.collIn := rfl
@[simp] theorem State.nextFree_collSt : s.nextFree.2.collSt = s.collSt := rfl
@[simp] theorem State.nextFree_dieTimes : s.nextFree.2.dieTimes = s.dieTimes := rfl
@[simp] theorem State.nextFree_pkgTimes : s.nextFree.2.pkgTimes = s.pkgTimes := rfl
@[simp] theorem State.nextFree_dispatch : s.nextFree.2.dispatch = s.dispatch := rfl
@[simp] theorem State.nextFree_spawned : s.nextFree.2.spawned = s.spawned := rfl
@[simp] theorem State.nextFree_away : s.nextFree.2.away = s.away := rfl
@[simp] theorem State.nextFree_coreImgs : s.nextFree.2.coreImgs = s.coreImgs := rfl
@[simp] theorem State.nextFree_faultQ : s.nextFree.2.faultQ = s.faultQ := rfl
@[simp] theorem State.nextFree_launches : s.nextFree.2.launches = s.launches := rfl
@[simp] theorem State.nextFree_workQ : s.nextFree.2.workQ = s.workQ := rfl
@[simp] theorem State.nextFree_devQ : s.nextFree.2.devQ = s.devQ := rfl
@[simp] theorem State.nextFree_ovf : s.nextFree.2.ovf = s.ovf := rfl
@[simp] theorem State.nextFree_waiting : s.nextFree.2.waiting = s.waiting := rfl
@[simp] theorem State.nextFree_completions : s.nextFree.2.completions = s.completions := rfl
@[simp] theorem State.nextFree_rrNext : s.nextFree.2.rrNext = s.rrNext := rfl
@[simp] theorem State.nextFree_lastArb : s.nextFree.2.lastArb = s.lastArb := rfl
@[simp] theorem State.nextFree_outputs : s.nextFree.2.outputs = s.outputs := rfl
@[simp] theorem State.nextFree_pci : s.nextFree.2.pci = s.pci := rfl
@[simp] theorem State.nextFree_groupSlot : s.nextFree.2.groupSlot = s.groupSlot := rfl
@[simp] theorem State.nextFree_ports : s.nextFree.2.ports = s.ports := rfl
@[simp] theorem State.nextFree_bonds : s.nextFree.2.bonds = s.bonds := rfl
@[simp] theorem State.nextFree_podOut : s.nextFree.2.podOut = s.podOut := rfl
@[simp] theorem State.nextFree_podSent : s.nextFree.2.podSent = s.podSent := rfl
@[simp] theorem State.nextFree_sendQ : s.nextFree.2.sendQ = s.sendQ := rfl
@[simp] theorem State.nextFree_chain : s.nextFree.2.chain = s.chain := rfl
@[simp] theorem State.nextFree_chainNext : s.nextFree.2.chainNext = s.chainNext := rfl
@[simp] theorem State.nextFree_chainSlot : s.nextFree.2.chainSlot = s.chainSlot := rfl
@[simp] theorem State.nextFree_bring : s.nextFree.2.bring = s.bring := rfl
@[simp] theorem State.nextFree_ckpt : s.nextFree.2.ckpt = s.ckpt := rfl
@[simp] theorem State.nextFree_debt : s.nextFree.2.debt = s.debt := rfl
@[simp] theorem State.nextFree_swap : s.nextFree.2.swap = s.swap := rfl
@[simp] theorem State.nextFree_adaptive : s.nextFree.2.adaptive = s.adaptive := rfl
@[simp] theorem State.nextFree_topo : s.nextFree.2.topo = s.topo := rfl
@[simp] theorem State.nextFree_nonce : s.nextFree.2.nonce = s.nonce := rfl
@[simp] theorem State.nextFree_places : s.nextFree.2.places = s.places := rfl
@[simp] theorem State.nextFree_netMarks : s.nextFree.2.netMarks = s.netMarks := rfl
@[simp] theorem State.nextFree_gives : s.nextFree.2.gives = s.gives := rfl
@[simp] theorem State.nextFree_slotCubes : s.nextFree.2.slotCubes = s.slotCubes := rfl
@[simp] theorem State.nextFree_podParts : s.nextFree.2.podParts = s.podParts := rfl
@[simp] theorem State.nextFree_nonceMask : s.nextFree.2.nonceMask = s.nonceMask := rfl
@[simp] theorem State.nextFree_asks : s.nextFree.2.asks = s.asks := rfl
@[simp] theorem State.nextFree_podIn : s.nextFree.2.podIn = s.podIn := rfl
@[simp] theorem State.nextFree_hostIn : s.nextFree.2.hostIn = s.hostIn := rfl
@[simp] theorem State.nextFree_flash : s.nextFree.2.flash = s.flash := rfl
@[simp] theorem State.nextFree_running : s.nextFree.2.running = s.running := rfl
@[simp] theorem State.nextFree_cycle : s.nextFree.2.cycle = s.cycle := rfl
@[simp] theorem State.nextFree_scr4 : s.nextFree.2.scr4 = s.scr4 := rfl
@[simp] theorem State.nextFree_pod8 : s.nextFree.2.pod8 = s.pod8 := rfl
@[simp] theorem State.nextFree_cur : s.nextFree.2.cur = s.cur := rfl
@[simp] theorem State.nextFree_args : s.nextFree.2.args = s.args := rfl
@[simp] theorem State.nextFree_agenda : s.nextFree.2.agenda = s.agenda := rfl
@[simp] theorem State.nextFree_issueQ : s.nextFree.2.issueQ = s.issueQ := rfl

/-! ## Registers of a thread -/

variable (t : Thread)

@[simp] theorem Thread.setG_st (r : Nat) (v : Word) : (t.setG r v).st = t.st := rfl
@[simp] theorem Thread.setG_light (r : Nat) (v : Word) : (t.setG r v).light = t.light := rfl
@[simp] theorem Thread.setG_ctx (r : Nat) (v : Word) : (t.setG r v).ctx = t.ctx := rfl
@[simp] theorem Thread.setG_launch (r : Nat) (v : Word) : (t.setG r v).launch = t.launch := rfl
@[simp] theorem Thread.setG_role (r : Nat) (v : Word) : (t.setG r v).role = t.role := rfl
@[simp] theorem Thread.setG_pc (r : Nat) (v : Word) : (t.setG r v).pc = t.pc := rfl
@[simp] theorem Thread.setG_from_ (r : Nat) (v : Word) : (t.setG r v).from_ = t.from_ := rfl
@[simp] theorem Thread.setG_pw (r : Nat) (v : Word) : (t.setG r v).pw = t.pw := rfl
@[simp] theorem Thread.setG_k (r : Nat) (v : Word) : (t.setG r v).k = t.k := rfl
@[simp] theorem Thread.setG_ctl (r : Nat) (v : Word) : (t.setG r v).ctl = t.ctl := rfl
@[simp] theorem Thread.setG_holds (r : Nat) (v : Word) : (t.setG r v).holds = t.holds := rfl
@[simp] theorem Thread.setG_nextWid (r : Nat) (v : Word) : (t.setG r v).nextWid = t.nextWid := rfl
@[simp] theorem Thread.setG_pend (r : Nat) (v : Word) : (t.setG r v).pend = t.pend := rfl
@[simp] theorem Thread.setG_heldFlag (r : Nat) (v : Word) : (t.setG r v).heldFlag = t.heldFlag := rfl
@[simp] theorem Thread.setG_heldXfer (r : Nat) (v : Word) : (t.setG r v).heldXfer = t.heldXfer := rfl
@[simp] theorem Thread.setG_heldDog (r : Nat) (v : Word) : (t.setG r v).heldDog = t.heldDog := rfl
@[simp] theorem Thread.setG_heldFlagPc (r : Nat) (v : Word) : (t.setG r v).heldFlagPc = t.heldFlagPc := rfl
@[simp] theorem Thread.setG_heldFlagSecond (r : Nat) (v : Word) : (t.setG r v).heldFlagSecond = t.heldFlagSecond := rfl
@[simp] theorem Thread.setG_fault (r : Nat) (v : Word) : (t.setG r v).fault = t.fault := rfl
@[simp] theorem Thread.setG_done (r : Nat) (v : Word) : (t.setG r v).done = t.done := rfl
@[simp] theorem Thread.setG_ord (r : Nat) (v : Word) : (t.setG r v).ord = t.ord := rfl
@[simp] theorem Thread.setG_ended (r : Nat) (v : Word) : (t.setG r v).ended = t.ended := rfl
@[simp] theorem Thread.setG_serves (r : Nat) (v : Word) : (t.setG r v).serves = t.serves := rfl
@[simp] theorem Thread.setG_lastIssue (r : Nat) (v : Word) : (t.setG r v).lastIssue = t.lastIssue := rfl
@[simp] theorem Thread.setG_dog (r : Nat) (v : Word) : (t.setG r v).dog = t.dog := rfl
@[simp] theorem Thread.setG_dogPer (r : Nat) (v : Word) : (t.setG r v).dogPer = t.dogPer := rfl
@[simp] theorem Thread.setG_mops (r : Nat) (v : Word) : (t.setG r v).mops = t.mops := rfl
@[simp] theorem Thread.setG_kill (r : Nat) (v : Word) : (t.setG r v).kill = t.kill := rfl
@[simp] theorem Thread.setG_feed (r : Nat) (v : Word) : (t.setG r v).feed = t.feed := rfl
@[simp] theorem Thread.setG_homeAns (r : Nat) (v : Word) : (t.setG r v).homeAns = t.homeAns := rfl
@[simp] theorem Thread.setG_podAns (r : Nat) (v : Word) : (t.setG r v).podAns = t.podAns := rfl
@[simp] theorem Thread.setG_latch (r : Nat) (v : Word) : (t.setG r v).latch = t.latch := rfl
@[simp] theorem Thread.setG_restart (r : Nat) (v : Word) : (t.setG r v).restart = t.restart := rfl
@[simp] theorem Thread.setG_heldFlagDepth (r : Nat) (v : Word) : (t.setG r v).heldFlagDepth = t.heldFlagDepth := rfl
@[simp] theorem Thread.setG_rt (r : Nat) (v : Word) : (t.setG r v).rt = t.rt := rfl
@[simp] theorem Thread.setG_leave (r : Nat) (v : Word) : (t.setG r v).leave = t.leave := rfl
@[simp] theorem Thread.setG_savedMode (r : Nat) (v : Word) : (t.setG r v).savedMode = t.savedMode := rfl
@[simp] theorem Thread.setG_counted (r : Nat) (v : Word) : (t.setG r v).counted = t.counted := rfl
@[simp] theorem Thread.setG_mid (r : Nat) (v : Word) : (t.setG r v).mid = t.mid := rfl
@[simp] theorem Thread.setG_lateErr (r : Nat) (v : Word) : (t.setG r v).lateErr = t.lateErr := rfl
@[simp] theorem Thread.setG_taken (r : Nat) (v : Word) : (t.setG r v).taken = t.taken := rfl

end Sys2Proof.Machine
end

