-- ==== Sys2Proof/Laws/Memory.lean ====
section
/-!
SUPPORT. The canonical form of memory: what it is, and that every operation on memory keeps it.
-/

namespace Sys2Proof.Machine

/-- The canonical form: keys strictly rise and no zero is listed. -/
theorem memWf_iff (m : List Host.Cell) : memWf m = true ↔ FMap.Sorted m ∧ ∀ c ∈ m, c.2 ≠ 0 := by
  induction m with
  | nil => simp [memWf, FMap.Sorted]
  | cons c m ih =>
    cases m with
    | nil => simp [memWf, FMap.Sorted]
    | cons d m =>
      simp only [memWf, Bool.and_eq_true, bne_iff_ne, decide_eq_true_eq, ih]
      constructor
      · rintro ⟨⟨hc, hcd⟩, hs, hz⟩
        refine ⟨List.pairwise_cons.mpr ⟨fun p hp => ?_, hs⟩, fun p hp => ?_⟩
        · rcases List.mem_cons.mp hp with rfl | e
          · exact hcd
          · exact hcd.trans ((List.pairwise_cons.mp hs).1 p e)
        · rcases List.mem_cons.mp hp with rfl | e
          · exact hc
          · exact hz p e
      · rintro ⟨hs, hz⟩
        have h := List.pairwise_cons.mp hs
        exact ⟨⟨hz c (by simp), h.1 d (by simp)⟩, h.2, fun p hp => hz p (List.mem_cons_of_mem _ hp)⟩

theorem memWf_del {m : List Host.Cell} (h : memWf m = true) (k : Nat) : memWf (FMap.del k m) = true := by
  rw [memWf_iff] at *
  exact ⟨FMap.del_sorted h.1 k, fun c hc => h.2 c ((FMap.del_sublist k m).subset hc)⟩

theorem memWf_set {m : List Host.Cell} (h : memWf m = true) (k : Nat) {b : Byte} (hb : b ≠ 0) : memWf (FMap.set m k b) = true := by
  rw [memWf_iff] at *
  refine ⟨FMap.set_sorted h.1 k b, fun c hc => ?_⟩
  rcases FMap.mem_set hc with rfl | e
  · exact hb
  · exact h.2 c e

theorem memWf_filter {m : List Host.Cell} (h : memWf m = true) (p : Host.Cell → Bool) : memWf (m.filter p) = true := by
  rw [memWf_iff] at *
  exact ⟨List.Pairwise.filter p h.1, fun c hc => h.2 c (List.mem_filter.mp hc).1⟩

/-! ## Operations keep it -/

/-- Moving cells that are not zero to other keys keeps the form. -/
theorem memWf_foldl_set {m : List Host.Cell} (h : memWf m = true) (f : Nat → Nat) (l : List Host.Cell) (hl : ∀ c ∈ l, c.2 ≠ 0) :
    memWf (l.foldl (fun (m : List Host.Cell) c => FMap.set m (f c.1) c.2) m) = true := by
  induction l generalizing m with
  | nil => exact h
  | cons c l ih => exact ih (memWf_set h _ (hl c (by simp))) fun d hd => hl d (by simp [hd])

theorem setByte_memOk {s : State} (h : MemOk s) (k : Nat) (b : Byte) : MemOk (s.setByte k b) := by
  unfold MemOk State.setByte at *
  by_cases hb : b = 0
  · rw [if_pos hb]; exact memWf_del h k
  · rw [if_neg hb]; exact memWf_set h k hb

theorem writeN_memOk {s : State} (h : MemOk s) (k v n : Nat) : MemOk (s.writeN k v n) := by
  induction n generalizing s k v with
  | zero => exact h
  | succ n ih => exact ih (setByte_memOk h _ _) _ _

theorem writeMasked_memOk {s : State} (h : MemOk s) (k : Nat) (mask : BitVec 64) (v n : Nat) : MemOk (s.writeMasked k mask v n) := by
  induction n with
  | zero => exact h
  | succ n ih =>
    simp only [State.writeMasked]
    split
    · exact setByte_memOk ih _ _
    · exact ih

theorem putBytes_memOk {s : State} (h : MemOk s) (k : Nat) (bs : List Byte) : MemOk (s.putBytes k bs) := by
  induction bs generalizing s k with
  | nil => exact h
  | cons b bs ih => exact ih (setByte_memOk h _ _) _

theorem memOk_of_mem_eq {s t : State} (h : MemOk s) (e : t.mem = s.mem) : MemOk t := by
  unfold MemOk at *; rw [e]; exact h

/-! ## What stands around a write -/

/-- A fold whose every step leaves memory alone leaves memory alone. -/
theorem foldl_mem {α : Type} (f : State → α → State) (h : ∀ s a, (f s a).mem = s.mem) (l : List α) (s : State) :
    (l.foldl f s).mem = s.mem := by
  induction l generalizing s with
  | nil => rfl
  | cons a l ih => rw [List.foldl_cons, ih, h]

/-- A fold whose every step keeps the form keeps it. -/
theorem foldl_memOk {α : Type} (f : State → α → State) (h : ∀ s a, MemOk s → MemOk (f s a)) (l : List α) {s : State}
    (hs : MemOk s) : MemOk (l.foldl f s) := by
  induction l generalizing s with
  | nil => exact hs
  | cons a l ih => exact ih (h s a hs)

@[simp] theorem State.modQueue_mem (s : State) (c k : Nat) (f : Queue → Queue) : (s.modQueue c k f).mem = s.mem := rfl
@[simp] theorem State.openEnd_mem (s : State) (e : Nat × Nat) : (s.openEnd e).mem = s.mem := rfl

theorem foldl_openEnd_mem {α : Type} (p : State → α → Prop) [∀ s a, Decidable (p s a)] (e : α → Nat × Nat) (l : List α) (s : State) :
    (l.foldl (fun s a => if p s a then s.openEnd (e a) else s) s).mem = s.mem :=
  foldl_mem _ (fun s a => by split <;> simp) l s

theorem foldl_openEnd_all_mem (l : List (Nat × Nat)) (s : State) : (l.foldl State.openEnd s).mem = s.mem :=
  foldl_mem _ (fun s e => State.openEnd_mem s e) l s

@[simp] theorem State.settle_mem (s : State) (c id : Nat) : (s.settle c id).mem = s.mem := by
  unfold State.settle
  split
  · extract_lets ch s'
    have h : s'.mem = s.mem := foldl_openEnd_mem _ _ _ _
    split
    · rw [State.openEnd_mem, h]
    · exact h
  · extract_lets es
    split
    · exact foldl_openEnd_all_mem _ _
    · rfl

@[simp] theorem State.dropPairs_mem (s : State) (g : Nat) : (s.dropPairs g).mem = s.mem := by
  unfold State.dropPairs; extract_lets k; split <;> rfl

@[simp] theorem State.dropResv_mem (s : State) (c task : Nat) (wid : Option Nat) : (s.dropResv c task wid).mem = s.mem := by
  unfold State.dropResv
  exact foldl_mem _ (fun s p => by extract_lets hit; split <;> simp) _ _

@[simp] theorem State.unbind_mem (s : State) (c : Nat) (q : Word) : (s.unbind c q).mem = s.mem :=
  foldl_mem _ (fun s id => by split <;> simp) _ _

@[simp] theorem State.abortTask_mem (s : State) (c task : Nat) : (s.abortTask c task).mem = s.mem := by
  unfold State.abortTask
  extract_lets s0 unwind
  have h0 : s0.mem = s.mem := rfl
  have h1 : ∀ (s : State) slot t, (unwind s slot t).mem = s.mem := by
    intro s slot t
    simp only [unwind]
    split <;> simp
  split
  · simp [h1, h0]
  · simp only []
    split
    · simp [h1, h0]
    · refine (foldl_mem _ (fun s e => ?_) _ _).trans h0
      split <;> [split <;> simp [h1]; rfl]

@[simp] theorem State.abortReaders_mem (s : State) (line : Nat) (t : Option Nat) : (s.abortReaders line t).mem = s.mem := by
  unfold State.abortReaders
  exact foldl_mem _ (fun s p => foldl_mem _ (fun s e => by simp) _ _) _ _

/-- A write performed by an owner keeps the form. -/
theorem perform_memOk {s : State} (h : MemOk s) (key n : Nat) (mask : BitVec 64) (data : Nat) (t : Option Nat) :
    MemOk (s.perform key n mask data t) := by
  unfold State.perform
  refine memOk_of_mem_eq (writeMasked_memOk h key mask data n) ?_
  simp only [State.abortReaders_mem]
  exact foldl_mem _ (fun s i => by split <;> simp) _ _

@[simp] theorem State.countLine_mem (s : State) (key : Nat) : (s.countLine key).mem = s.mem := by
  unfold State.countLine; split <;> rfl

@[simp] theorem State.countWalk_mem (s : State) (va lvl t : Nat) : (s.countWalk va lvl t).mem = s.mem :=
  foldl_mem _ (fun s pa => by split <;> simp) _ _

@[simp] theorem State.areaUse_mem (s : State) (ctx va : Nat) : (s.areaUse ctx va).mem = s.mem := by
  unfold State.areaUse; split <;> simp

theorem areaWrite_memOk {s : State} (h : MemOk s) (key n v : Nat) : MemOk (s.areaWrite key n v) :=
  perform_memOk (memOk_of_mem_eq h (State.countLine_mem s key)) _ _ _ _ _

theorem putWords_memOk {s : State} (h : MemOk s) (ctx va : Nat) (ws : List Word) : MemOk (s.putWords ctx va ws) := by
  induction ws generalizing s va with
  | nil => exact h
  | cons w ws ih =>
    simp only [State.putWords]
    split
    · exact ih (areaWrite_memOk (memOk_of_mem_eq h (State.areaUse_mem s _ _)) _ _ _) _
    · exact ih h _

theorem takeFree_memOk {s t : State} (h : MemOk s) {ctx off e : Nat} (ht : s.takeFree ctx off = some (e, t)) : MemOk t := by
  simp only [State.takeFree] at ht
  repeat' split at ht
  all_goals simp_all
  obtain ⟨-, rfl⟩ := ht
  exact areaWrite_memOk (memOk_of_mem_eq h (by simp)) _ _ _

theorem giveFree_memOk {s : State} (h : MemOk s) (ctx off e : Nat) : MemOk (s.giveFree ctx off e) := by
  simp only [State.giveFree]
  split
  · split
    · exact h
    · exact areaWrite_memOk (areaWrite_memOk (memOk_of_mem_eq h (by simp)) _ _ _) _ _ _
  · exact h

@[simp] theorem State.setGranQ_mem (s : State) (g : Nat) (q : List GEntry) : (s.setGranQ g q).mem = s.mem := rfl

/-- A write by a unit keeps the form, whether it is performed or joins a queue. -/
theorem storeTo_memOk {s : State} (h : MemOk s) (key n : Nat) (mask : BitVec 64) (data : Nat) (t : Option Nat) :
    MemOk (s.storeTo key n mask data t) := by
  have hc : MemOk (s.countLine key) := memOk_of_mem_eq h (State.countLine_mem s key)
  generalize hs : s.countLine key = u at hc
  unfold State.storeTo
  rw [hs]
  simp only []
  split
  · exact perform_memOk hc _ _ _ _ _
  · exact foldl_memOk _ (fun s g h => memOk_of_mem_eq h (State.setGranQ_mem _ _ _)) _ (perform_memOk hc _ _ _ _ _)

/-- The commit of an ordered task keeps the form. -/
theorem commitTask_memOk {s : State} (h : MemOk s) (c i : Nat) : MemOk (s.commitTask c i) := by
  unfold State.commitTask
  refine memOk_of_mem_eq ?_ (State.setThrAt_mem _ _ _ _)
  refine foldl_memOk _ (fun s e hs => ?_) _ (memOk_of_mem_eq h (State.modCore_mem s _ _))
  split
  · exact hs
  · exact perform_memOk (memOk_of_mem_eq hs (State.countLine_mem s _)) _ _ _ _ _

end Sys2Proof.Machine
end

