-- ==== Sys2Proof/Laws/Ops.lean ====
section
/-!
SUPPORT. What the shared operations do, said once: cores and threads, the end of an instruction, and how a meaning can answer.
-/

namespace Sys2Proof.Machine

/-! ## Cores and threads -/

@[simp] theorem State.core_setCore_self (s : State) (c : Nat) (k : Core) : (s.setCore c k).core c = k := by
  simp [State.core, State.setCore]

theorem State.core_setCore_other {c d : Nat} (h : d ≠ c) (s : State) (k : Core) : (s.setCore c k).core d = s.core d := by
  simp [State.core, State.setCore, FMap.get_set_other h]

@[simp] theorem State.core_modCore_self (s : State) (c : Nat) (f : Core → Core) : (s.modCore c f).core c = f (s.core c) := by
  simp [State.modCore]

theorem State.core_modCore_other {c d : Nat} (h : d ≠ c) (s : State) (f : Core → Core) : (s.modCore c f).core d = s.core d := by
  simp [State.modCore, State.core_setCore_other h]

@[simp] theorem State.thrAt_setThrAt_self (s : State) (c i : Nat) (t : Thread) : (s.setThrAt c i t).thrAt c i = t := by
  simp [State.thrAt, State.setThrAt, Core.slot]

theorem State.thrAt_setThrAt_other {c i d j : Nat} (h : (d, j) ≠ (c, i)) (s : State) (t : Thread) :
    (s.setThrAt c i t).thrAt d j = s.thrAt d j := by
  by_cases hd : d = c
  · have hj : j ≠ i := fun e => h (by rw [hd, e])
    subst hd
    simp [State.thrAt, State.setThrAt, Core.slot, FMap.get_set_other hj]
  · simp [State.thrAt, State.setThrAt, State.core_modCore_other hd]

@[simp] theorem State.thr_setThr (s : State) (t : Thread) : (s.setThr t).thr = t := by
  simp [State.thr, State.setThr]

/-- Replacing a thread changes nothing of a core but its slots. -/
theorem State.core_setThrAt (s : State) (c i : Nat) (t : Thread) (d : Nat) :
    (s.setThrAt c i t).core d = { s.core d with slots := ((s.setThrAt c i t).core d).slots } := by
  by_cases hd : d = c
  · subst hd; simp [State.setThrAt]
  · simp [State.setThrAt, State.core_modCore_other hd]

@[simp] theorem Thread.gr_setG_self (t : Thread) (r : Nat) (v : Word) : (t.setG r v).gr r = v := by
  simp [Thread.gr, Thread.setG]

theorem Thread.gr_setG_other {q r : Nat} (h : q ≠ r) (t : Thread) (v : Word) : (t.setG r v).gr q = t.gr q := by
  simp [Thread.gr, Thread.setG, FMap.get_set_other h]

@[simp] theorem State.core_setByte (s : State) (k : Nat) (b : Byte) (c : Nat) : (s.setByte k b).core c = s.core c := rfl
@[simp] theorem State.core_addFlags (s : State) (f : BitVec 5) (c : Nat) : (s.addFlags f).core c = s.core c := rfl
@[simp] theorem State.core_jump (s : State) (a : Word) (c : Nat) : (s.jump a).core c = s.core c := rfl
@[simp] theorem State.thrAt_addFlags (s : State) (f : BitVec 5) (c i : Nat) : (s.addFlags f).thrAt c i = s.thrAt c i := rfl
@[simp] theorem State.thrAt_jump (s : State) (a : Word) (c i : Nat) : (s.jump a).thrAt c i = s.thrAt c i := rfl

/-! ## The end of an instruction -/

@[simp] theorem State.endInstr_thr (s : State) : s.endInstr.thr.lastIssue = s.cycle + 1 ∧ s.endInstr.thr.pc = s.cur.npc ∧
    s.endInstr.thr.ctl.status = s.thr.ctl.status ||| s.cur.flags.setWidth 64 ∧ s.endInstr.thr.g = s.thr.g ∧
    s.endInstr.thr.pw = s.thr.pw ∧ s.endInstr.thr.k = s.thr.k := by
  simp [State.endInstr, applyFlags]

@[simp] theorem State.endInstr_mem (s : State) : s.endInstr.mem = s.mem := rfl
@[simp] theorem State.endInstr_skims (s : State) : s.endInstr.skims = s.skims := rfl
@[simp] theorem State.endInstr_cycle (s : State) : s.endInstr.cycle = s.cycle := rfl

/-- The end of an instruction changes no thread but the issuing one. -/
theorem State.endInstr_other {c i : Nat} (s : State) (h : (c, i) ≠ (s.cur.core, s.cur.slot)) :
    s.endInstr.thrAt c i = s.thrAt c i := by
  simp only [State.endInstr, State.setThr]
  exact State.thrAt_setThrAt_other h s _

/-! ## How a meaning answers -/

/-- Alone at its turn a meaning has one of six ends. -/
theorem finish_single {s : State} (h : s.cur.place = .single) (r : Res) {t : State} (ht : finish s r = .next t) :
    (∃ u, r = .ok u ∧ t = u.endInstr) ∨ (r = .error .stall ∧ t = s.markStalled) ∨
    (∃ f, r = .error (.fault f) ∧ t = s.takeFault f) ∨ (∃ u f, r = .error (.part u f) ∧ t = u.takeFault f) ∨
    (∃ u, r = .error (.gone u) ∧ t = u) ∨ ∃ u, r = .error (.again u) ∧ t = u := by
  unfold finish at ht
  rw [h] at ht
  rcases r with e | u
  · cases e <;> simp_all
  · simp_all

/-- A meaning always answers a next state. -/
theorem finish_next (s : State) (r : Res) : ∃ t, finish s r = .next t := by
  unfold finish
  rcases s.cur.place with _ | _ | _ <;> rcases r with e | u <;> (try cases e) <;> exact ⟨_, rfl⟩

/-- An answer is a replayable fault. -/
def Replayable : Res → Prop
  | .error (.fault f) | .error (.part _ f) => f.cause.replayable = true
  | .ok _ | .error .stall | .error (.gone _) | .error (.again _) => False

/-- An answer that is no replayable fault parks nothing. -/
theorem parks_of_not {r : Res} (h : ¬Replayable r) (s : State) (i : Instr) : s.parks i r = r := by
  rcases r with e | u
  · cases e <;> simp_all [State.parks, Replayable]
  · rfl

/-- Completion, a stall and a leaving are as the body answers them. -/
@[simp] theorem parks_ok (s : State) (i : Instr) (u : State) : s.parks i (.ok u) = .ok u := rfl
@[simp] theorem parks_stall (s : State) (i : Instr) : s.parks i (.error .stall) = .error .stall := rfl
@[simp] theorem parks_gone (s : State) (i : Instr) (u : State) : s.parks i (.error (.gone u)) = .error (.gone u) := rfl
@[simp] theorem parks_again (s : State) (i : Instr) (u : State) : s.parks i (.error (.again u)) = .error (.again u) := rfl

/-- A head of a bundle parks nothing of itself (R62). -/
theorem parks_head {s : State} (h : s.cur.place ≠ .single) (i : Instr) (r : Res) : s.parks i r = r := by
  unfold State.parks
  rcases r with e | u
  · cases e <;> simp [h]
  · rfl

/-- A meaning whose checks pass is its body. -/
theorem run_of_vetted {i : Instr} {s s1 : State} (h : s.vetted i = .ok s1) (body : State → Res) :
    run i s body = finish s (s.parks i (body s1)) := by
  simp [run, h, Bind.bind, Except.bind]

/-- A meaning whose checks stop it does not reach its body. -/
theorem run_of_stopped {i : Instr} {s : State} {e : Stop} (h : s.vetted i = .error e) (body : State → Res) :
    run i s body = finish s (s.parks i (.error e)) := by
  simp [run, h, Bind.bind, Except.bind]

theorem run_next (i : Instr) (s : State) (body : State → Res) : ∃ t, run i s body = .next t := finish_next s _

/-- What stands before an instruction's effect changes nothing but the energy of its slot. -/
theorem vetted_ok {i : Instr} {s s1 : State} (h : s.vetted i = .ok s1) :
    s.legal i = true ∧ s.allowed i = .ok () ∧ s.affords (useOf i).energy = true ∧ s1 = s.pay (useOf i).energy := by
  simp only [State.vetted] at h
  by_cases hl : s.legal i = true
  · rcases ha : s.allowed i with e | u
    · simp [hl, ha, Bind.bind, Except.bind] at h
    · by_cases hg : s.affords (useOf i).energy = true
      · simp only [hl, ha, hg, if_true, Bind.bind, Except.bind] at h
        refine ⟨hl, rfl, hg, ?_⟩
        repeat' split at h
        all_goals simp_all
      · simp only [hl, ha, hg, if_true, Bind.bind, Except.bind] at h
        repeat' split at h
        all_goals simp_all
  · simp [hl, Bind.bind, Except.bind] at h

/-- Paying changes only the budget of the issuing slot. -/
theorem pay_core (s : State) (e : Energy) : s.pay e = s ∨
    s.pay e = s.modHere fun k => { k with ebudget := k.ebudget.set s.cur.slot (k.ebud s.cur.slot - word (debit e)) } := by
  unfold State.pay
  split
  · exact .inl rfl
  · exact .inr rfl

@[simp] theorem pay_mem (s : State) (e : Energy) : (s.pay e).mem = s.mem := by rcases pay_core s e with h | h <;> rw [h]; rfl
@[simp] theorem pay_cur (s : State) (e : Energy) : (s.pay e).cur = s.cur := by rcases pay_core s e with h | h <;> rw [h]; rfl
@[simp] theorem pay_cycle (s : State) (e : Energy) : (s.pay e).cycle = s.cycle := by rcases pay_core s e with h | h <;> rw [h]; rfl

end Sys2Proof.Machine
end

