-- ==== Sys2Proof/Laws/PerInstr.lean ====
section
/-!
SUPPORT. A family of lemmas over the syntax, one for each constructor of `Instr`: the fields that the encoder writes, under the
layout of its major, are the fields that the decoder reads back.
-/

set_option Elab.async false

namespace Sys2Proof.Laws

/-- The low part of two joined words. -/
theorem extract_low {n m : Nat} (x : BitVec n) (y : BitVec m) : (x ++ y).extractLsb' 0 m = y := by
  rw [BitVec.extractLsb'_append_eq_of_add_le (by omega), BitVec.extractLsb'_eq_self]

open BitVec in
theorem extract_high {n m : Nat} (x : BitVec n) (y : BitVec m) (s l : Nat) (h : m ≤ s) :
    (x ++ y).extractLsb' s l = x.extractLsb' (s - m) l := extractLsb'_append_eq_of_le h

theorem bool_bit (b : Bool) : (BitVec.ofBool b == 1#1) = b := by cases b <;> rfl

theorem cond_back (c : Cond) : Cond.ofBits c.toBits = some c := by cases c <;> rfl
theorem fmt_back (c : Fmt) : Fmt.ofBits c.toBits = some c := by cases c <;> rfl
theorem aperture_back (c : Aperture) : Aperture.ofBits c.toBits = some c := by cases c <;> rfl
theorem fscope_back (c : FScope) : FScope.ofBits c.toBits = some c := by cases c <;> rfl
theorem width_back (c : Width) : Width.ofBits c.toBits = some c := by cases c <;> rfl
theorem amoOp_back (c : AmoOp) : AmoOp.ofBits c.toBits = some c := by cases c <;> rfl
theorem redOp_back (c : RedOp) : RedOp.ofBits c.toBits = some c := by cases c <;> rfl
theorem ringKind_back (c : RingKind) : RingKind.ofBits c.toBits = some c := by cases c <;> rfl
theorem memOrd_back (c : MemOrd) : MemOrd.ofBits c.toBits = some c := by
  rcases c with _ | s
  · rfl
  · cases s <;> rfl
theorem amoOrd_back (c : AmoOrd) : AmoOrd.ofBits c.toBits = some c := by
  rcases c with _ | s | s | s
  · rfl
  all_goals cases s <;> rfl
theorem fmtPair_back (c : FmtPair) : FmtPair.ofBits c.toBits = some c := by
  rcases c with _ | ⟨a, b⟩
  · rfl
  · cases a <;> cases b <;> rfl
theorem fmtOpt_back (c : FmtOpt) : FmtOpt.ofBits c.toBits = some c := by
  rcases c with _ | a
  · rfl
  · cases a <;> rfl
theorem shuf_back (c : Shuf) : Shuf.ofBits c.toBits = some c := by
  cases c with
  | rot p =>
    have h : (0#2 ++ p : BitVec 8).extractLsb' 6 2 = 0#2 :=
      (extract_high 0#2 p 6 2 (by decide)).trans BitVec.extractLsb'_eq_self
    have h0 : (0#2 ++ p : BitVec 8).extractLsb' 0 6 = p := extract_low 0#2 p
    unfold Shuf.ofBits Shuf.toBits
    rw [h, h0]; rfl
  | bc p =>
    have h : (1#2 ++ p : BitVec 8).extractLsb' 6 2 = 1#2 :=
      (extract_high 1#2 p 6 2 (by decide)).trans BitVec.extractLsb'_eq_self
    have h0 : (1#2 ++ p : BitVec 8).extractLsb' 0 6 = p := extract_low 1#2 p
    unfold Shuf.ofBits Shuf.toBits
    rw [h, h0]; rfl
  | rev p => revert p; decide
  | uzp => rfl
  | zip => rfl

namespace Encodes

/-- What the family says of an instruction (R74, R76): its major has the layout that the encoder uses, and the decoder reads the
instruction back from the encoder's fields. -/
def Statement (i : Instr) : Prop :=
  i.wf = true → ∀ e, encode i = some e → layoutOf e.op = some e.tail.layout ∧ decodeFields e = some i

/-- From the two parts for the one encoding. -/
theorem of_parts {i : Instr} {e : Enc} (he : encode i = some e) (hl : layoutOf e.op = some e.tail.layout)
    (hd : decodeFields e = some i) : Statement i := by
  intro _ e' h
  obtain rfl : e = e' := Option.some.inj (he.symm.trans h)
  exact ⟨hl, hd⟩

theorem of_none {i : Instr} (he : encode i = none) : Statement i := by
  intro _ e h
  rw [he] at h; cases h

theorem arm_3D (t : T1) : decodeT1 0x3D t =
    if (t.x.extractLsb' 3 1) == 0#1 then (Aperture.ofBits (t.x.extractLsb' 0 3)).bind fun ap => some (.ptrCvtIn t.d t.a ap) else if (t.x.extractLsb' 3 1) == 1#1 then (Aperture.ofBits (t.x.extractLsb' 0 3)).bind fun ap => some (.ptrCvtOut t.d t.a ap) else none := rfl
theorem arm_3E (t : T1) : decodeT1 0x3E t =
    (Aperture.ofBits (t.x.extractLsb' 0 3)).bind fun ap => some (.ptrIn (t.d.extractLsb' 0 4) t.a ap) := rfl
theorem arm_40 (t : T1) : decodeT1 0x40 t =
    some (.pand (t.d.extractLsb' 0 4) (t.a.extractLsb' 0 4) (t.x.extractLsb' 0 4) ((t.x.extractLsb' 4 1) == 1#1)) := rfl
theorem arm_41 (t : T1) : decodeT1 0x41 t =
    some (.por (t.d.extractLsb' 0 4) (t.a.extractLsb' 0 4) (t.x.extractLsb' 0 4) ((t.x.extractLsb' 4 1) == 1#1)) := rfl
theorem arm_42 (t : T1) : decodeT1 0x42 t =
    some (.pxor (t.d.extractLsb' 0 4) (t.a.extractLsb' 0 4) (t.x.extractLsb' 0 4) ((t.x.extractLsb' 4 1) == 1#1)) := rfl
theorem arm_43 (t : T1) : decodeT1 0x43 t =
    some (.pnot (t.d.extractLsb' 0 4) (t.a.extractLsb' 0 4)) := rfl
theorem arm_44 (t : T1) : decodeT1 0x44 t =
    some (.pmov (t.d.extractLsb' 0 4) (t.a.extractLsb' 0 4)) := rfl
theorem arm_45 (t : T1) : decodeT1 0x45 t =
    if (t.x.extractLsb' 5 1) == 0#1 then some (.pset (t.d.extractLsb' 0 4) ((t.x.extractLsb' 0 1) == 1#1)) else if (t.x.extractLsb' 5 1) == 1#1 then some (.psetAll t.a) else none := rfl
theorem arm_4A (t : T1) : decodeT1 0x4A t =
    if (t.x.extractLsb' 3 2) == 0#2 then (FScope.ofBits (t.x.extractLsb' 0 3)).bind fun scp => some (.fence scp) else if (t.x.extractLsb' 3 2) == 1#2 then (FScope.ofBits (t.x.extractLsb' 0 3)).bind fun scp => some (.fenceAcq scp) else if (t.x.extractLsb' 3 2) == 2#2 then (FScope.ofBits (t.x.extractLsb' 0 3)).bind fun scp => some (.fenceRel scp) else none := rfl
theorem arm_4B (t : T1) : decodeT1 0x4B t =
    if (t.x.extractLsb' 0 2) == 1#2 then some (.repartHalf) else if (t.x.extractLsb' 0 2) == 2#2 then some (.repartDbl) else none := rfl
theorem arm_4C (t : T1) : decodeT1 0x4C t =
    if (t.x.extractLsb' 0 2) == 0#2 then some (.gateUp) else if (t.x.extractLsb' 0 2) == 1#2 then some (.gateDown) else if (t.x.extractLsb' 0 2) == 2#2 then some (.gateFreeUp) else if (t.x.extractLsb' 0 2) == 3#2 then some (.gateFreeDown) else none := rfl
theorem arm_4E (t : T1) : decodeT1 0x4E t =
    if (t.x.extractLsb' 0 2) == 0#2 then some (.tlbInvPage t.a) else if (t.x.extractLsb' 0 2) == 1#2 then some (.tlbInvCtx t.a) else if (t.x.extractLsb' 0 2) == 2#2 then some (.tlbInvAll) else none := rfl
theorem arm_61 (t : T1) : decodeT1 0x61 t =
    some (.qfree t.d (t.a.extractLsb' 0 3)) := rfl
theorem arm_62 (t : T1) : decodeT1 0x62 t =
    some (.qlen t.d (t.a.extractLsb' 0 3)) := rfl
theorem arm_63 (t : T1) : decodeT1 0x63 t =
    some (.qpeek t.d (t.a.extractLsb' 0 3)) := rfl
theorem arm_66 (t : T1) : decodeT1 0x66 t =
    some (.qclose (t.d.extractLsb' 0 3)) := rfl
theorem arm_73 (t : T1) : decodeT1 0x73 t =
    some (.ltGet t.d (t.x.extractLsb' 0 2)) := rfl
theorem arm_81 (t : T1) : decodeT1 0x81 t =
    some (.xferTry t.a (t.x.extractLsb' 0 4)) := rfl
theorem arm_9B (t : T1) : decodeT1 0x9B t =
    some (.mwait (t.x.extractLsb' 0 2)) := rfl
theorem arm_26 (t : T2S) : decodeT2S 0x26 t =
    some (.adds t.d t.a t.b ((t.x.extractLsb' 0 1) == 1#1)) := rfl
theorem arm_27 (t : T2S) : decodeT2S 0x27 t =
    some (.subs t.d t.a t.b ((t.x.extractLsb' 0 1) == 1#1)) := rfl
theorem arm_33 (t : T2S) : decodeT2S 0x33 t =
    some (.sel t.d t.a t.b (t.x.extractLsb' 0 4) ((t.x.extractLsb' 4 1) == 1#1)) := rfl
theorem arm_34 (t : T2S) : decodeT2S 0x34 t =
    (Cond.ofBits (t.x.extractLsb' 0 4)).bind fun c => some (.cmp (t.d.extractLsb' 0 4) t.a t.b c) := rfl
theorem arm_3C (t : T2S) : decodeT2S 0x3C t =
    some (.lea t.d t.a t.b (t.x.extractLsb' 0 2) (t.x.extractLsb' 2 9)) := rfl
theorem arm_4D (t : T2S) : decodeT2S 0x4D t =
    some (.capGet (t.d.extractLsb' 0 4) (t.x.extractLsb' 0 7)) := rfl
theorem arm_4F (t : T2S) : decodeT2S 0x4F t =
    some (.ctabLoad t.a (t.x.extractLsb' 0 4) t.l) := rfl
theorem arm_56 (t : T2S) : decodeT2S 0x56 t =
    (MemOrd.ofBits (t.x.extractLsb' 1 3)).bind fun o => some (.lr t.d t.a ((t.x.extractLsb' 0 1) == 1#1) o t.l) := rfl
theorem arm_57 (t : T2S) : decodeT2S 0x57 t =
    (MemOrd.ofBits (t.x.extractLsb' 1 3)).bind fun o => some (.sc t.d t.a ((t.x.extractLsb' 0 1) == 1#1) o (t.x.extractLsb' 4 4) t.l) := rfl
theorem arm_58 (t : T2S) : decodeT2S 0x58 t =
    (AmoOp.ofBits (t.x.extractLsb' 0 4)).bind fun op => (AmoOrd.ofBits (t.x.extractLsb' 5 5)).bind fun o => some (.amo t.d t.a t.b op ((t.x.extractLsb' 4 1) == 1#1) o t.l) := rfl
theorem arm_60 (t : T2S) : decodeT2S 0x60 t =
    some (.qmap (t.d.extractLsb' 0 3) (t.x.extractLsb' 0 8)) := rfl
theorem arm_64 (t : T2S) : decodeT2S 0x64 t =
    some (.qtry t.d (t.a.extractLsb' 0 3) (t.x.extractLsb' 0 4)) := rfl
theorem arm_65 (t : T2S) : decodeT2S 0x65 t =
    some (.qput (t.d.extractLsb' 0 3) t.a (t.x.extractLsb' 0 4)) := rfl
theorem arm_67 (t : T2S) : decodeT2S 0x67 t =
    some (.barInit t.a (t.x.extractLsb' 0 9)) := rfl
theorem arm_68 (t : T2S) : decodeT2S 0x68 t =
    some (.barJoin (t.x.extractLsb' 0 9)) := rfl
theorem arm_69 (t : T2S) : decodeT2S 0x69 t =
    some (.barArr (t.x.extractLsb' 0 9)) := rfl
theorem arm_6A (t : T2S) : decodeT2S 0x6A t =
    some (.barDrop (t.x.extractLsb' 0 9)) := rfl
theorem arm_6B (t : T2S) : decodeT2S 0x6B t =
    some (.barWait (t.x.extractLsb' 0 9)) := rfl
theorem arm_6C (t : T2S) : decodeT2S 0x6C t =
    some (.barTry (t.d.extractLsb' 0 4) (t.x.extractLsb' 0 9)) := rfl
theorem arm_6D (t : T2S) : decodeT2S 0x6D t =
    some (.barExp t.a (t.x.extractLsb' 0 9)) := rfl
theorem arm_6E (t : T2S) : decodeT2S 0x6E t =
    some (.barBits t.d (t.x.extractLsb' 0 9)) := rfl
theorem arm_6F (t : T2S) : decodeT2S 0x6F t =
    some (.barLeave (t.x.extractLsb' 0 9)) := rfl
theorem arm_70 (t : T2S) : decodeT2S 0x70 t =
    if (t.x.extractLsb' 0 1) == 0#1 then some (.spawn t.d t.a t.l) else if (t.x.extractLsb' 0 1) == 1#1 then some (.spawnLight t.d t.a t.l) else none := rfl
theorem arm_71 (t : T2S) : decodeT2S 0x71 t =
    if (t.x.extractLsb' 0 1) == 0#1 then some (.ordSpawn t.d t.a t.l) else if (t.x.extractLsb' 0 1) == 1#1 then some (.ordSpawnLight t.d t.a t.l) else none := rfl
theorem arm_72 (t : T2S) : decodeT2S 0x72 t =
    some (.launch (t.d.extractLsb' 0 4) t.a t.l) := rfl
theorem arm_77 (t : T2S) : decodeT2S 0x77 t =
    some (.tcapHold t.a (t.x.extractLsb' 0 6)) := rfl
theorem arm_78 (t : T2S) : decodeT2S 0x78 t =
    some (.tcapFree t.a (t.x.extractLsb' 0 6)) := rfl
theorem arm_79 (t : T2S) : decodeT2S 0x79 t =
    some (.plumbWait t.a (t.x.extractLsb' 0 6)) := rfl
theorem arm_7A (t : T2S) : decodeT2S 0x7A t =
    some (.plumbGet t.d (t.x.extractLsb' 0 6)) := rfl
theorem arm_7B (t : T2S) : decodeT2S 0x7B t =
    some (.ringMatch t.a (t.x.extractLsb' 0 6) t.l) := rfl
theorem arm_7C (t : T2S) : decodeT2S 0x7C t =
    (RingKind.ofBits (t.x.extractLsb' 1 2)).bind fun r => some (.ringPut t.a t.b ((t.x.extractLsb' 0 1) == 1#1) r t.l) := rfl
theorem arm_7D (t : T2S) : decodeT2S 0x7D t =
    (RingKind.ofBits (t.x.extractLsb' 1 2)).bind fun r => some (.ringTake t.d t.a ((t.x.extractLsb' 0 1) == 1#1) r t.l) := rfl
theorem arm_7E (t : T2S) : decodeT2S 0x7E t =
    (RingKind.ofBits (t.x.extractLsb' 1 2)).bind fun r => some (.ringSt t.d r) := rfl
theorem arm_7F (t : T2S) : decodeT2S 0x7F t =
    (RingKind.ofBits (t.x.extractLsb' 1 2)).bind fun r => some (.ringDrain r) := rfl
theorem arm_84 (t : T2S) : decodeT2S 0x84 t =
    some (.collPut t.a (t.x.extractLsb' 0 8) t.l) := rfl
theorem arm_85 (t : T2S) : decodeT2S 0x85 t =
    some (.collGet t.d (t.x.extractLsb' 0 8) t.l) := rfl
theorem arm_86 (t : T2S) : decodeT2S 0x86 t =
    some (.collAgree t.d t.a (t.x.extractLsb' 0 8) t.l) := rfl
theorem arm_87 (t : T2S) : decodeT2S 0x87 t =
    (RingKind.ofBits (t.x.extractLsb' 1 2)).bind fun r => some (.ringCfg t.a r t.l) := rfl
theorem arm_97 (t : T2S) : decodeT2S 0x97 t =
    some (.bsel t.a (t.x.extractLsb' 0 2)) := rfl
theorem arm_98 (t : T2S) : decodeT2S 0x98 t =
    if (t.x.extractLsb' 0 3) == 0#3 then some (.mcfgSrc t.a) else if (t.x.extractLsb' 0 3) == 1#3 then some (.mcfgStride t.a) else if (t.x.extractLsb' 0 3) == 2#3 then some (.mcfgGo t.a) else if (t.x.extractLsb' 0 3) == 3#3 then some (.mcfgStop) else none := rfl
theorem arm_99 (t : T2S) : decodeT2S 0x99 t =
    some (.mxp (t.x.extractLsb' 0 4) t.l t.e) := rfl
theorem arm_A0 (t : T2V) : decodeT2V 0xA0 t =
    (Fmt.ofBits t.x).bind fun f => some (.vadd t.vd t.va t.vb t.k f t.e) := rfl
theorem arm_A1 (t : T2V) : decodeT2V 0xA1 t =
    (Fmt.ofBits t.x).bind fun f => some (.vsub t.vd t.va t.vb t.k f t.e) := rfl
theorem arm_A2 (t : T2V) : decodeT2V 0xA2 t =
    (Fmt.ofBits t.x).bind fun f => some (.vmul t.vd t.va t.vb t.k f t.e) := rfl
theorem arm_A5 (t : T2V) : decodeT2V 0xA5 t =
    (Fmt.ofBits t.x).bind fun f => some (.vmin t.vd t.va t.vb t.k f t.e) := rfl
theorem arm_A6 (t : T2V) : decodeT2V 0xA6 t =
    (Fmt.ofBits t.x).bind fun f => some (.vmax t.vd t.va t.vb t.k f t.e) := rfl
theorem arm_A7 (t : T2V) : decodeT2V 0xA7 t =
    (Fmt.ofBits t.x).bind fun f => some (.vabs t.vd t.va t.k f t.e) := rfl
theorem arm_A8 (t : T2V) : decodeT2V 0xA8 t =
    (Fmt.ofBits t.x).bind fun f => some (.vneg t.vd t.va t.k f t.e) := rfl
theorem arm_A9 (t : T2V) : decodeT2V 0xA9 t =
    (Fmt.ofBits t.x).bind fun f => some (.vadds t.vd t.va t.vb t.k f t.e) := rfl
theorem arm_AA (t : T2V) : decodeT2V 0xAA t =
    (Fmt.ofBits t.x).bind fun f => some (.vsubs t.vd t.va t.vb t.k f t.e) := rfl
theorem arm_AB (t : T2V) : decodeT2V 0xAB t =
    (Fmt.ofBits t.x).bind fun f => some (.vmulh t.vd t.va t.vb t.k f t.e) := rfl
theorem arm_B1 (t : T2V) : decodeT2V 0xB1 t =
    (Fmt.ofBits t.x).bind fun f => some (.vshl t.vd t.va t.vb t.k f t.e) := rfl
theorem arm_B2 (t : T2V) : decodeT2V 0xB2 t =
    (Fmt.ofBits t.x).bind fun f => some (.vshr t.vd t.va t.vb t.k f t.e) := rfl
theorem arm_B3 (t : T2V) : decodeT2V 0xB3 t =
    (Fmt.ofBits t.x).bind fun f => some (.vsra t.vd t.va t.vb t.k f t.e) := rfl
theorem arm_BA (t : T2V) : decodeT2V 0xBA t =
    (Fmt.ofBits t.x).bind fun f => some (.vrcp t.vd t.va t.k f t.l t.e) := rfl
theorem arm_BB (t : T2V) : decodeT2V 0xBB t =
    (Fmt.ofBits t.x).bind fun f => some (.vrsq t.vd t.va t.k f t.l t.e) := rfl
theorem arm_BC (t : T2V) : decodeT2V 0xBC t =
    (Fmt.ofBits t.x).bind fun f => some (.vsqrt t.vd t.va t.k f t.l t.e) := rfl
theorem arm_BD (t : T2V) : decodeT2V 0xBD t =
    (Fmt.ofBits t.x).bind fun f => some (.vexp2 t.vd t.va t.k f t.l t.e) := rfl
theorem arm_BE (t : T2V) : decodeT2V 0xBE t =
    (Fmt.ofBits t.x).bind fun f => some (.vlog2 t.vd t.va t.k f t.l t.e) := rfl
theorem arm_BF (t : T2V) : decodeT2V 0xBF t =
    (Fmt.ofBits t.x).bind fun f => some (.vsin t.vd t.va t.k f t.l t.e) := rfl
theorem arm_C0 (t : T2V) : decodeT2V 0xC0 t =
    (Fmt.ofBits t.x).bind fun f => some (.vcos t.vd t.va t.k f t.l t.e) := rfl
theorem arm_C1 (t : T2V) : decodeT2V 0xC1 t =
    (Fmt.ofBits t.x).bind fun f => some (.vtanh t.vd t.va t.k f t.l t.e) := rfl
theorem arm_CB (t : T2V) : decodeT2V 0xCB t =
    (Fmt.ofBits t.x).bind fun f => some (.vclass t.vd t.va t.k f t.e) := rfl
theorem arm_CC (t : T2V) : decodeT2V 0xCC t =
    some (.kand (t.vd.extractLsb' 0 3) (t.va.extractLsb' 0 3) (t.vb.extractLsb' 0 3)) := rfl
theorem arm_CD (t : T2V) : decodeT2V 0xCD t =
    some (.kor (t.vd.extractLsb' 0 3) (t.va.extractLsb' 0 3) (t.vb.extractLsb' 0 3)) := rfl
theorem arm_CE (t : T2V) : decodeT2V 0xCE t =
    some (.kxor (t.vd.extractLsb' 0 3) (t.va.extractLsb' 0 3) (t.vb.extractLsb' 0 3)) := rfl
theorem arm_CF (t : T2V) : decodeT2V 0xCF t =
    some (.knot (t.vd.extractLsb' 0 3) (t.va.extractLsb' 0 3)) := rfl
theorem arm_D0 (t : T2V) : decodeT2V 0xD0 t =
    some (.kmov (t.vd.extractLsb' 0 3) (t.va.extractLsb' 0 3)) := rfl
theorem arm_D1 (t : T2V) : decodeT2V 0xD1 t =
    some (.kpop (t.vd.extractLsb' 0 5) (t.va.extractLsb' 0 3)) := rfl
theorem arm_EC (t : T2V) : decodeT2V 0xEC t =
    some (.skimDep (t.vd.extractLsb' 0 5)) := rfl
theorem arm_ED (t : T2V) : decodeT2V 0xED t =
    some (.skimArea (t.va.extractLsb' 0 5) (t.vb.extractLsb' 0 5)) := rfl
theorem arm_EE (t : T2V) : decodeT2V 0xEE t =
    some (.skimChk (t.vd.extractLsb' 0 4) t.x) := rfl
theorem arm_30 (t : T4I) : decodeT4I 0x30 t =
    some (.bfx t.d t.a (t.imm.extractLsb' 0 6) (t.imm.extractLsb' 8 6)) := rfl
theorem arm_31 (t : T4I) : decodeT4I 0x31 t =
    some (.bfi t.d t.a (t.imm.extractLsb' 0 6) (t.imm.extractLsb' 8 6)) := rfl
theorem arm_37 (t : T4I) : decodeT4I 0x37 t =
    some (.lih t.d (t.imm.extractLsb' 0 16)) := rfl
theorem arm_3B (t : T4I) : decodeT4I 0x3B t =
    (Cond.ofBits (t.x.extractLsb' 0 4)).bind fun c => some (.cmpi (t.d.extractLsb' 0 4) t.a c t.imm) := rfl
theorem arm_47 (t : T4I) : decodeT4I 0x47 t =
    some (.ctlGet t.d (t.imm.extractLsb' 0 12)) := rfl
theorem arm_48 (t : T4I) : decodeT4I 0x48 t =
    some (.ctlSet t.a (t.imm.extractLsb' 0 12)) := rfl
theorem arm_49 (t : T4I) : decodeT4I 0x49 t =
    some (.ctlSwap t.d t.a (t.imm.extractLsb' 0 12)) := rfl
theorem arm_50 (t : T4I) : decodeT4I 0x50 t =
    (Width.ofBits (t.x.extractLsb' 0 2)).bind fun w => (MemOrd.ofBits (t.x.extractLsb' 3 3)).bind fun o => some (.ld t.d t.a w ((t.x.extractLsb' 2 1) == 1#1) o t.imm) := rfl
theorem arm_51 (t : T4I) : decodeT4I 0x51 t =
    (Width.ofBits (t.x.extractLsb' 0 2)).bind fun w => (MemOrd.ofBits (t.x.extractLsb' 3 3)).bind fun o => some (.st t.d t.a w o t.imm) := rfl
theorem arm_52 (t : T4V) : decodeT4V 0x52 t =
    (MemOrd.ofBits (t.x.extractLsb' 26 3)).bind fun o => some (.ldv t.vd (t.va.extractLsb' 0 5) t.k (t.x.extractLsb' 0 26) o t.l) := rfl
theorem arm_53 (t : T4V) : decodeT4V 0x53 t =
    (MemOrd.ofBits (t.x.extractLsb' 26 3)).bind fun o => some (.stv t.vd (t.va.extractLsb' 0 5) t.k (t.x.extractLsb' 0 26) o t.l) := rfl
theorem arm_54 (t : T4V) : decodeT4V 0x54 t =
    (Width.ofBits (t.x.extractLsb' 0 2)).bind fun w => (MemOrd.ofBits (t.x.extractLsb' 4 3)).bind fun o => some (.gath t.vd (t.va.extractLsb' 0 5) t.vb t.k w (t.x.extractLsb' 2 2) o t.l) := rfl
theorem arm_55 (t : T4V) : decodeT4V 0x55 t =
    (Width.ofBits (t.x.extractLsb' 0 2)).bind fun w => (MemOrd.ofBits (t.x.extractLsb' 4 3)).bind fun o => some (.scat t.vd (t.va.extractLsb' 0 5) t.vb t.k w (t.x.extractLsb' 2 2) o t.l) := rfl
theorem arm_59 (t : T4V) : decodeT4V 0x59 t =
    (AmoOp.ofBits (t.x.extractLsb' 0 4)).bind fun op => (AmoOrd.ofBits (t.x.extractLsb' 5 5)).bind fun o => some (.vamo t.vd (t.va.extractLsb' 0 5) t.vb t.vc t.k op ((t.x.extractLsb' 4 1) == 1#1) o t.l) := rfl
theorem arm_A3 (t : T4V) : decodeT4V 0xA3 t =
    (Fmt.ofBits (t.x.extractLsb' 0 5)).bind fun f => some (.vfma t.vd t.va t.vb t.vc t.k f t.e) := rfl
theorem arm_A4 (t : T4V) : decodeT4V 0xA4 t =
    (Fmt.ofBits (t.x.extractLsb' 0 5)).bind fun f => some (.vfms t.vd t.va t.vb t.vc t.k f t.e) := rfl
theorem arm_AC (t : T4V) : decodeT4V 0xAC t =
    (Fmt.ofBits (t.x.extractLsb' 0 5)).bind fun fp => (Fmt.ofBits (t.x.extractLsb' 5 5)).bind fun fa => some (.vdot t.vd t.va t.vb t.vc t.k fp fa t.e) := rfl
theorem arm_B4 (t : T4V) : decodeT4V 0xB4 t =
    (Fmt.ofBits (t.x.extractLsb' 0 5)).bind fun f => (Cond.ofBits (t.x.extractLsb' 5 4)).bind fun c => some (.vcmp (t.vd.extractLsb' 0 3) t.va t.vb t.k f c t.e) := rfl
theorem arm_B6 (t : T4V) : decodeT4V 0xB6 t =
    (Fmt.ofBits (t.x.extractLsb' 0 5)).bind fun fd => (Fmt.ofBits (t.x.extractLsb' 5 5)).bind fun fs => some (.vcvt t.vd t.va t.k fd fs t.e) := rfl
theorem arm_B7 (t : T4V) : decodeT4V 0xB7 t =
    (Fmt.ofBits (t.x.extractLsb' 0 5)).bind fun fd => (Fmt.ofBits (t.x.extractLsb' 5 5)).bind fun fs => some (.vpack t.vd t.va t.vb t.k fd fs t.e) := rfl
theorem arm_B8 (t : T4V) : decodeT4V 0xB8 t =
    (Fmt.ofBits (t.x.extractLsb' 0 5)).bind fun fd => (Fmt.ofBits (t.x.extractLsb' 5 5)).bind fun fs => some (.vunpk t.vd t.va t.k fd fs ((t.x.extractLsb' 10 1) == 1#1) t.e) := rfl
theorem arm_B9 (t : T4V) : decodeT4V 0xB9 t =
    (Fmt.ofBits (t.x.extractLsb' 0 5)).bind fun f => some (.vscl t.vd t.va t.vb t.k f t.e) := rfl
theorem arm_C2 (t : T4V) : decodeT4V 0xC2 t =
    (Fmt.ofBits (t.x.extractLsb' 0 5)).bind fun f => (RedOp.ofBits (t.x.extractLsb' 5 3)).bind fun op => some (.vred t.vd t.va t.k f op t.e) := rfl
theorem arm_C3 (t : T4V) : decodeT4V 0xC3 t =
    (Fmt.ofBits (t.x.extractLsb' 0 5)).bind fun f => (RedOp.ofBits (t.x.extractLsb' 5 3)).bind fun op => some (.vscan t.vd t.va t.k f op t.e) := rfl
theorem arm_C4 (t : T4V) : decodeT4V 0xC4 t =
    (Fmt.ofBits (t.x.extractLsb' 0 5)).bind fun f => some (.vperm t.vd t.va t.vb t.vc t.k f t.e) := rfl
theorem arm_C5 (t : T4V) : decodeT4V 0xC5 t =
    (Fmt.ofBits (t.x.extractLsb' 0 5)).bind fun f => (Shuf.ofBits (t.x.extractLsb' 5 8)).bind fun pat => some (.vshuf t.vd t.va t.k f pat t.e) := rfl
theorem arm_C6 (t : T4V) : decodeT4V 0xC6 t =
    if t.va.extractLsb' 3 3 == 3#3 && t.x.extractLsb' 0 5 == 7#5 then some (.vqrecv t.vd (t.va.extractLsb' 0 3) t.k t.e) else (Fmt.ofBits (t.x.extractLsb' 0 5)).bind fun f => some (.vbc t.vd (t.va.extractLsb' 0 5) t.k f t.e) := rfl
theorem arm_C7 (t : T4V) : decodeT4V 0xC7 t =
    if t.vd.extractLsb' 3 3 == 3#3 && t.x.extractLsb' 0 5 == 7#5 then some (.vqsend (t.vd.extractLsb' 0 3) t.va) else (Fmt.ofBits (t.x.extractLsb' 0 5)).bind fun f => some (.vext (t.vd.extractLsb' 0 5) t.va f (t.x.extractLsb' 5 6)) := rfl
theorem arm_C8 (t : T4V) : decodeT4V 0xC8 t =
    (Fmt.ofBits (t.x.extractLsb' 0 5)).bind fun f => some (.vins t.vd (t.va.extractLsb' 0 5) f (t.x.extractLsb' 5 6)) := rfl
theorem arm_D2 (t : T4V) : decodeT4V 0xD2 t =
    (Fmt.ofBits (t.x.extractLsb' 0 5)).bind fun f => some (.vshli t.vd t.va t.k f (t.x.extractLsb' 5 6) t.e) := rfl
theorem arm_D3 (t : T4V) : decodeT4V 0xD3 t =
    (Fmt.ofBits (t.x.extractLsb' 0 5)).bind fun f => some (.vshri t.vd t.va t.k f (t.x.extractLsb' 5 6) t.e) := rfl
theorem arm_D4 (t : T4V) : decodeT4V 0xD4 t =
    (Fmt.ofBits (t.x.extractLsb' 0 5)).bind fun f => some (.vsrai t.vd t.va t.k f (t.x.extractLsb' 5 6) t.e) := rfl
theorem arm_E0 (t : T4V) : decodeT4V 0xE0 t =
    (Fmt.ofBits (t.x.extractLsb' 0 5)).bind fun f => some (.rvmul t.vd t.va (t.vb.extractLsb' 0 5) t.k f t.e) := rfl
theorem arm_E1 (t : T4V) : decodeT4V 0xE1 t =
    (Fmt.ofBits (t.x.extractLsb' 0 5)).bind fun f => some (.unmul t.vd t.va (t.vb.extractLsb' 0 5) t.k f t.e) := rfl
theorem arm_E2 (t : T4V) : decodeT4V 0xE2 t =
    (Fmt.ofBits (t.x.extractLsb' 0 5)).bind fun fd => (Fmt.ofBits (t.x.extractLsb' 5 5)).bind fun fs => some (.rvcvt t.vd t.va t.k fd fs t.e) := rfl
theorem arm_E3 (t : T4V) : decodeT4V 0xE3 t =
    (Fmt.ofBits (t.x.extractLsb' 0 5)).bind fun fd => (Fmt.ofBits (t.x.extractLsb' 5 5)).bind fun fs => some (.uncvt t.vd t.va t.k fd fs t.e) := rfl
theorem arm_E4 (t : T4V) : decodeT4V 0xE4 t =
    (Fmt.ofBits (t.x.extractLsb' 0 5)).bind fun f => some (.rvsra t.vd t.va t.k f (t.x.extractLsb' 5 6) t.e) := rfl
theorem arm_E5 (t : T4V) : decodeT4V 0xE5 t =
    (Fmt.ofBits (t.x.extractLsb' 0 5)).bind fun f => some (.unsra t.vd t.va t.k f (t.x.extractLsb' 5 6) t.e) := rfl
theorem arm_E6 (t : T4V) : decodeT4V 0xE6 t =
    (Fmt.ofBits (t.x.extractLsb' 0 5)).bind fun f => some (.rvscl t.vd t.va t.vb t.k f t.e) := rfl
theorem arm_E7 (t : T4V) : decodeT4V 0xE7 t =
    (Fmt.ofBits (t.x.extractLsb' 0 5)).bind fun f => some (.unscl t.vd t.va t.vb t.k f t.e) := rfl
theorem arm_E8 (t : T4V) : decodeT4V 0xE8 t =
    (Fmt.ofBits (t.x.extractLsb' 0 5)).bind fun f => some (.rvact t.vd t.va t.k f (t.x.extractLsb' 5 5) t.e) := rfl
theorem arm_E9 (t : T4V) : decodeT4V 0xE9 t =
    (Fmt.ofBits (t.x.extractLsb' 0 5)).bind fun f => some (.unact t.vd t.va t.k f (t.x.extractLsb' 5 5) t.e) := rfl
theorem arm_90 (t : T4M) : decodeT4M 0x90 t =
    (FmtPair.ofBits (t.r.extractLsb' 35 11)).bind fun fmts => some (.mma t.acc t.asrc t.k fmts ((t.r.extractLsb' 34 1) == 1#1) t.l t.e) := rfl
theorem arm_92 (t : T4M) : decodeT4M 0x92 t =
    (FmtOpt.ofBits (t.r.extractLsb' 21 6)).bind fun fc => some (.mrd t.acc t.asrc t.k (t.r.extractLsb' 40 6) (t.r.extractLsb' 34 6) ((t.r.extractLsb' 33 1) == 1#1) (t.r.extractLsb' 27 6) fc t.l t.e) := rfl
theorem arm_93 (t : T4M) : decodeT4M 0x93 t =
    (FmtOpt.ofBits (t.r.extractLsb' 21 6)).bind fun fc => some (.mwr t.acc t.asrc t.k (t.r.extractLsb' 40 6) (t.r.extractLsb' 34 6) ((t.r.extractLsb' 33 1) == 1#1) (t.r.extractLsb' 27 6) fc t.l t.e) := rfl
theorem arm_96 (t : T4M) : decodeT4M 0x96 t =
    some (.bld t.asrc t.k (t.r.extractLsb' 35 11) (t.r.extractLsb' 29 6) (t.r.extractLsb' 23 6) t.l t.e) := rfl

theorem powerOnReset : Statement .powerOnReset := of_none rfl
theorem screedBoot : Statement .screedBoot := of_none rfl
theorem layerJoin : Statement .layerJoin := of_none rfl
theorem bstoreCalibrationDone : Statement .bstoreCalibrationDone := of_none rfl
theorem fullServiceBegin : Statement .fullServiceBegin := of_none rfl
theorem nop : Statement .nop := of_parts rfl rfl rfl
theorem yield : Statement .yield := of_parts rfl rfl rfl
theorem end_ : Statement .end_ := of_parts rfl rfl rfl
theorem ret (a) : Statement (.ret a) := of_parts rfl rfl rfl
theorem tret : Statement .tret := of_parts rfl rfl rfl
theorem trap (code) : Statement (.trap code) := of_parts rfl rfl rfl
theorem br (disp) : Statement (.br disp) := of_parts rfl rfl rfl
theorem call (d disp) : Statement (.call d disp) := of_parts rfl rfl rfl
theorem jmp (a) : Statement (.jmp a) := of_parts rfl rfl rfl
theorem calli (d a) : Statement (.calli d a) := of_parts rfl rfl rfl
theorem loop (a disp) : Statement (.loop a disp) := of_parts rfl rfl rfl
theorem sysc (n) : Statement (.sysc n) := of_parts rfl rfl rfl
theorem add (d a b) : Statement (.add d a b) := of_parts rfl rfl rfl
theorem sub (d a b) : Statement (.sub d a b) := of_parts rfl rfl rfl
theorem mul (d a b) : Statement (.mul d a b) := of_parts rfl rfl rfl
theorem mulh (d a b) : Statement (.mulh d a b) := of_parts rfl rfl rfl
theorem mulhn (d a b) : Statement (.mulhn d a b) := of_parts rfl rfl rfl
theorem div (d a b l) : Statement (.div d a b l) := of_parts rfl rfl rfl
theorem divn (d a b l) : Statement (.divn d a b l) := of_parts rfl rfl rfl
theorem rem (d a b l) : Statement (.rem d a b l) := of_parts rfl rfl rfl
theorem remn (d a b l) : Statement (.remn d a b l) := of_parts rfl rfl rfl
theorem and_ (d a b) : Statement (.and_ d a b) := of_parts rfl rfl rfl
theorem or_ (d a b) : Statement (.or_ d a b) := of_parts rfl rfl rfl
theorem xor_ (d a b) : Statement (.xor_ d a b) := of_parts rfl rfl rfl
theorem andn (d a b) : Statement (.andn d a b) := of_parts rfl rfl rfl
theorem orn (d a b) : Statement (.orn d a b) := of_parts rfl rfl rfl
theorem shl (d a b) : Statement (.shl d a b) := of_parts rfl rfl rfl
theorem shr (d a b) : Statement (.shr d a b) := of_parts rfl rfl rfl
theorem sra (d a b) : Statement (.sra d a b) := of_parts rfl rfl rfl
theorem rol (d a b) : Statement (.rol d a b) := of_parts rfl rfl rfl
theorem min (d a b) : Statement (.min d a b) := of_parts rfl rfl rfl
theorem max (d a b) : Statement (.max d a b) := of_parts rfl rfl rfl
theorem minn (d a b) : Statement (.minn d a b) := of_parts rfl rfl rfl
theorem maxn (d a b) : Statement (.maxn d a b) := of_parts rfl rfl rfl
theorem adds (d a b uns) : Statement (.adds d a b uns) := by
  refine of_parts rfl rfl ?_
  refine (arm_26 { d := d, a := a, b := b, x := 0#10 ++ (BitVec.ofBool uns) }).trans ?_
  dsimp only
  have h0 : (0#10 ++ (BitVec.ofBool uns) : BitVec 11).extractLsb' 0 1 = (BitVec.ofBool uns) := extract_low (0#10) (BitVec.ofBool uns)
  rw [h0, bool_bit]
theorem subs (d a b uns) : Statement (.subs d a b uns) := by
  refine of_parts rfl rfl ?_
  refine (arm_27 { d := d, a := a, b := b, x := 0#10 ++ (BitVec.ofBool uns) }).trans ?_
  dsimp only
  have h0 : (0#10 ++ (BitVec.ofBool uns) : BitVec 11).extractLsb' 0 1 = (BitVec.ofBool uns) := extract_low (0#10) (BitVec.ofBool uns)
  rw [h0, bool_bit]
theorem abs (d a) : Statement (.abs d a) := of_parts rfl rfl rfl
theorem neg (d a) : Statement (.neg d a) := of_parts rfl rfl rfl
theorem clz (d a) : Statement (.clz d a) := of_parts rfl rfl rfl
theorem ctz (d a) : Statement (.ctz d a) := of_parts rfl rfl rfl
theorem popc (d a) : Statement (.popc d a) := of_parts rfl rfl rfl
theorem bswap (d a) : Statement (.bswap d a) := of_parts rfl rfl rfl
theorem sext (d a w) : Statement (.sext d a w) := of_parts rfl rfl rfl
theorem zext (d a w) : Statement (.zext d a w) := of_parts rfl rfl rfl
theorem bfx (d a pos w) : Statement (.bfx d a pos w) := by
  refine of_parts rfl rfl ?_
  refine (arm_30 { d := d, a := a, imm := 0#34 ++ w ++ 0#2 ++ pos }).trans ?_
  dsimp only
  have h0 : (0#34 ++ w ++ 0#2 ++ pos : BitVec 48).extractLsb' 0 6 = pos := extract_low (0#34 ++ w ++ 0#2) pos
  have h1 : (0#34 ++ w ++ 0#2 ++ pos : BitVec 48).extractLsb' 8 6 = w := (extract_high (0#34 ++ w ++ 0#2) pos 8 6 (by decide)).trans ((extract_high (0#34 ++ w) 0#2 2 6 (by decide)).trans (extract_low (0#34) w))
  rw [h0, h1]
theorem bfi (d a pos w) : Statement (.bfi d a pos w) := by
  refine of_parts rfl rfl ?_
  refine (arm_31 { d := d, a := a, imm := 0#34 ++ w ++ 0#2 ++ pos }).trans ?_
  dsimp only
  have h0 : (0#34 ++ w ++ 0#2 ++ pos : BitVec 48).extractLsb' 0 6 = pos := extract_low (0#34 ++ w ++ 0#2) pos
  have h1 : (0#34 ++ w ++ 0#2 ++ pos : BitVec 48).extractLsb' 8 6 = w := (extract_high (0#34 ++ w ++ 0#2) pos 8 6 (by decide)).trans ((extract_high (0#34 ++ w) 0#2 2 6 (by decide)).trans (extract_low (0#34) w))
  rw [h0, h1]
theorem mov (d a) : Statement (.mov d a) := of_parts rfl rfl rfl
theorem sel (d a b p nt) : Statement (.sel d a b p nt) := by
  refine of_parts rfl rfl ?_
  refine (arm_33 { d := d, a := a, b := b, x := 0#6 ++ (BitVec.ofBool nt) ++ p }).trans ?_
  dsimp only
  have h0 : (0#6 ++ (BitVec.ofBool nt) ++ p : BitVec 11).extractLsb' 0 4 = p := extract_low (0#6 ++ (BitVec.ofBool nt)) p
  have h1 : (0#6 ++ (BitVec.ofBool nt) ++ p : BitVec 11).extractLsb' 4 1 = (BitVec.ofBool nt) := (extract_high (0#6 ++ (BitVec.ofBool nt)) p 4 1 (by decide)).trans (extract_low (0#6) (BitVec.ofBool nt))
  rw [h0, h1, bool_bit]
theorem cmp (d a b c) : Statement (.cmp d a b c) := by
  refine of_parts rfl rfl ?_
  refine (arm_34 { d := 0#1 ++ d, a := a, b := b, x := 0#7 ++ c.toBits }).trans ?_
  dsimp only
  have h0 : (0#7 ++ c.toBits : BitVec 11).extractLsb' 0 4 = c.toBits := extract_low (0#7) c.toBits
  have h1 : (0#1 ++ d : BitVec 5).extractLsb' 0 4 = d := extract_low (0#1) d
  rw [h0, h1, cond_back]
  rfl
theorem addi (d a imm) : Statement (.addi d a imm) := of_parts rfl rfl rfl
theorem li (d imm) : Statement (.li d imm) := of_parts rfl rfl rfl
theorem lih (d imm) : Statement (.lih d imm) := by
  refine of_parts rfl rfl ?_
  refine (arm_37 { d := d, imm := 0#32 ++ imm }).trans ?_
  dsimp only
  have h0 : (0#32 ++ imm : BitVec 48).extractLsb' 0 16 = imm := extract_low (0#32) imm
  rw [h0]
theorem shli (d a n) : Statement (.shli d a n) := of_parts rfl rfl rfl
theorem shri (d a n) : Statement (.shri d a n) := of_parts rfl rfl rfl
theorem srai (d a n) : Statement (.srai d a n) := of_parts rfl rfl rfl
theorem cmpi (d a c imm) : Statement (.cmpi d a c imm) := by
  refine of_parts rfl rfl ?_
  refine (arm_3B { d := 0#1 ++ d, a := a, x := 0#2 ++ c.toBits, imm := imm }).trans ?_
  dsimp only
  have h0 : (0#2 ++ c.toBits : BitVec 6).extractLsb' 0 4 = c.toBits := extract_low (0#2) c.toBits
  have h1 : (0#1 ++ d : BitVec 5).extractLsb' 0 4 = d := extract_low (0#1) d
  rw [h0, h1, cond_back]
  rfl
theorem lea (d a b sh disp) : Statement (.lea d a b sh disp) := by
  refine of_parts rfl rfl ?_
  refine (arm_3C { d := d, a := a, b := b, x := disp ++ sh }).trans ?_
  dsimp only
  have h0 : (disp ++ sh : BitVec 11).extractLsb' 0 2 = sh := extract_low (disp) sh
  have h1 : (disp ++ sh : BitVec 11).extractLsb' 2 9 = disp := (extract_high (disp) sh 2 9 (by decide)).trans (BitVec.extractLsb'_eq_self)
  rw [h0, h1]
theorem ptrCvtIn (d a ap) : Statement (.ptrCvtIn d a ap) := by
  refine of_parts rfl rfl ?_
  refine (arm_3D { d := d, a := a, x := 0#2 ++ 0#1 ++ ap.toBits }).trans ?_
  dsimp only
  have h0 : (0#2 ++ 0#1 ++ ap.toBits : BitVec 6).extractLsb' 3 1 = 0#1 := (extract_high (0#2 ++ 0#1) ap.toBits 3 1 (by decide)).trans (extract_low (0#2) 0#1)
  have h1 : (0#2 ++ 0#1 ++ ap.toBits : BitVec 6).extractLsb' 0 3 = ap.toBits := extract_low (0#2 ++ 0#1) ap.toBits
  rw [h0, h1, aperture_back]
  rfl
theorem ptrCvtOut (d a ap) : Statement (.ptrCvtOut d a ap) := by
  refine of_parts rfl rfl ?_
  refine (arm_3D { d := d, a := a, x := 0#2 ++ 1#1 ++ ap.toBits }).trans ?_
  dsimp only
  have h0 : (0#2 ++ 1#1 ++ ap.toBits : BitVec 6).extractLsb' 3 1 = 1#1 := (extract_high (0#2 ++ 1#1) ap.toBits 3 1 (by decide)).trans (extract_low (0#2) 1#1)
  have h1 : (0#2 ++ 1#1 ++ ap.toBits : BitVec 6).extractLsb' 0 3 = ap.toBits := extract_low (0#2 ++ 1#1) ap.toBits
  rw [h0, h1, aperture_back]
  rfl
theorem ptrIn (d a ap) : Statement (.ptrIn d a ap) := by
  refine of_parts rfl rfl ?_
  refine (arm_3E { d := 0#1 ++ d, a := a, x := 0#3 ++ ap.toBits }).trans ?_
  dsimp only
  have h0 : (0#3 ++ ap.toBits : BitVec 6).extractLsb' 0 3 = ap.toBits := extract_low (0#3) ap.toBits
  have h1 : (0#1 ++ d : BitVec 5).extractLsb' 0 4 = d := extract_low (0#1) d
  rw [h0, h1, aperture_back]
  rfl
theorem pand (d a b nt) : Statement (.pand d a b nt) := by
  refine of_parts rfl rfl ?_
  refine (arm_40 { d := 0#1 ++ d, a := 0#1 ++ a, x := 0#1 ++ (BitVec.ofBool nt) ++ b }).trans ?_
  dsimp only
  have h0 : (0#1 ++ d : BitVec 5).extractLsb' 0 4 = d := extract_low (0#1) d
  have h1 : (0#1 ++ a : BitVec 5).extractLsb' 0 4 = a := extract_low (0#1) a
  have h2 : (0#1 ++ (BitVec.ofBool nt) ++ b : BitVec 6).extractLsb' 0 4 = b := extract_low (0#1 ++ (BitVec.ofBool nt)) b
  have h3 : (0#1 ++ (BitVec.ofBool nt) ++ b : BitVec 6).extractLsb' 4 1 = (BitVec.ofBool nt) := (extract_high (0#1 ++ (BitVec.ofBool nt)) b 4 1 (by decide)).trans (extract_low (0#1) (BitVec.ofBool nt))
  rw [h0, h1, h2, h3, bool_bit]
theorem por (d a b nt) : Statement (.por d a b nt) := by
  refine of_parts rfl rfl ?_
  refine (arm_41 { d := 0#1 ++ d, a := 0#1 ++ a, x := 0#1 ++ (BitVec.ofBool nt) ++ b }).trans ?_
  dsimp only
  have h0 : (0#1 ++ d : BitVec 5).extractLsb' 0 4 = d := extract_low (0#1) d
  have h1 : (0#1 ++ a : BitVec 5).extractLsb' 0 4 = a := extract_low (0#1) a
  have h2 : (0#1 ++ (BitVec.ofBool nt) ++ b : BitVec 6).extractLsb' 0 4 = b := extract_low (0#1 ++ (BitVec.ofBool nt)) b
  have h3 : (0#1 ++ (BitVec.ofBool nt) ++ b : BitVec 6).extractLsb' 4 1 = (BitVec.ofBool nt) := (extract_high (0#1 ++ (BitVec.ofBool nt)) b 4 1 (by decide)).trans (extract_low (0#1) (BitVec.ofBool nt))
  rw [h0, h1, h2, h3, bool_bit]
theorem pxor (d a b nt) : Statement (.pxor d a b nt) := by
  refine of_parts rfl rfl ?_
  refine (arm_42 { d := 0#1 ++ d, a := 0#1 ++ a, x := 0#1 ++ (BitVec.ofBool nt) ++ b }).trans ?_
  dsimp only
  have h0 : (0#1 ++ d : BitVec 5).extractLsb' 0 4 = d := extract_low (0#1) d
  have h1 : (0#1 ++ a : BitVec 5).extractLsb' 0 4 = a := extract_low (0#1) a
  have h2 : (0#1 ++ (BitVec.ofBool nt) ++ b : BitVec 6).extractLsb' 0 4 = b := extract_low (0#1 ++ (BitVec.ofBool nt)) b
  have h3 : (0#1 ++ (BitVec.ofBool nt) ++ b : BitVec 6).extractLsb' 4 1 = (BitVec.ofBool nt) := (extract_high (0#1 ++ (BitVec.ofBool nt)) b 4 1 (by decide)).trans (extract_low (0#1) (BitVec.ofBool nt))
  rw [h0, h1, h2, h3, bool_bit]
theorem pnot (d a) : Statement (.pnot d a) := by
  refine of_parts rfl rfl ?_
  refine (arm_43 { d := 0#1 ++ d, a := 0#1 ++ a }).trans ?_
  dsimp only
  have h0 : (0#1 ++ d : BitVec 5).extractLsb' 0 4 = d := extract_low (0#1) d
  have h1 : (0#1 ++ a : BitVec 5).extractLsb' 0 4 = a := extract_low (0#1) a
  rw [h0, h1]
theorem pmov (d a) : Statement (.pmov d a) := by
  refine of_parts rfl rfl ?_
  refine (arm_44 { d := 0#1 ++ d, a := 0#1 ++ a }).trans ?_
  dsimp only
  have h0 : (0#1 ++ d : BitVec 5).extractLsb' 0 4 = d := extract_low (0#1) d
  have h1 : (0#1 ++ a : BitVec 5).extractLsb' 0 4 = a := extract_low (0#1) a
  rw [h0, h1]
theorem pset (d v) : Statement (.pset d v) := by
  refine of_parts rfl rfl ?_
  refine (arm_45 { d := 0#1 ++ d, x := 0#1 ++ 0#4 ++ (BitVec.ofBool v) }).trans ?_
  dsimp only
  have h0 : (0#1 ++ 0#4 ++ (BitVec.ofBool v) : BitVec 6).extractLsb' 5 1 = 0#1 := (extract_high (0#1 ++ 0#4) (BitVec.ofBool v) 5 1 (by decide)).trans ((extract_high (0#1) 0#4 4 1 (by decide)).trans (BitVec.extractLsb'_eq_self))
  have h1 : (0#1 ++ d : BitVec 5).extractLsb' 0 4 = d := extract_low (0#1) d
  have h2 : (0#1 ++ 0#4 ++ (BitVec.ofBool v) : BitVec 6).extractLsb' 0 1 = (BitVec.ofBool v) := extract_low (0#1 ++ 0#4) (BitVec.ofBool v)
  rw [h0, h1, h2, bool_bit]
  rfl
theorem psetAll (a) : Statement (.psetAll a) := by
  refine of_parts rfl rfl ?_
  refine (arm_45 { a := a, x := 1#1 ++ 0#5 }).trans ?_
  dsimp only
  have h0 : (1#1 ++ 0#5 : BitVec 6).extractLsb' 5 1 = 1#1 := by decide
  have h1 : (1#1 ++ 0#5 : BitVec 6).extractLsb' 0 1 = 0#1 := by decide
  rw [h0, h1]
  rfl
theorem pget (d) : Statement (.pget d) := of_parts rfl rfl rfl
theorem ctlGet (d idx) : Statement (.ctlGet d idx) := by
  refine of_parts rfl rfl ?_
  refine (arm_47 { d := d, imm := 0#36 ++ idx }).trans ?_
  dsimp only
  have h0 : (0#36 ++ idx : BitVec 48).extractLsb' 0 12 = idx := extract_low (0#36) idx
  rw [h0]
theorem ctlSet (a idx) : Statement (.ctlSet a idx) := by
  refine of_parts rfl rfl ?_
  refine (arm_48 { a := a, imm := 0#36 ++ idx }).trans ?_
  dsimp only
  have h0 : (0#36 ++ idx : BitVec 48).extractLsb' 0 12 = idx := extract_low (0#36) idx
  rw [h0]
theorem ctlSwap (d a idx) : Statement (.ctlSwap d a idx) := by
  refine of_parts rfl rfl ?_
  refine (arm_49 { d := d, a := a, imm := 0#36 ++ idx }).trans ?_
  dsimp only
  have h0 : (0#36 ++ idx : BitVec 48).extractLsb' 0 12 = idx := extract_low (0#36) idx
  rw [h0]
theorem fence (scp) : Statement (.fence scp) := by
  refine of_parts rfl rfl ?_
  refine (arm_4A { x := 0#1 ++ 0#2 ++ scp.toBits }).trans ?_
  dsimp only
  have h0 : (0#1 ++ 0#2 ++ scp.toBits : BitVec 6).extractLsb' 3 2 = 0#2 := (extract_high (0#1 ++ 0#2) scp.toBits 3 2 (by decide)).trans (extract_low (0#1) 0#2)
  have h1 : (0#1 ++ 0#2 ++ scp.toBits : BitVec 6).extractLsb' 0 3 = scp.toBits := extract_low (0#1 ++ 0#2) scp.toBits
  rw [h0, h1, fscope_back]
  rfl
theorem fenceAcq (scp) : Statement (.fenceAcq scp) := by
  refine of_parts rfl rfl ?_
  refine (arm_4A { x := 0#1 ++ 1#2 ++ scp.toBits }).trans ?_
  dsimp only
  have h0 : (0#1 ++ 1#2 ++ scp.toBits : BitVec 6).extractLsb' 3 2 = 1#2 := (extract_high (0#1 ++ 1#2) scp.toBits 3 2 (by decide)).trans (extract_low (0#1) 1#2)
  have h1 : (0#1 ++ 1#2 ++ scp.toBits : BitVec 6).extractLsb' 0 3 = scp.toBits := extract_low (0#1 ++ 1#2) scp.toBits
  rw [h0, h1, fscope_back]
  rfl
theorem fenceRel (scp) : Statement (.fenceRel scp) := by
  refine of_parts rfl rfl ?_
  refine (arm_4A { x := 0#1 ++ 2#2 ++ scp.toBits }).trans ?_
  dsimp only
  have h0 : (0#1 ++ 2#2 ++ scp.toBits : BitVec 6).extractLsb' 3 2 = 2#2 := (extract_high (0#1 ++ 2#2) scp.toBits 3 2 (by decide)).trans (extract_low (0#1) 2#2)
  have h1 : (0#1 ++ 2#2 ++ scp.toBits : BitVec 6).extractLsb' 0 3 = scp.toBits := extract_low (0#1 ++ 2#2) scp.toBits
  rw [h0, h1, fscope_back]
  rfl
theorem repartHalf : Statement .repartHalf := by
  refine of_parts rfl rfl ?_
  refine (arm_4B { x := 0#4 ++ 1#2 }).trans ?_
  dsimp only
  have h0 : (0#4 ++ 1#2 : BitVec 6).extractLsb' 0 2 = 1#2 := by decide
  rw [h0]
  rfl
theorem repartDbl : Statement .repartDbl := by
  refine of_parts rfl rfl ?_
  refine (arm_4B { x := 0#4 ++ 2#2 }).trans ?_
  dsimp only
  have h0 : (0#4 ++ 2#2 : BitVec 6).extractLsb' 0 2 = 2#2 := by decide
  rw [h0]
  rfl
theorem gateUp : Statement .gateUp := by
  refine of_parts rfl rfl ?_
  refine (arm_4C { x := 0#4 ++ 0#2 }).trans ?_
  dsimp only
  have h0 : (0#4 ++ 0#2 : BitVec 6).extractLsb' 0 2 = 0#2 := by decide
  rw [h0]
  rfl
theorem gateDown : Statement .gateDown := by
  refine of_parts rfl rfl ?_
  refine (arm_4C { x := 0#4 ++ 1#2 }).trans ?_
  dsimp only
  have h0 : (0#4 ++ 1#2 : BitVec 6).extractLsb' 0 2 = 1#2 := by decide
  rw [h0]
  rfl
theorem gateFreeUp : Statement .gateFreeUp := by
  refine of_parts rfl rfl ?_
  refine (arm_4C { x := 0#4 ++ 2#2 }).trans ?_
  dsimp only
  have h0 : (0#4 ++ 2#2 : BitVec 6).extractLsb' 0 2 = 2#2 := by decide
  rw [h0]
  rfl
theorem gateFreeDown : Statement .gateFreeDown := by
  refine of_parts rfl rfl ?_
  refine (arm_4C { x := 0#4 ++ 3#2 }).trans ?_
  dsimp only
  have h0 : (0#4 ++ 3#2 : BitVec 6).extractLsb' 0 2 = 3#2 := by decide
  rw [h0]
  rfl
theorem capGet (d bit) : Statement (.capGet d bit) := by
  refine of_parts rfl rfl ?_
  refine (arm_4D { d := 0#1 ++ d, x := 0#4 ++ bit }).trans ?_
  dsimp only
  have h0 : (0#1 ++ d : BitVec 5).extractLsb' 0 4 = d := extract_low (0#1) d
  have h1 : (0#4 ++ bit : BitVec 11).extractLsb' 0 7 = bit := extract_low (0#4) bit
  rw [h0, h1]
theorem tlbInvPage (a) : Statement (.tlbInvPage a) := by
  refine of_parts rfl rfl ?_
  refine (arm_4E { a := a, x := 0#4 ++ 0#2 }).trans ?_
  dsimp only
  have h0 : (0#4 ++ 0#2 : BitVec 6).extractLsb' 0 2 = 0#2 := by decide
  rw [h0]
  rfl
theorem tlbInvCtx (a) : Statement (.tlbInvCtx a) := by
  refine of_parts rfl rfl ?_
  refine (arm_4E { a := a, x := 0#4 ++ 1#2 }).trans ?_
  dsimp only
  have h0 : (0#4 ++ 1#2 : BitVec 6).extractLsb' 0 2 = 1#2 := by decide
  rw [h0]
  rfl
theorem tlbInvAll : Statement .tlbInvAll := by
  refine of_parts rfl rfl ?_
  refine (arm_4E { x := 0#4 ++ 2#2 }).trans ?_
  dsimp only
  have h0 : (0#4 ++ 2#2 : BitVec 6).extractLsb' 0 2 = 2#2 := by decide
  rw [h0]
  rfl
theorem ctabLoad (a t l) : Statement (.ctabLoad a t l) := by
  refine of_parts rfl rfl ?_
  refine (arm_4F { a := a, l := l, x := 0#7 ++ t }).trans ?_
  dsimp only
  have h0 : (0#7 ++ t : BitVec 11).extractLsb' 0 4 = t := extract_low (0#7) t
  rw [h0]
theorem tableOwnerExchange : Statement .tableOwnerExchange := of_none rfl
theorem ld (d a w sx o imm) : Statement (.ld d a w sx o imm) := by
  refine of_parts rfl rfl ?_
  refine (arm_50 { d := d, a := a, x := o.toBits ++ (BitVec.ofBool sx) ++ w.toBits, imm := imm }).trans ?_
  dsimp only
  have h0 : (o.toBits ++ (BitVec.ofBool sx) ++ w.toBits : BitVec 6).extractLsb' 0 2 = w.toBits := extract_low (o.toBits ++ (BitVec.ofBool sx)) w.toBits
  have h1 : (o.toBits ++ (BitVec.ofBool sx) ++ w.toBits : BitVec 6).extractLsb' 3 3 = o.toBits := (extract_high (o.toBits ++ (BitVec.ofBool sx)) w.toBits 3 3 (by decide)).trans ((extract_high (o.toBits) (BitVec.ofBool sx) 1 3 (by decide)).trans (BitVec.extractLsb'_eq_self))
  have h2 : (o.toBits ++ (BitVec.ofBool sx) ++ w.toBits : BitVec 6).extractLsb' 2 1 = (BitVec.ofBool sx) := (extract_high (o.toBits ++ (BitVec.ofBool sx)) w.toBits 2 1 (by decide)).trans (extract_low (o.toBits) (BitVec.ofBool sx))
  rw [h0, h1, h2, width_back, bool_bit, memOrd_back]
  rfl
theorem st (d a w o imm) : Statement (.st d a w o imm) := by
  refine of_parts rfl rfl ?_
  refine (arm_51 { d := d, a := a, x := o.toBits ++ 0#1 ++ w.toBits, imm := imm }).trans ?_
  dsimp only
  have h0 : (o.toBits ++ 0#1 ++ w.toBits : BitVec 6).extractLsb' 0 2 = w.toBits := extract_low (o.toBits ++ 0#1) w.toBits
  have h1 : (o.toBits ++ 0#1 ++ w.toBits : BitVec 6).extractLsb' 3 3 = o.toBits := (extract_high (o.toBits ++ 0#1) w.toBits 3 3 (by decide)).trans ((extract_high (o.toBits) 0#1 1 3 (by decide)).trans (BitVec.extractLsb'_eq_self))
  rw [h0, h1, width_back, memOrd_back]
  rfl
theorem ldv (vd a k imm o l) : Statement (.ldv vd a k imm o l) := by
  refine of_parts rfl rfl ?_
  refine (arm_52 { vd := vd, va := 0#1 ++ a, k := k, l := l, x := 0#2 ++ o.toBits ++ imm }).trans ?_
  dsimp only
  have h0 : (0#2 ++ o.toBits ++ imm : BitVec 31).extractLsb' 26 3 = o.toBits := (extract_high (0#2 ++ o.toBits) imm 26 3 (by decide)).trans (extract_low (0#2) o.toBits)
  have h1 : (0#1 ++ a : BitVec 6).extractLsb' 0 5 = a := extract_low (0#1) a
  have h2 : (0#2 ++ o.toBits ++ imm : BitVec 31).extractLsb' 0 26 = imm := extract_low (0#2 ++ o.toBits) imm
  rw [h0, h1, h2, memOrd_back]
  rfl
theorem stv (vd a k imm o l) : Statement (.stv vd a k imm o l) := by
  refine of_parts rfl rfl ?_
  refine (arm_53 { vd := vd, va := 0#1 ++ a, k := k, l := l, x := 0#2 ++ o.toBits ++ imm }).trans ?_
  dsimp only
  have h0 : (0#2 ++ o.toBits ++ imm : BitVec 31).extractLsb' 26 3 = o.toBits := (extract_high (0#2 ++ o.toBits) imm 26 3 (by decide)).trans (extract_low (0#2) o.toBits)
  have h1 : (0#1 ++ a : BitVec 6).extractLsb' 0 5 = a := extract_low (0#1) a
  have h2 : (0#2 ++ o.toBits ++ imm : BitVec 31).extractLsb' 0 26 = imm := extract_low (0#2 ++ o.toBits) imm
  rw [h0, h1, h2, memOrd_back]
  rfl
theorem gath (vd a vb k w sh o l) : Statement (.gath vd a vb k w sh o l) := by
  refine of_parts rfl rfl ?_
  refine (arm_54 { vd := vd, va := 0#1 ++ a, vb := vb, k := k, l := l, x := 0#24 ++ o.toBits ++ sh ++ w.toBits }).trans ?_
  dsimp only
  have h0 : (0#24 ++ o.toBits ++ sh ++ w.toBits : BitVec 31).extractLsb' 0 2 = w.toBits := extract_low (0#24 ++ o.toBits ++ sh) w.toBits
  have h1 : (0#24 ++ o.toBits ++ sh ++ w.toBits : BitVec 31).extractLsb' 4 3 = o.toBits := (extract_high (0#24 ++ o.toBits ++ sh) w.toBits 4 3 (by decide)).trans ((extract_high (0#24 ++ o.toBits) sh 2 3 (by decide)).trans (extract_low (0#24) o.toBits))
  have h2 : (0#1 ++ a : BitVec 6).extractLsb' 0 5 = a := extract_low (0#1) a
  have h3 : (0#24 ++ o.toBits ++ sh ++ w.toBits : BitVec 31).extractLsb' 2 2 = sh := (extract_high (0#24 ++ o.toBits ++ sh) w.toBits 2 2 (by decide)).trans (extract_low (0#24 ++ o.toBits) sh)
  rw [h0, h1, h2, h3, width_back, memOrd_back]
  rfl
theorem scat (vd a vb k w sh o l) : Statement (.scat vd a vb k w sh o l) := by
  refine of_parts rfl rfl ?_
  refine (arm_55 { vd := vd, va := 0#1 ++ a, vb := vb, k := k, l := l, x := 0#24 ++ o.toBits ++ sh ++ w.toBits }).trans ?_
  dsimp only
  have h0 : (0#24 ++ o.toBits ++ sh ++ w.toBits : BitVec 31).extractLsb' 0 2 = w.toBits := extract_low (0#24 ++ o.toBits ++ sh) w.toBits
  have h1 : (0#24 ++ o.toBits ++ sh ++ w.toBits : BitVec 31).extractLsb' 4 3 = o.toBits := (extract_high (0#24 ++ o.toBits ++ sh) w.toBits 4 3 (by decide)).trans ((extract_high (0#24 ++ o.toBits) sh 2 3 (by decide)).trans (extract_low (0#24) o.toBits))
  have h2 : (0#1 ++ a : BitVec 6).extractLsb' 0 5 = a := extract_low (0#1) a
  have h3 : (0#24 ++ o.toBits ++ sh ++ w.toBits : BitVec 31).extractLsb' 2 2 = sh := (extract_high (0#24 ++ o.toBits ++ sh) w.toBits 2 2 (by decide)).trans (extract_low (0#24 ++ o.toBits) sh)
  rw [h0, h1, h2, h3, width_back, memOrd_back]
  rfl
theorem lr (d a dbl o l) : Statement (.lr d a dbl o l) := by
  refine of_parts rfl rfl ?_
  refine (arm_56 { d := d, a := a, l := l, x := 0#7 ++ o.toBits ++ (BitVec.ofBool dbl) }).trans ?_
  dsimp only
  have h0 : (0#7 ++ o.toBits ++ (BitVec.ofBool dbl) : BitVec 11).extractLsb' 1 3 = o.toBits := (extract_high (0#7 ++ o.toBits) (BitVec.ofBool dbl) 1 3 (by decide)).trans (extract_low (0#7) o.toBits)
  have h1 : (0#7 ++ o.toBits ++ (BitVec.ofBool dbl) : BitVec 11).extractLsb' 0 1 = (BitVec.ofBool dbl) := extract_low (0#7 ++ o.toBits) (BitVec.ofBool dbl)
  rw [h0, h1, bool_bit, memOrd_back]
  rfl
theorem sc (d a dbl o p l) : Statement (.sc d a dbl o p l) := by
  refine of_parts rfl rfl ?_
  refine (arm_57 { d := d, a := a, l := l, x := 0#3 ++ p ++ o.toBits ++ (BitVec.ofBool dbl) }).trans ?_
  dsimp only
  have h0 : (0#3 ++ p ++ o.toBits ++ (BitVec.ofBool dbl) : BitVec 11).extractLsb' 1 3 = o.toBits := (extract_high (0#3 ++ p ++ o.toBits) (BitVec.ofBool dbl) 1 3 (by decide)).trans (extract_low (0#3 ++ p) o.toBits)
  have h1 : (0#3 ++ p ++ o.toBits ++ (BitVec.ofBool dbl) : BitVec 11).extractLsb' 0 1 = (BitVec.ofBool dbl) := extract_low (0#3 ++ p ++ o.toBits) (BitVec.ofBool dbl)
  have h2 : (0#3 ++ p ++ o.toBits ++ (BitVec.ofBool dbl) : BitVec 11).extractLsb' 4 4 = p := (extract_high (0#3 ++ p ++ o.toBits) (BitVec.ofBool dbl) 4 4 (by decide)).trans ((extract_high (0#3 ++ p) o.toBits 3 4 (by decide)).trans (extract_low (0#3) p))
  rw [h0, h1, h2, bool_bit, memOrd_back]
  rfl
theorem amo (d a b op dbl o l) : Statement (.amo d a b op dbl o l) := by
  refine of_parts rfl rfl ?_
  refine (arm_58 { d := d, a := a, b := b, l := l, x := 0#1 ++ o.toBits ++ (BitVec.ofBool dbl) ++ op.toBits }).trans ?_
  dsimp only
  have h0 : (0#1 ++ o.toBits ++ (BitVec.ofBool dbl) ++ op.toBits : BitVec 11).extractLsb' 0 4 = op.toBits := extract_low (0#1 ++ o.toBits ++ (BitVec.ofBool dbl)) op.toBits
  have h1 : (0#1 ++ o.toBits ++ (BitVec.ofBool dbl) ++ op.toBits : BitVec 11).extractLsb' 5 5 = o.toBits := (extract_high (0#1 ++ o.toBits ++ (BitVec.ofBool dbl)) op.toBits 5 5 (by decide)).trans ((extract_high (0#1 ++ o.toBits) (BitVec.ofBool dbl) 1 5 (by decide)).trans (extract_low (0#1) o.toBits))
  have h2 : (0#1 ++ o.toBits ++ (BitVec.ofBool dbl) ++ op.toBits : BitVec 11).extractLsb' 4 1 = (BitVec.ofBool dbl) := (extract_high (0#1 ++ o.toBits ++ (BitVec.ofBool dbl)) op.toBits 4 1 (by decide)).trans (extract_low (0#1 ++ o.toBits) (BitVec.ofBool dbl))
  rw [h0, h1, h2, amoOp_back, bool_bit, amoOrd_back]
  rfl
theorem vamo (vd a vb vc k op dbl o l) : Statement (.vamo vd a vb vc k op dbl o l) := by
  refine of_parts rfl rfl ?_
  refine (arm_59 { vd := vd, va := 0#1 ++ a, vb := vb, vc := vc, k := k, l := l, x := 0#21 ++ o.toBits ++ (BitVec.ofBool dbl) ++ op.toBits }).trans ?_
  dsimp only
  have h0 : (0#21 ++ o.toBits ++ (BitVec.ofBool dbl) ++ op.toBits : BitVec 31).extractLsb' 0 4 = op.toBits := extract_low (0#21 ++ o.toBits ++ (BitVec.ofBool dbl)) op.toBits
  have h1 : (0#21 ++ o.toBits ++ (BitVec.ofBool dbl) ++ op.toBits : BitVec 31).extractLsb' 5 5 = o.toBits := (extract_high (0#21 ++ o.toBits ++ (BitVec.ofBool dbl)) op.toBits 5 5 (by decide)).trans ((extract_high (0#21 ++ o.toBits) (BitVec.ofBool dbl) 1 5 (by decide)).trans (extract_low (0#21) o.toBits))
  have h2 : (0#1 ++ a : BitVec 6).extractLsb' 0 5 = a := extract_low (0#1) a
  have h3 : (0#21 ++ o.toBits ++ (BitVec.ofBool dbl) ++ op.toBits : BitVec 31).extractLsb' 4 1 = (BitVec.ofBool dbl) := (extract_high (0#21 ++ o.toBits ++ (BitVec.ofBool dbl)) op.toBits 4 1 (by decide)).trans (extract_low (0#21 ++ o.toBits) (BitVec.ofBool dbl))
  rw [h0, h1, h2, h3, amoOp_back, bool_bit, amoOrd_back]
  rfl
theorem wrs (a) : Statement (.wrs a) := of_parts rfl rfl rfl
theorem walk (a) : Statement (.walk a) := of_parts rfl rfl rfl
theorem walkHome : Statement .walkHome := of_parts rfl rfl rfl
theorem walkContextArrival : Statement .walkContextArrival := of_none rfl
theorem arrivalPlacement : Statement .arrivalPlacement := of_none rfl
theorem remoteAccessRequest : Statement .remoteAccessRequest := of_none rfl
theorem proxiedAccessRequest : Statement .proxiedAccessRequest := of_none rfl
theorem accessResponse : Statement .accessResponse := of_none rfl
theorem amoQueueHead : Statement .amoQueueHead := of_none rfl
theorem amoUnitCompute : Statement .amoUnitCompute := of_none rfl
theorem amoWriteHalf : Statement .amoWriteHalf := of_none rfl
theorem scQueueHead : Statement .scQueueHead := of_none rfl
theorem orderedTaskCommit : Statement .orderedTaskCommit := of_none rfl
theorem qmap (n id) : Statement (.qmap n id) := by
  refine of_parts rfl rfl ?_
  refine (arm_60 { d := 0#2 ++ n, x := 0#3 ++ id }).trans ?_
  dsimp only
  have h0 : (0#2 ++ n : BitVec 5).extractLsb' 0 3 = n := extract_low (0#2) n
  have h1 : (0#3 ++ id : BitVec 11).extractLsb' 0 8 = id := extract_low (0#3) id
  rw [h0, h1]
theorem qfree (d n) : Statement (.qfree d n) := by
  refine of_parts rfl rfl ?_
  refine (arm_61 { d := d, a := 0#2 ++ n }).trans ?_
  dsimp only
  have h0 : (0#2 ++ n : BitVec 5).extractLsb' 0 3 = n := extract_low (0#2) n
  rw [h0]
theorem qlen (d n) : Statement (.qlen d n) := by
  refine of_parts rfl rfl ?_
  refine (arm_62 { d := d, a := 0#2 ++ n }).trans ?_
  dsimp only
  have h0 : (0#2 ++ n : BitVec 5).extractLsb' 0 3 = n := extract_low (0#2) n
  rw [h0]
theorem qpeek (d n) : Statement (.qpeek d n) := by
  refine of_parts rfl rfl ?_
  refine (arm_63 { d := d, a := 0#2 ++ n }).trans ?_
  dsimp only
  have h0 : (0#2 ++ n : BitVec 5).extractLsb' 0 3 = n := extract_low (0#2) n
  rw [h0]
theorem qtry (d n p) : Statement (.qtry d n p) := by
  refine of_parts rfl rfl ?_
  refine (arm_64 { d := d, a := 0#2 ++ n, x := 0#7 ++ p }).trans ?_
  dsimp only
  have h0 : (0#2 ++ n : BitVec 5).extractLsb' 0 3 = n := extract_low (0#2) n
  have h1 : (0#7 ++ p : BitVec 11).extractLsb' 0 4 = p := extract_low (0#7) p
  rw [h0, h1]
theorem qput (n a p) : Statement (.qput n a p) := by
  refine of_parts rfl rfl ?_
  refine (arm_65 { d := 0#2 ++ n, a := a, x := 0#7 ++ p }).trans ?_
  dsimp only
  have h0 : (0#2 ++ n : BitVec 5).extractLsb' 0 3 = n := extract_low (0#2) n
  have h1 : (0#7 ++ p : BitVec 11).extractLsb' 0 4 = p := extract_low (0#7) p
  rw [h0, h1]
theorem qclose (n) : Statement (.qclose n) := by
  refine of_parts rfl rfl ?_
  refine (arm_66 { d := 0#2 ++ n }).trans ?_
  dsimp only
  have h0 : (0#2 ++ n : BitVec 5).extractLsb' 0 3 = n := extract_low (0#2) n
  rw [h0]
theorem fifoEntryArrival : Statement .fifoEntryArrival := of_none rfl
theorem fifoPopReport : Statement .fifoPopReport := of_none rfl
theorem networkQueueArrival : Statement .networkQueueArrival := of_none rfl
theorem gradientEntryArrival : Statement .gradientEntryArrival := of_none rfl
theorem gradientWindowUpdate : Statement .gradientWindowUpdate := of_none rfl
theorem barInit (a id) : Statement (.barInit a id) := by
  refine of_parts rfl rfl ?_
  refine (arm_67 { a := a, x := 0#2 ++ id }).trans ?_
  dsimp only
  have h0 : (0#2 ++ id : BitVec 11).extractLsb' 0 9 = id := extract_low (0#2) id
  rw [h0]
theorem barJoin (id) : Statement (.barJoin id) := by
  refine of_parts rfl rfl ?_
  refine (arm_68 { x := 0#2 ++ id }).trans ?_
  dsimp only
  have h0 : (0#2 ++ id : BitVec 11).extractLsb' 0 9 = id := extract_low (0#2) id
  rw [h0]
theorem barArr (id) : Statement (.barArr id) := by
  refine of_parts rfl rfl ?_
  refine (arm_69 { x := 0#2 ++ id }).trans ?_
  dsimp only
  have h0 : (0#2 ++ id : BitVec 11).extractLsb' 0 9 = id := extract_low (0#2) id
  rw [h0]
theorem barDrop (id) : Statement (.barDrop id) := by
  refine of_parts rfl rfl ?_
  refine (arm_6A { x := 0#2 ++ id }).trans ?_
  dsimp only
  have h0 : (0#2 ++ id : BitVec 11).extractLsb' 0 9 = id := extract_low (0#2) id
  rw [h0]
theorem barLeave (id) : Statement (.barLeave id) := by
  refine of_parts rfl rfl ?_
  refine (arm_6F { x := 0#2 ++ id }).trans ?_
  dsimp only
  have h0 : (0#2 ++ id : BitVec 11).extractLsb' 0 9 = id := extract_low (0#2) id
  rw [h0]
theorem barExp (a id) : Statement (.barExp a id) := by
  refine of_parts rfl rfl ?_
  refine (arm_6D { a := a, x := 0#2 ++ id }).trans ?_
  dsimp only
  have h0 : (0#2 ++ id : BitVec 11).extractLsb' 0 9 = id := extract_low (0#2) id
  rw [h0]
theorem barWait (id) : Statement (.barWait id) := by
  refine of_parts rfl rfl ?_
  refine (arm_6B { x := 0#2 ++ id }).trans ?_
  dsimp only
  have h0 : (0#2 ++ id : BitVec 11).extractLsb' 0 9 = id := extract_low (0#2) id
  rw [h0]
theorem barTry (d id) : Statement (.barTry d id) := by
  refine of_parts rfl rfl ?_
  refine (arm_6C { d := 0#1 ++ d, x := 0#2 ++ id }).trans ?_
  dsimp only
  have h0 : (0#1 ++ d : BitVec 5).extractLsb' 0 4 = d := extract_low (0#1) d
  have h1 : (0#2 ++ id : BitVec 11).extractLsb' 0 9 = id := extract_low (0#2) id
  rw [h0, h1]
theorem barBits (d id) : Statement (.barBits d id) := by
  refine of_parts rfl rfl ?_
  refine (arm_6E { d := d, x := 0#2 ++ id }).trans ?_
  dsimp only
  have h0 : (0#2 ++ id : BitVec 11).extractLsb' 0 9 = id := extract_low (0#2) id
  rw [h0]
theorem wideBarrierArrival : Statement .wideBarrierArrival := of_none rfl
theorem wideBarrierCompletion : Statement .wideBarrierCompletion := of_none rfl
theorem quadGated : Statement .quadGated := of_none rfl
theorem quadWakeComplete : Statement .quadWakeComplete := of_none rfl
theorem ltGet (d c) : Statement (.ltGet d c) := by
  refine of_parts rfl rfl ?_
  refine (arm_73 { d := d, x := 0#4 ++ c }).trans ?_
  dsimp only
  have h0 : (0#4 ++ c : BitVec 6).extractLsb' 0 2 = c := extract_low (0#4) c
  rw [h0]
theorem ltEnter : Statement .ltEnter := of_parts rfl rfl rfl
theorem ltLeave : Statement .ltLeave := of_parts rfl rfl rfl
theorem ltStep : Statement .ltStep := of_parts rfl rfl rfl
theorem spawn (d a l) : Statement (.spawn d a l) := by
  refine of_parts rfl rfl ?_
  refine (arm_70 { d := d, a := a, l := l, x := 0#10 ++ 0#1 }).trans ?_
  dsimp only
  have h0 : (0#10 ++ 0#1 : BitVec 11).extractLsb' 0 1 = 0#1 := by decide
  rw [h0]
  rfl
theorem spawnLight (d a l) : Statement (.spawnLight d a l) := by
  refine of_parts rfl rfl ?_
  refine (arm_70 { d := d, a := a, l := l, x := 0#10 ++ 1#1 }).trans ?_
  dsimp only
  have h0 : (0#10 ++ 1#1 : BitVec 11).extractLsb' 0 1 = 1#1 := by decide
  rw [h0]
  rfl
theorem ordSpawn (d a l) : Statement (.ordSpawn d a l) := by
  refine of_parts rfl rfl ?_
  refine (arm_71 { d := d, a := a, l := l, x := 0#10 ++ 0#1 }).trans ?_
  dsimp only
  have h0 : (0#10 ++ 0#1 : BitVec 11).extractLsb' 0 1 = 0#1 := by decide
  rw [h0]
  rfl
theorem ordSpawnLight (d a l) : Statement (.ordSpawnLight d a l) := by
  refine of_parts rfl rfl ?_
  refine (arm_71 { d := d, a := a, l := l, x := 0#10 ++ 1#1 }).trans ?_
  dsimp only
  have h0 : (0#10 ++ 1#1 : BitVec 11).extractLsb' 0 1 = 1#1 := by decide
  rw [h0]
  rfl
theorem launch (d a l) : Statement (.launch d a l) := by
  refine of_parts rfl rfl ?_
  refine (arm_72 { d := 0#1 ++ d, a := a, l := l }).trans ?_
  dsimp only
  have h0 : (0#1 ++ d : BitVec 5).extractLsb' 0 4 = d := extract_low (0#1) d
  rw [h0]
theorem tcapHold (a stg) : Statement (.tcapHold a stg) := by
  refine of_parts rfl rfl ?_
  refine (arm_77 { a := a, x := 0#5 ++ stg }).trans ?_
  dsimp only
  have h0 : (0#5 ++ stg : BitVec 11).extractLsb' 0 6 = stg := extract_low (0#5) stg
  rw [h0]
theorem tcapFree (a stg) : Statement (.tcapFree a stg) := by
  refine of_parts rfl rfl ?_
  refine (arm_78 { a := a, x := 0#5 ++ stg }).trans ?_
  dsimp only
  have h0 : (0#5 ++ stg : BitVec 11).extractLsb' 0 6 = stg := extract_low (0#5) stg
  rw [h0]
theorem homeRecordRequest : Statement .homeRecordRequest := of_none rfl
theorem homeRecordAnswer : Statement .homeRecordAnswer := of_none rfl
theorem plumbWait (a stg) : Statement (.plumbWait a stg) := by
  refine of_parts rfl rfl ?_
  refine (arm_79 { a := a, x := 0#5 ++ stg }).trans ?_
  dsimp only
  have h0 : (0#5 ++ stg : BitVec 11).extractLsb' 0 6 = stg := extract_low (0#5) stg
  rw [h0]
theorem plumbGet (d stg) : Statement (.plumbGet d stg) := by
  refine of_parts rfl rfl ?_
  refine (arm_7A { d := d, x := 0#5 ++ stg }).trans ?_
  dsimp only
  have h0 : (0#5 ++ stg : BitVec 11).extractLsb' 0 6 = stg := extract_low (0#5) stg
  rw [h0]
theorem quadTableFlush : Statement .quadTableFlush := of_none rfl
theorem dieTableFlush : Statement .dieTableFlush := of_none rfl
theorem pointstampBatchArrival : Statement .pointstampBatchArrival := of_none rfl
theorem frontierViewUpdate : Statement .frontierViewUpdate := of_none rfl
theorem ringMatch (a e l) : Statement (.ringMatch a e l) := by
  refine of_parts rfl rfl ?_
  refine (arm_7B { a := a, l := l, x := 0#5 ++ e }).trans ?_
  dsimp only
  have h0 : (0#5 ++ e : BitVec 11).extractLsb' 0 6 = e := extract_low (0#5) e
  rw [h0]
theorem ringPut (a b perch r l) : Statement (.ringPut a b perch r l) := by
  refine of_parts rfl rfl ?_
  refine (arm_7C { a := a, b := b, l := l, x := 0#8 ++ r.toBits ++ (BitVec.ofBool perch) }).trans ?_
  dsimp only
  have h0 : (0#8 ++ r.toBits ++ (BitVec.ofBool perch) : BitVec 11).extractLsb' 1 2 = r.toBits := (extract_high (0#8 ++ r.toBits) (BitVec.ofBool perch) 1 2 (by decide)).trans (extract_low (0#8) r.toBits)
  have h1 : (0#8 ++ r.toBits ++ (BitVec.ofBool perch) : BitVec 11).extractLsb' 0 1 = (BitVec.ofBool perch) := extract_low (0#8 ++ r.toBits) (BitVec.ofBool perch)
  rw [h0, h1, bool_bit, ringKind_back]
  rfl
theorem ringTake (d a perch r l) : Statement (.ringTake d a perch r l) := by
  refine of_parts rfl rfl ?_
  refine (arm_7D { d := d, a := a, l := l, x := 0#8 ++ r.toBits ++ (BitVec.ofBool perch) }).trans ?_
  dsimp only
  have h0 : (0#8 ++ r.toBits ++ (BitVec.ofBool perch) : BitVec 11).extractLsb' 1 2 = r.toBits := (extract_high (0#8 ++ r.toBits) (BitVec.ofBool perch) 1 2 (by decide)).trans (extract_low (0#8) r.toBits)
  have h1 : (0#8 ++ r.toBits ++ (BitVec.ofBool perch) : BitVec 11).extractLsb' 0 1 = (BitVec.ofBool perch) := extract_low (0#8 ++ r.toBits) (BitVec.ofBool perch)
  rw [h0, h1, bool_bit, ringKind_back]
  rfl
theorem ringSt (d r) : Statement (.ringSt d r) := by
  refine of_parts rfl rfl ?_
  refine (arm_7E { d := d, x := 0#8 ++ r.toBits ++ 0#1 }).trans ?_
  dsimp only
  have h0 : (0#8 ++ r.toBits ++ 0#1 : BitVec 11).extractLsb' 1 2 = r.toBits := (extract_high (0#8 ++ r.toBits) 0#1 1 2 (by decide)).trans (extract_low (0#8) r.toBits)
  rw [h0, ringKind_back]
  rfl
theorem ringDrain (r) : Statement (.ringDrain r) := by
  refine of_parts rfl rfl ?_
  refine (arm_7F { x := 0#8 ++ r.toBits ++ 0#1 }).trans ?_
  dsimp only
  have h0 : (0#8 ++ r.toBits ++ 0#1 : BitVec 11).extractLsb' 1 2 = r.toBits := (extract_high (0#8 ++ r.toBits) 0#1 1 2 (by decide)).trans (extract_low (0#8) r.toBits)
  rw [h0, ringKind_back]
  rfl
theorem ringCfg (a r l) : Statement (.ringCfg a r l) := by
  refine of_parts rfl rfl ?_
  refine (arm_87 { a := a, l := l, x := 0#8 ++ r.toBits ++ 0#1 }).trans ?_
  dsimp only
  have h0 : (0#8 ++ r.toBits ++ 0#1 : BitVec 11).extractLsb' 1 2 = r.toBits := (extract_high (0#8 ++ r.toBits) 0#1 1 2 (by decide)).trans (extract_low (0#8) r.toBits)
  rw [h0, ringKind_back]
  rfl
theorem ringStep : Statement .ringStep := of_none rfl
theorem xfer (a) : Statement (.xfer a) := of_parts rfl rfl rfl
theorem xferTry (a p) : Statement (.xferTry a p) := by
  refine of_parts rfl rfl ?_
  refine (arm_81 { a := a, x := 0#2 ++ p }).trans ?_
  dsimp only
  have h0 : (0#2 ++ p : BitVec 6).extractLsb' 0 4 = p := extract_low (0#2) p
  rw [h0]
theorem xferWp (d a) : Statement (.xferWp d a) := of_parts rfl rfl rfl
theorem xferSt (d a) : Statement (.xferSt d a) := of_parts rfl rfl rfl
theorem copyQueueRequest : Statement .copyQueueRequest := of_none rfl
theorem copyChannelStart : Statement .copyChannelStart := of_none rfl
theorem copyDelivery : Statement .copyDelivery := of_none rfl
theorem copyResume : Statement .copyResume := of_none rfl
theorem treeRecordApply : Statement .treeRecordApply := of_none rfl
theorem copyCompletion : Statement .copyCompletion := of_none rfl
theorem xferDone : Statement .xferDone := of_none rfl
theorem podDeliveryAck : Statement .podDeliveryAck := of_none rfl
theorem collPut (a grp l) : Statement (.collPut a grp l) := by
  refine of_parts rfl rfl ?_
  refine (arm_84 { a := a, l := l, x := 0#3 ++ grp }).trans ?_
  dsimp only
  have h0 : (0#3 ++ grp : BitVec 11).extractLsb' 0 8 = grp := extract_low (0#3) grp
  rw [h0]
theorem collGet (d grp l) : Statement (.collGet d grp l) := by
  refine of_parts rfl rfl ?_
  refine (arm_85 { d := d, l := l, x := 0#3 ++ grp }).trans ?_
  dsimp only
  have h0 : (0#3 ++ grp : BitVec 11).extractLsb' 0 8 = grp := extract_low (0#3) grp
  rw [h0]
theorem collAgree (d a grp l) : Statement (.collAgree d a grp l) := by
  refine of_parts rfl rfl ?_
  refine (arm_86 { d := d, a := a, l := l, x := 0#3 ++ grp }).trans ?_
  dsimp only
  have h0 : (0#3 ++ grp : BitVec 11).extractLsb' 0 8 = grp := extract_low (0#3) grp
  rw [h0]
theorem collRoundInput : Statement .collRoundInput := of_none rfl
theorem collResultReturn : Statement .collResultReturn := of_none rfl
theorem mma (acc src k fmts z l e) : Statement (.mma acc src k fmts z l e) := by
  refine of_parts rfl rfl ?_
  refine (arm_90 { acc := acc, asrc := src, k := k, l := l, e := e, r := fmts.toBits ++ (BitVec.ofBool z) ++ 0#34 }).trans ?_
  dsimp only
  have h0 : (fmts.toBits ++ (BitVec.ofBool z) ++ 0#34 : BitVec 46).extractLsb' 35 11 = fmts.toBits := (extract_high (fmts.toBits ++ (BitVec.ofBool z)) 0#34 35 11 (by decide)).trans ((extract_high (fmts.toBits) (BitVec.ofBool z) 1 11 (by decide)).trans (BitVec.extractLsb'_eq_self))
  have h1 : (fmts.toBits ++ (BitVec.ofBool z) ++ 0#34 : BitVec 46).extractLsb' 34 1 = (BitVec.ofBool z) := (extract_high (fmts.toBits ++ (BitVec.ofBool z)) 0#34 34 1 (by decide)).trans (extract_low (fmts.toBits) (BitVec.ofBool z))
  rw [h0, h1, fmtPair_back, bool_bit]
  rfl
theorem mzero (acc l e) : Statement (.mzero acc l e) := of_parts rfl rfl rfl
theorem mrd (acc src k vec row rreg cnt fc l e) : Statement (.mrd acc src k vec row rreg cnt fc l e) := by
  refine of_parts rfl rfl ?_
  refine (arm_92 { acc := acc, asrc := src, k := k, l := l, e := e, r := vec ++ row ++ (BitVec.ofBool rreg) ++ cnt ++ fc.toBits ++ 0#21 }).trans ?_
  dsimp only
  have h0 : (vec ++ row ++ (BitVec.ofBool rreg) ++ cnt ++ fc.toBits ++ 0#21 : BitVec 46).extractLsb' 21 6 = fc.toBits := (extract_high (vec ++ row ++ (BitVec.ofBool rreg) ++ cnt ++ fc.toBits) 0#21 21 6 (by decide)).trans (extract_low (vec ++ row ++ (BitVec.ofBool rreg) ++ cnt) fc.toBits)
  have h1 : (vec ++ row ++ (BitVec.ofBool rreg) ++ cnt ++ fc.toBits ++ 0#21 : BitVec 46).extractLsb' 40 6 = vec := (extract_high (vec ++ row ++ (BitVec.ofBool rreg) ++ cnt ++ fc.toBits) 0#21 40 6 (by decide)).trans ((extract_high (vec ++ row ++ (BitVec.ofBool rreg) ++ cnt) fc.toBits 19 6 (by decide)).trans ((extract_high (vec ++ row ++ (BitVec.ofBool rreg)) cnt 13 6 (by decide)).trans ((extract_high (vec ++ row) (BitVec.ofBool rreg) 7 6 (by decide)).trans ((extract_high (vec) row 6 6 (by decide)).trans (BitVec.extractLsb'_eq_self)))))
  have h2 : (vec ++ row ++ (BitVec.ofBool rreg) ++ cnt ++ fc.toBits ++ 0#21 : BitVec 46).extractLsb' 34 6 = row := (extract_high (vec ++ row ++ (BitVec.ofBool rreg) ++ cnt ++ fc.toBits) 0#21 34 6 (by decide)).trans ((extract_high (vec ++ row ++ (BitVec.ofBool rreg) ++ cnt) fc.toBits 13 6 (by decide)).trans ((extract_high (vec ++ row ++ (BitVec.ofBool rreg)) cnt 7 6 (by decide)).trans ((extract_high (vec ++ row) (BitVec.ofBool rreg) 1 6 (by decide)).trans (extract_low (vec) row))))
  have h3 : (vec ++ row ++ (BitVec.ofBool rreg) ++ cnt ++ fc.toBits ++ 0#21 : BitVec 46).extractLsb' 33 1 = (BitVec.ofBool rreg) := (extract_high (vec ++ row ++ (BitVec.ofBool rreg) ++ cnt ++ fc.toBits) 0#21 33 1 (by decide)).trans ((extract_high (vec ++ row ++ (BitVec.ofBool rreg) ++ cnt) fc.toBits 12 1 (by decide)).trans ((extract_high (vec ++ row ++ (BitVec.ofBool rreg)) cnt 6 1 (by decide)).trans (extract_low (vec ++ row) (BitVec.ofBool rreg))))
  have h4 : (vec ++ row ++ (BitVec.ofBool rreg) ++ cnt ++ fc.toBits ++ 0#21 : BitVec 46).extractLsb' 27 6 = cnt := (extract_high (vec ++ row ++ (BitVec.ofBool rreg) ++ cnt ++ fc.toBits) 0#21 27 6 (by decide)).trans ((extract_high (vec ++ row ++ (BitVec.ofBool rreg) ++ cnt) fc.toBits 6 6 (by decide)).trans (extract_low (vec ++ row ++ (BitVec.ofBool rreg)) cnt))
  rw [h0, h1, h2, h3, h4, bool_bit, fmtOpt_back]
  rfl
theorem mwr (acc src k vec row rreg cnt fc l e) : Statement (.mwr acc src k vec row rreg cnt fc l e) := by
  refine of_parts rfl rfl ?_
  refine (arm_93 { acc := acc, asrc := src, k := k, l := l, e := e, r := vec ++ row ++ (BitVec.ofBool rreg) ++ cnt ++ fc.toBits ++ 0#21 }).trans ?_
  dsimp only
  have h0 : (vec ++ row ++ (BitVec.ofBool rreg) ++ cnt ++ fc.toBits ++ 0#21 : BitVec 46).extractLsb' 21 6 = fc.toBits := (extract_high (vec ++ row ++ (BitVec.ofBool rreg) ++ cnt ++ fc.toBits) 0#21 21 6 (by decide)).trans (extract_low (vec ++ row ++ (BitVec.ofBool rreg) ++ cnt) fc.toBits)
  have h1 : (vec ++ row ++ (BitVec.ofBool rreg) ++ cnt ++ fc.toBits ++ 0#21 : BitVec 46).extractLsb' 40 6 = vec := (extract_high (vec ++ row ++ (BitVec.ofBool rreg) ++ cnt ++ fc.toBits) 0#21 40 6 (by decide)).trans ((extract_high (vec ++ row ++ (BitVec.ofBool rreg) ++ cnt) fc.toBits 19 6 (by decide)).trans ((extract_high (vec ++ row ++ (BitVec.ofBool rreg)) cnt 13 6 (by decide)).trans ((extract_high (vec ++ row) (BitVec.ofBool rreg) 7 6 (by decide)).trans ((extract_high (vec) row 6 6 (by decide)).trans (BitVec.extractLsb'_eq_self)))))
  have h2 : (vec ++ row ++ (BitVec.ofBool rreg) ++ cnt ++ fc.toBits ++ 0#21 : BitVec 46).extractLsb' 34 6 = row := (extract_high (vec ++ row ++ (BitVec.ofBool rreg) ++ cnt ++ fc.toBits) 0#21 34 6 (by decide)).trans ((extract_high (vec ++ row ++ (BitVec.ofBool rreg) ++ cnt) fc.toBits 13 6 (by decide)).trans ((extract_high (vec ++ row ++ (BitVec.ofBool rreg)) cnt 7 6 (by decide)).trans ((extract_high (vec ++ row) (BitVec.ofBool rreg) 1 6 (by decide)).trans (extract_low (vec) row))))
  have h3 : (vec ++ row ++ (BitVec.ofBool rreg) ++ cnt ++ fc.toBits ++ 0#21 : BitVec 46).extractLsb' 33 1 = (BitVec.ofBool rreg) := (extract_high (vec ++ row ++ (BitVec.ofBool rreg) ++ cnt ++ fc.toBits) 0#21 33 1 (by decide)).trans ((extract_high (vec ++ row ++ (BitVec.ofBool rreg) ++ cnt) fc.toBits 12 1 (by decide)).trans ((extract_high (vec ++ row ++ (BitVec.ofBool rreg)) cnt 6 1 (by decide)).trans (extract_low (vec ++ row) (BitVec.ofBool rreg))))
  have h4 : (vec ++ row ++ (BitVec.ofBool rreg) ++ cnt ++ fc.toBits ++ 0#21 : BitVec 46).extractLsb' 27 6 = cnt := (extract_high (vec ++ row ++ (BitVec.ofBool rreg) ++ cnt ++ fc.toBits) 0#21 27 6 (by decide)).trans ((extract_high (vec ++ row ++ (BitVec.ofBool rreg) ++ cnt) fc.toBits 6 6 (by decide)).trans (extract_low (vec ++ row ++ (BitVec.ofBool rreg)) cnt))
  rw [h0, h1, h2, h3, h4, bool_bit, fmtOpt_back]
  rfl
theorem msave (acc a l) : Statement (.msave acc a l) := of_parts rfl rfl rfl
theorem mrest (acc a l) : Statement (.mrest acc a l) := of_parts rfl rfl rfl
theorem bld (a len line bank cnt l e) : Statement (.bld a len line bank cnt l e) := by
  refine of_parts rfl rfl ?_
  refine (arm_96 { asrc := a, k := len, l := l, e := e, r := line ++ bank ++ cnt ++ 0#23 }).trans ?_
  dsimp only
  have h0 : (line ++ bank ++ cnt ++ 0#23 : BitVec 46).extractLsb' 35 11 = line := (extract_high (line ++ bank ++ cnt) 0#23 35 11 (by decide)).trans ((extract_high (line ++ bank) cnt 12 11 (by decide)).trans ((extract_high (line) bank 6 11 (by decide)).trans (BitVec.extractLsb'_eq_self)))
  have h1 : (line ++ bank ++ cnt ++ 0#23 : BitVec 46).extractLsb' 29 6 = bank := (extract_high (line ++ bank ++ cnt) 0#23 29 6 (by decide)).trans ((extract_high (line ++ bank) cnt 6 6 (by decide)).trans (extract_low (line) bank))
  have h2 : (line ++ bank ++ cnt ++ 0#23 : BitVec 46).extractLsb' 23 6 = cnt := (extract_high (line ++ bank ++ cnt) 0#23 23 6 (by decide)).trans (extract_low (line ++ bank) cnt)
  rw [h0, h1, h2]
theorem bsel (a acc) : Statement (.bsel a acc) := by
  refine of_parts rfl rfl ?_
  refine (arm_97 { a := a, x := 0#9 ++ acc }).trans ?_
  dsimp only
  have h0 : (0#9 ++ acc : BitVec 11).extractLsb' 0 2 = acc := extract_low (0#9) acc
  rw [h0]
theorem mcfgSrc (a) : Statement (.mcfgSrc a) := by
  refine of_parts rfl rfl ?_
  refine (arm_98 { a := a, x := 0#8 ++ 0#3 }).trans ?_
  dsimp only
  have h0 : (0#8 ++ 0#3 : BitVec 11).extractLsb' 0 3 = 0#3 := by decide
  rw [h0]
  rfl
theorem mcfgStride (a) : Statement (.mcfgStride a) := by
  refine of_parts rfl rfl ?_
  refine (arm_98 { a := a, x := 0#8 ++ 1#3 }).trans ?_
  dsimp only
  have h0 : (0#8 ++ 1#3 : BitVec 11).extractLsb' 0 3 = 1#3 := by decide
  rw [h0]
  rfl
theorem mcfgGo (a) : Statement (.mcfgGo a) := by
  refine of_parts rfl rfl ?_
  refine (arm_98 { a := a, x := 0#8 ++ 2#3 }).trans ?_
  dsimp only
  have h0 : (0#8 ++ 2#3 : BitVec 11).extractLsb' 0 3 = 2#3 := by decide
  rw [h0]
  rfl
theorem mcfgStop : Statement .mcfgStop := by
  refine of_parts rfl rfl ?_
  refine (arm_98 { x := 0#8 ++ 3#3 }).trans ?_
  dsimp only
  have h0 : (0#8 ++ 3#3 : BitVec 11).extractLsb' 0 3 = 3#3 := by decide
  rw [h0]
  rfl
theorem feederPush : Statement .feederPush := of_none rfl
theorem mxp (n l e) : Statement (.mxp n l e) := by
  refine of_parts rfl rfl ?_
  refine (arm_99 { l := l, e := e, x := 0#7 ++ n }).trans ?_
  dsimp only
  have h0 : (0#7 ++ n : BitVec 11).extractLsb' 0 4 = n := extract_low (0#7) n
  rw [h0]
theorem mxpTab (a l) : Statement (.mxpTab a l) := of_parts rfl rfl rfl
theorem mwait (acc) : Statement (.mwait acc) := by
  refine of_parts rfl rfl ?_
  refine (arm_9B { x := 0#4 ++ acc }).trans ?_
  dsimp only
  have h0 : (0#4 ++ acc : BitVec 6).extractLsb' 0 2 = acc := extract_low (0#4) acc
  rw [h0]
theorem mxpExchangeStart : Statement .mxpExchangeStart := of_none rfl
theorem mxpAbandon : Statement .mxpAbandon := of_none rfl
theorem matrixOpComplete : Statement .matrixOpComplete := of_none rfl
theorem flagTrap : Statement .flagTrap := of_none rfl
theorem vadd (vd va vb k f e) : Statement (.vadd vd va vb k f e) := by
  refine of_parts rfl rfl ?_
  refine (arm_A0 { vd := vd, va := va, vb := vb, k := k, e := e, x := f.toBits }).trans ?_
  dsimp only
  rw [fmt_back]
  rfl
theorem vsub (vd va vb k f e) : Statement (.vsub vd va vb k f e) := by
  refine of_parts rfl rfl ?_
  refine (arm_A1 { vd := vd, va := va, vb := vb, k := k, e := e, x := f.toBits }).trans ?_
  dsimp only
  rw [fmt_back]
  rfl
theorem vmul (vd va vb k f e) : Statement (.vmul vd va vb k f e) := by
  refine of_parts rfl rfl ?_
  refine (arm_A2 { vd := vd, va := va, vb := vb, k := k, e := e, x := f.toBits }).trans ?_
  dsimp only
  rw [fmt_back]
  rfl
theorem vfma (vd va vb vc k f e) : Statement (.vfma vd va vb vc k f e) := by
  refine of_parts rfl rfl ?_
  refine (arm_A3 { vd := vd, va := va, vb := vb, vc := vc, k := k, e := e, x := 0#26 ++ f.toBits }).trans ?_
  dsimp only
  have h0 : (0#26 ++ f.toBits : BitVec 31).extractLsb' 0 5 = f.toBits := extract_low (0#26) f.toBits
  rw [h0, fmt_back]
  rfl
theorem vfms (vd va vb vc k f e) : Statement (.vfms vd va vb vc k f e) := by
  refine of_parts rfl rfl ?_
  refine (arm_A4 { vd := vd, va := va, vb := vb, vc := vc, k := k, e := e, x := 0#26 ++ f.toBits }).trans ?_
  dsimp only
  have h0 : (0#26 ++ f.toBits : BitVec 31).extractLsb' 0 5 = f.toBits := extract_low (0#26) f.toBits
  rw [h0, fmt_back]
  rfl
theorem vmin (vd va vb k f e) : Statement (.vmin vd va vb k f e) := by
  refine of_parts rfl rfl ?_
  refine (arm_A5 { vd := vd, va := va, vb := vb, k := k, e := e, x := f.toBits }).trans ?_
  dsimp only
  rw [fmt_back]
  rfl
theorem vmax (vd va vb k f e) : Statement (.vmax vd va vb k f e) := by
  refine of_parts rfl rfl ?_
  refine (arm_A6 { vd := vd, va := va, vb := vb, k := k, e := e, x := f.toBits }).trans ?_
  dsimp only
  rw [fmt_back]
  rfl
theorem vadds (vd va vb k f e) : Statement (.vadds vd va vb k f e) := by
  refine of_parts rfl rfl ?_
  refine (arm_A9 { vd := vd, va := va, vb := vb, k := k, e := e, x := f.toBits }).trans ?_
  dsimp only
  rw [fmt_back]
  rfl
theorem vsubs (vd va vb k f e) : Statement (.vsubs vd va vb k f e) := by
  refine of_parts rfl rfl ?_
  refine (arm_AA { vd := vd, va := va, vb := vb, k := k, e := e, x := f.toBits }).trans ?_
  dsimp only
  rw [fmt_back]
  rfl
theorem vmulh (vd va vb k f e) : Statement (.vmulh vd va vb k f e) := by
  refine of_parts rfl rfl ?_
  refine (arm_AB { vd := vd, va := va, vb := vb, k := k, e := e, x := f.toBits }).trans ?_
  dsimp only
  rw [fmt_back]
  rfl
theorem vabs (vd va k f e) : Statement (.vabs vd va k f e) := by
  refine of_parts rfl rfl ?_
  refine (arm_A7 { vd := vd, va := va, k := k, e := e, x := f.toBits }).trans ?_
  dsimp only
  rw [fmt_back]
  rfl
theorem vneg (vd va k f e) : Statement (.vneg vd va k f e) := by
  refine of_parts rfl rfl ?_
  refine (arm_A8 { vd := vd, va := va, k := k, e := e, x := f.toBits }).trans ?_
  dsimp only
  rw [fmt_back]
  rfl
theorem vdot (vd va vb vc k fp fa e) : Statement (.vdot vd va vb vc k fp fa e) := by
  refine of_parts rfl rfl ?_
  refine (arm_AC { vd := vd, va := va, vb := vb, vc := vc, k := k, e := e, x := 0#21 ++ fa.toBits ++ fp.toBits }).trans ?_
  dsimp only
  have h0 : (0#21 ++ fa.toBits ++ fp.toBits : BitVec 31).extractLsb' 0 5 = fp.toBits := extract_low (0#21 ++ fa.toBits) fp.toBits
  have h1 : (0#21 ++ fa.toBits ++ fp.toBits : BitVec 31).extractLsb' 5 5 = fa.toBits := (extract_high (0#21 ++ fa.toBits) fp.toBits 5 5 (by decide)).trans (extract_low (0#21) fa.toBits)
  rw [h0, h1, fmt_back, fmt_back]
  rfl
theorem vand (vd va vb k e) : Statement (.vand vd va vb k e) := of_parts rfl rfl rfl
theorem vor (vd va vb k e) : Statement (.vor vd va vb k e) := of_parts rfl rfl rfl
theorem vxor (vd va vb k e) : Statement (.vxor vd va vb k e) := of_parts rfl rfl rfl
theorem vnot (vd va k e) : Statement (.vnot vd va k e) := of_parts rfl rfl rfl
theorem vshl (vd va vb k f e) : Statement (.vshl vd va vb k f e) := by
  refine of_parts rfl rfl ?_
  refine (arm_B1 { vd := vd, va := va, vb := vb, k := k, e := e, x := f.toBits }).trans ?_
  dsimp only
  rw [fmt_back]
  rfl
theorem vshr (vd va vb k f e) : Statement (.vshr vd va vb k f e) := by
  refine of_parts rfl rfl ?_
  refine (arm_B2 { vd := vd, va := va, vb := vb, k := k, e := e, x := f.toBits }).trans ?_
  dsimp only
  rw [fmt_back]
  rfl
theorem vsra (vd va vb k f e) : Statement (.vsra vd va vb k f e) := by
  refine of_parts rfl rfl ?_
  refine (arm_B3 { vd := vd, va := va, vb := vb, k := k, e := e, x := f.toBits }).trans ?_
  dsimp only
  rw [fmt_back]
  rfl
theorem vcmp (kd va vb k f c e) : Statement (.vcmp kd va vb k f c e) := by
  refine of_parts rfl rfl ?_
  refine (arm_B4 { vd := 0#3 ++ kd, va := va, vb := vb, k := k, e := e, x := 0#22 ++ c.toBits ++ f.toBits }).trans ?_
  dsimp only
  have h0 : (0#22 ++ c.toBits ++ f.toBits : BitVec 31).extractLsb' 0 5 = f.toBits := extract_low (0#22 ++ c.toBits) f.toBits
  have h1 : (0#22 ++ c.toBits ++ f.toBits : BitVec 31).extractLsb' 5 4 = c.toBits := (extract_high (0#22 ++ c.toBits) f.toBits 5 4 (by decide)).trans (extract_low (0#22) c.toBits)
  have h2 : (0#3 ++ kd : BitVec 6).extractLsb' 0 3 = kd := extract_low (0#3) kd
  rw [h0, h1, h2, fmt_back, cond_back]
  rfl
theorem vsel (vd va vb k e) : Statement (.vsel vd va vb k e) := of_parts rfl rfl rfl
theorem vcvt (vd va k fd fs e) : Statement (.vcvt vd va k fd fs e) := by
  refine of_parts rfl rfl ?_
  refine (arm_B6 { vd := vd, va := va, k := k, e := e, x := 0#21 ++ fs.toBits ++ fd.toBits }).trans ?_
  dsimp only
  have h0 : (0#21 ++ fs.toBits ++ fd.toBits : BitVec 31).extractLsb' 0 5 = fd.toBits := extract_low (0#21 ++ fs.toBits) fd.toBits
  have h1 : (0#21 ++ fs.toBits ++ fd.toBits : BitVec 31).extractLsb' 5 5 = fs.toBits := (extract_high (0#21 ++ fs.toBits) fd.toBits 5 5 (by decide)).trans (extract_low (0#21) fs.toBits)
  rw [h0, h1, fmt_back, fmt_back]
  rfl
theorem vpack (vd va vb k fd fs e) : Statement (.vpack vd va vb k fd fs e) := by
  refine of_parts rfl rfl ?_
  refine (arm_B7 { vd := vd, va := va, vb := vb, k := k, e := e, x := 0#21 ++ fs.toBits ++ fd.toBits }).trans ?_
  dsimp only
  have h0 : (0#21 ++ fs.toBits ++ fd.toBits : BitVec 31).extractLsb' 0 5 = fd.toBits := extract_low (0#21 ++ fs.toBits) fd.toBits
  have h1 : (0#21 ++ fs.toBits ++ fd.toBits : BitVec 31).extractLsb' 5 5 = fs.toBits := (extract_high (0#21 ++ fs.toBits) fd.toBits 5 5 (by decide)).trans (extract_low (0#21) fs.toBits)
  rw [h0, h1, fmt_back, fmt_back]
  rfl
theorem vunpk (vd va k fd fs hi e) : Statement (.vunpk vd va k fd fs hi e) := by
  refine of_parts rfl rfl ?_
  refine (arm_B8 { vd := vd, va := va, k := k, e := e, x := 0#20 ++ (BitVec.ofBool hi) ++ fs.toBits ++ fd.toBits }).trans ?_
  dsimp only
  have h0 : (0#20 ++ (BitVec.ofBool hi) ++ fs.toBits ++ fd.toBits : BitVec 31).extractLsb' 0 5 = fd.toBits := extract_low (0#20 ++ (BitVec.ofBool hi) ++ fs.toBits) fd.toBits
  have h1 : (0#20 ++ (BitVec.ofBool hi) ++ fs.toBits ++ fd.toBits : BitVec 31).extractLsb' 5 5 = fs.toBits := (extract_high (0#20 ++ (BitVec.ofBool hi) ++ fs.toBits) fd.toBits 5 5 (by decide)).trans (extract_low (0#20 ++ (BitVec.ofBool hi)) fs.toBits)
  have h2 : (0#20 ++ (BitVec.ofBool hi) ++ fs.toBits ++ fd.toBits : BitVec 31).extractLsb' 10 1 = (BitVec.ofBool hi) := (extract_high (0#20 ++ (BitVec.ofBool hi) ++ fs.toBits) fd.toBits 10 1 (by decide)).trans ((extract_high (0#20 ++ (BitVec.ofBool hi)) fs.toBits 5 1 (by decide)).trans (extract_low (0#20) (BitVec.ofBool hi)))
  rw [h0, h1, h2, fmt_back, fmt_back, bool_bit]
  rfl
theorem vscl (vd va vb k f e) : Statement (.vscl vd va vb k f e) := by
  refine of_parts rfl rfl ?_
  refine (arm_B9 { vd := vd, va := va, vb := vb, k := k, e := e, x := 0#26 ++ f.toBits }).trans ?_
  dsimp only
  have h0 : (0#26 ++ f.toBits : BitVec 31).extractLsb' 0 5 = f.toBits := extract_low (0#26) f.toBits
  rw [h0, fmt_back]
  rfl
theorem vrcp (vd va k f l e) : Statement (.vrcp vd va k f l e) := by
  refine of_parts rfl rfl ?_
  refine (arm_BA { vd := vd, va := va, k := k, e := e, l := l, x := f.toBits }).trans ?_
  dsimp only
  rw [fmt_back]
  rfl
theorem vrsq (vd va k f l e) : Statement (.vrsq vd va k f l e) := by
  refine of_parts rfl rfl ?_
  refine (arm_BB { vd := vd, va := va, k := k, e := e, l := l, x := f.toBits }).trans ?_
  dsimp only
  rw [fmt_back]
  rfl
theorem vsqrt (vd va k f l e) : Statement (.vsqrt vd va k f l e) := by
  refine of_parts rfl rfl ?_
  refine (arm_BC { vd := vd, va := va, k := k, e := e, l := l, x := f.toBits }).trans ?_
  dsimp only
  rw [fmt_back]
  rfl
theorem vexp2 (vd va k f l e) : Statement (.vexp2 vd va k f l e) := by
  refine of_parts rfl rfl ?_
  refine (arm_BD { vd := vd, va := va, k := k, e := e, l := l, x := f.toBits }).trans ?_
  dsimp only
  rw [fmt_back]
  rfl
theorem vlog2 (vd va k f l e) : Statement (.vlog2 vd va k f l e) := by
  refine of_parts rfl rfl ?_
  refine (arm_BE { vd := vd, va := va, k := k, e := e, l := l, x := f.toBits }).trans ?_
  dsimp only
  rw [fmt_back]
  rfl
theorem vsin (vd va k f l e) : Statement (.vsin vd va k f l e) := by
  refine of_parts rfl rfl ?_
  refine (arm_BF { vd := vd, va := va, k := k, e := e, l := l, x := f.toBits }).trans ?_
  dsimp only
  rw [fmt_back]
  rfl
theorem vcos (vd va k f l e) : Statement (.vcos vd va k f l e) := by
  refine of_parts rfl rfl ?_
  refine (arm_C0 { vd := vd, va := va, k := k, e := e, l := l, x := f.toBits }).trans ?_
  dsimp only
  rw [fmt_back]
  rfl
theorem vtanh (vd va k f l e) : Statement (.vtanh vd va k f l e) := by
  refine of_parts rfl rfl ?_
  refine (arm_C1 { vd := vd, va := va, k := k, e := e, l := l, x := f.toBits }).trans ?_
  dsimp only
  rw [fmt_back]
  rfl
theorem vred (vd va k f op e) : Statement (.vred vd va k f op e) := by
  refine of_parts rfl rfl ?_
  refine (arm_C2 { vd := vd, va := va, k := k, e := e, x := 0#23 ++ op.toBits ++ f.toBits }).trans ?_
  dsimp only
  have h0 : (0#23 ++ op.toBits ++ f.toBits : BitVec 31).extractLsb' 0 5 = f.toBits := extract_low (0#23 ++ op.toBits) f.toBits
  have h1 : (0#23 ++ op.toBits ++ f.toBits : BitVec 31).extractLsb' 5 3 = op.toBits := (extract_high (0#23 ++ op.toBits) f.toBits 5 3 (by decide)).trans (extract_low (0#23) op.toBits)
  rw [h0, h1, fmt_back, redOp_back]
  rfl
theorem vscan (vd va k f op e) : Statement (.vscan vd va k f op e) := by
  refine of_parts rfl rfl ?_
  refine (arm_C3 { vd := vd, va := va, k := k, e := e, x := 0#23 ++ op.toBits ++ f.toBits }).trans ?_
  dsimp only
  have h0 : (0#23 ++ op.toBits ++ f.toBits : BitVec 31).extractLsb' 0 5 = f.toBits := extract_low (0#23 ++ op.toBits) f.toBits
  have h1 : (0#23 ++ op.toBits ++ f.toBits : BitVec 31).extractLsb' 5 3 = op.toBits := (extract_high (0#23 ++ op.toBits) f.toBits 5 3 (by decide)).trans (extract_low (0#23) op.toBits)
  rw [h0, h1, fmt_back, redOp_back]
  rfl
theorem vperm (vd va vb vc k f e) : Statement (.vperm vd va vb vc k f e) := by
  refine of_parts rfl rfl ?_
  refine (arm_C4 { vd := vd, va := va, vb := vb, vc := vc, k := k, e := e, x := 0#26 ++ f.toBits }).trans ?_
  dsimp only
  have h0 : (0#26 ++ f.toBits : BitVec 31).extractLsb' 0 5 = f.toBits := extract_low (0#26) f.toBits
  rw [h0, fmt_back]
  rfl
theorem vshuf (vd va k f pat e) : Statement (.vshuf vd va k f pat e) := by
  refine of_parts rfl rfl ?_
  refine (arm_C5 { vd := vd, va := va, k := k, e := e, x := 0#18 ++ pat.toBits ++ f.toBits }).trans ?_
  dsimp only
  have h0 : (0#18 ++ pat.toBits ++ f.toBits : BitVec 31).extractLsb' 0 5 = f.toBits := extract_low (0#18 ++ pat.toBits) f.toBits
  have h1 : (0#18 ++ pat.toBits ++ f.toBits : BitVec 31).extractLsb' 5 8 = pat.toBits := (extract_high (0#18 ++ pat.toBits) f.toBits 5 8 (by decide)).trans (extract_low (0#18) pat.toBits)
  rw [h0, h1, fmt_back, shuf_back]
  rfl
theorem vins (vd a f idx) : Statement (.vins vd a f idx) := by
  refine of_parts rfl rfl ?_
  refine (arm_C8 { vd := vd, va := 0#1 ++ a, x := 0#20 ++ idx ++ f.toBits }).trans ?_
  dsimp only
  have h0 : (0#20 ++ idx ++ f.toBits : BitVec 31).extractLsb' 0 5 = f.toBits := extract_low (0#20 ++ idx) f.toBits
  have h1 : (0#1 ++ a : BitVec 6).extractLsb' 0 5 = a := extract_low (0#1) a
  have h2 : (0#20 ++ idx ++ f.toBits : BitVec 31).extractLsb' 5 6 = idx := (extract_high (0#20 ++ idx) f.toBits 5 6 (by decide)).trans (extract_low (0#20) idx)
  rw [h0, h1, h2, fmt_back]
  rfl
theorem vmov (vd va k e) : Statement (.vmov vd va k e) := of_parts rfl rfl rfl
theorem vzero (vd k e) : Statement (.vzero vd k e) := of_parts rfl rfl rfl
theorem vclass (vd va k f e) : Statement (.vclass vd va k f e) := by
  refine of_parts rfl rfl ?_
  refine (arm_CB { vd := vd, va := va, k := k, e := e, x := f.toBits }).trans ?_
  dsimp only
  rw [fmt_back]
  rfl
theorem kand (d a b) : Statement (.kand d a b) := by
  refine of_parts rfl rfl ?_
  refine (arm_CC { vd := 0#3 ++ d, va := 0#3 ++ a, vb := 0#3 ++ b }).trans ?_
  dsimp only
  have h0 : (0#3 ++ d : BitVec 6).extractLsb' 0 3 = d := extract_low (0#3) d
  have h1 : (0#3 ++ a : BitVec 6).extractLsb' 0 3 = a := extract_low (0#3) a
  have h2 : (0#3 ++ b : BitVec 6).extractLsb' 0 3 = b := extract_low (0#3) b
  rw [h0, h1, h2]
theorem kor (d a b) : Statement (.kor d a b) := by
  refine of_parts rfl rfl ?_
  refine (arm_CD { vd := 0#3 ++ d, va := 0#3 ++ a, vb := 0#3 ++ b }).trans ?_
  dsimp only
  have h0 : (0#3 ++ d : BitVec 6).extractLsb' 0 3 = d := extract_low (0#3) d
  have h1 : (0#3 ++ a : BitVec 6).extractLsb' 0 3 = a := extract_low (0#3) a
  have h2 : (0#3 ++ b : BitVec 6).extractLsb' 0 3 = b := extract_low (0#3) b
  rw [h0, h1, h2]
theorem kxor (d a b) : Statement (.kxor d a b) := by
  refine of_parts rfl rfl ?_
  refine (arm_CE { vd := 0#3 ++ d, va := 0#3 ++ a, vb := 0#3 ++ b }).trans ?_
  dsimp only
  have h0 : (0#3 ++ d : BitVec 6).extractLsb' 0 3 = d := extract_low (0#3) d
  have h1 : (0#3 ++ a : BitVec 6).extractLsb' 0 3 = a := extract_low (0#3) a
  have h2 : (0#3 ++ b : BitVec 6).extractLsb' 0 3 = b := extract_low (0#3) b
  rw [h0, h1, h2]
theorem knot (d a) : Statement (.knot d a) := by
  refine of_parts rfl rfl ?_
  refine (arm_CF { vd := 0#3 ++ d, va := 0#3 ++ a }).trans ?_
  dsimp only
  have h0 : (0#3 ++ d : BitVec 6).extractLsb' 0 3 = d := extract_low (0#3) d
  have h1 : (0#3 ++ a : BitVec 6).extractLsb' 0 3 = a := extract_low (0#3) a
  rw [h0, h1]
theorem kmov (d a) : Statement (.kmov d a) := by
  refine of_parts rfl rfl ?_
  refine (arm_D0 { vd := 0#3 ++ d, va := 0#3 ++ a }).trans ?_
  dsimp only
  have h0 : (0#3 ++ d : BitVec 6).extractLsb' 0 3 = d := extract_low (0#3) d
  have h1 : (0#3 ++ a : BitVec 6).extractLsb' 0 3 = a := extract_low (0#3) a
  rw [h0, h1]
theorem kpop (d a) : Statement (.kpop d a) := by
  refine of_parts rfl rfl ?_
  refine (arm_D1 { vd := 0#1 ++ d, va := 0#3 ++ a }).trans ?_
  dsimp only
  have h0 : (0#1 ++ d : BitVec 6).extractLsb' 0 5 = d := extract_low (0#1) d
  have h1 : (0#3 ++ a : BitVec 6).extractLsb' 0 3 = a := extract_low (0#3) a
  rw [h0, h1]
theorem vshli (vd va k f amt e) : Statement (.vshli vd va k f amt e) := by
  refine of_parts rfl rfl ?_
  refine (arm_D2 { vd := vd, va := va, k := k, e := e, x := 0#20 ++ amt ++ f.toBits }).trans ?_
  dsimp only
  have h0 : (0#20 ++ amt ++ f.toBits : BitVec 31).extractLsb' 0 5 = f.toBits := extract_low (0#20 ++ amt) f.toBits
  have h1 : (0#20 ++ amt ++ f.toBits : BitVec 31).extractLsb' 5 6 = amt := (extract_high (0#20 ++ amt) f.toBits 5 6 (by decide)).trans (extract_low (0#20) amt)
  rw [h0, h1, fmt_back]
  rfl
theorem vshri (vd va k f amt e) : Statement (.vshri vd va k f amt e) := by
  refine of_parts rfl rfl ?_
  refine (arm_D3 { vd := vd, va := va, k := k, e := e, x := 0#20 ++ amt ++ f.toBits }).trans ?_
  dsimp only
  have h0 : (0#20 ++ amt ++ f.toBits : BitVec 31).extractLsb' 0 5 = f.toBits := extract_low (0#20 ++ amt) f.toBits
  have h1 : (0#20 ++ amt ++ f.toBits : BitVec 31).extractLsb' 5 6 = amt := (extract_high (0#20 ++ amt) f.toBits 5 6 (by decide)).trans (extract_low (0#20) amt)
  rw [h0, h1, fmt_back]
  rfl
theorem vsrai (vd va k f amt e) : Statement (.vsrai vd va k f amt e) := by
  refine of_parts rfl rfl ?_
  refine (arm_D4 { vd := vd, va := va, k := k, e := e, x := 0#20 ++ amt ++ f.toBits }).trans ?_
  dsimp only
  have h0 : (0#20 ++ amt ++ f.toBits : BitVec 31).extractLsb' 0 5 = f.toBits := extract_low (0#20 ++ amt) f.toBits
  have h1 : (0#20 ++ amt ++ f.toBits : BitVec 31).extractLsb' 5 6 = amt := (extract_high (0#20 ++ amt) f.toBits 5 6 (by decide)).trans (extract_low (0#20) amt)
  rw [h0, h1, fmt_back]
  rfl
theorem rvmul (vd va b k f e) : Statement (.rvmul vd va b k f e) := by
  refine of_parts rfl rfl ?_
  refine (arm_E0 { vd := vd, va := va, vb := 0#1 ++ b, k := k, e := e, x := 0#26 ++ f.toBits }).trans ?_
  dsimp only
  have h0 : (0#26 ++ f.toBits : BitVec 31).extractLsb' 0 5 = f.toBits := extract_low (0#26) f.toBits
  have h1 : (0#1 ++ b : BitVec 6).extractLsb' 0 5 = b := extract_low (0#1) b
  rw [h0, h1, fmt_back]
  rfl
theorem unmul (vd va b k f e) : Statement (.unmul vd va b k f e) := by
  refine of_parts rfl rfl ?_
  refine (arm_E1 { vd := vd, va := va, vb := 0#1 ++ b, k := k, e := e, x := 0#26 ++ f.toBits }).trans ?_
  dsimp only
  have h0 : (0#26 ++ f.toBits : BitVec 31).extractLsb' 0 5 = f.toBits := extract_low (0#26) f.toBits
  have h1 : (0#1 ++ b : BitVec 6).extractLsb' 0 5 = b := extract_low (0#1) b
  rw [h0, h1, fmt_back]
  rfl
theorem rvcvt (vd va k fd fs e) : Statement (.rvcvt vd va k fd fs e) := by
  refine of_parts rfl rfl ?_
  refine (arm_E2 { vd := vd, va := va, k := k, e := e, x := 0#21 ++ fs.toBits ++ fd.toBits }).trans ?_
  dsimp only
  have h0 : (0#21 ++ fs.toBits ++ fd.toBits : BitVec 31).extractLsb' 0 5 = fd.toBits := extract_low (0#21 ++ fs.toBits) fd.toBits
  have h1 : (0#21 ++ fs.toBits ++ fd.toBits : BitVec 31).extractLsb' 5 5 = fs.toBits := (extract_high (0#21 ++ fs.toBits) fd.toBits 5 5 (by decide)).trans (extract_low (0#21) fs.toBits)
  rw [h0, h1, fmt_back, fmt_back]
  rfl
theorem uncvt (vd va k fd fs e) : Statement (.uncvt vd va k fd fs e) := by
  refine of_parts rfl rfl ?_
  refine (arm_E3 { vd := vd, va := va, k := k, e := e, x := 0#21 ++ fs.toBits ++ fd.toBits }).trans ?_
  dsimp only
  have h0 : (0#21 ++ fs.toBits ++ fd.toBits : BitVec 31).extractLsb' 0 5 = fd.toBits := extract_low (0#21 ++ fs.toBits) fd.toBits
  have h1 : (0#21 ++ fs.toBits ++ fd.toBits : BitVec 31).extractLsb' 5 5 = fs.toBits := (extract_high (0#21 ++ fs.toBits) fd.toBits 5 5 (by decide)).trans (extract_low (0#21) fs.toBits)
  rw [h0, h1, fmt_back, fmt_back]
  rfl
theorem rvsra (vd va k f amt e) : Statement (.rvsra vd va k f amt e) := by
  refine of_parts rfl rfl ?_
  refine (arm_E4 { vd := vd, va := va, k := k, e := e, x := 0#20 ++ amt ++ f.toBits }).trans ?_
  dsimp only
  have h0 : (0#20 ++ amt ++ f.toBits : BitVec 31).extractLsb' 0 5 = f.toBits := extract_low (0#20 ++ amt) f.toBits
  have h1 : (0#20 ++ amt ++ f.toBits : BitVec 31).extractLsb' 5 6 = amt := (extract_high (0#20 ++ amt) f.toBits 5 6 (by decide)).trans (extract_low (0#20) amt)
  rw [h0, h1, fmt_back]
  rfl
theorem unsra (vd va k f amt e) : Statement (.unsra vd va k f amt e) := by
  refine of_parts rfl rfl ?_
  refine (arm_E5 { vd := vd, va := va, k := k, e := e, x := 0#20 ++ amt ++ f.toBits }).trans ?_
  dsimp only
  have h0 : (0#20 ++ amt ++ f.toBits : BitVec 31).extractLsb' 0 5 = f.toBits := extract_low (0#20 ++ amt) f.toBits
  have h1 : (0#20 ++ amt ++ f.toBits : BitVec 31).extractLsb' 5 6 = amt := (extract_high (0#20 ++ amt) f.toBits 5 6 (by decide)).trans (extract_low (0#20) amt)
  rw [h0, h1, fmt_back]
  rfl
theorem rvscl (vd va vb k f e) : Statement (.rvscl vd va vb k f e) := by
  refine of_parts rfl rfl ?_
  refine (arm_E6 { vd := vd, va := va, vb := vb, k := k, e := e, x := 0#26 ++ f.toBits }).trans ?_
  dsimp only
  have h0 : (0#26 ++ f.toBits : BitVec 31).extractLsb' 0 5 = f.toBits := extract_low (0#26) f.toBits
  rw [h0, fmt_back]
  rfl
theorem unscl (vd va vb k f e) : Statement (.unscl vd va vb k f e) := by
  refine of_parts rfl rfl ?_
  refine (arm_E7 { vd := vd, va := va, vb := vb, k := k, e := e, x := 0#26 ++ f.toBits }).trans ?_
  dsimp only
  have h0 : (0#26 ++ f.toBits : BitVec 31).extractLsb' 0 5 = f.toBits := extract_low (0#26) f.toBits
  rw [h0, fmt_back]
  rfl
theorem rvact (vd va k f s e) : Statement (.rvact vd va k f s e) := by
  refine of_parts rfl rfl ?_
  refine (arm_E8 { vd := vd, va := va, k := k, e := e, x := 0#21 ++ s ++ f.toBits }).trans ?_
  dsimp only
  have h0 : (0#21 ++ s ++ f.toBits : BitVec 31).extractLsb' 0 5 = f.toBits := extract_low (0#21 ++ s) f.toBits
  have h1 : (0#21 ++ s ++ f.toBits : BitVec 31).extractLsb' 5 5 = s := (extract_high (0#21 ++ s) f.toBits 5 5 (by decide)).trans (extract_low (0#21) s)
  rw [h0, h1, fmt_back]
  rfl
theorem unact (vd va k f s e) : Statement (.unact vd va k f s e) := by
  refine of_parts rfl rfl ?_
  refine (arm_E9 { vd := vd, va := va, k := k, e := e, x := 0#21 ++ s ++ f.toBits }).trans ?_
  dsimp only
  have h0 : (0#21 ++ s ++ f.toBits : BitVec 31).extractLsb' 0 5 = f.toBits := extract_low (0#21 ++ s) f.toBits
  have h1 : (0#21 ++ s ++ f.toBits : BitVec 31).extractLsb' 5 5 = s := (extract_high (0#21 ++ s) f.toBits 5 5 (by decide)).trans (extract_low (0#21) s)
  rw [h0, h1, fmt_back]
  rfl
theorem skimMark (id) : Statement (.skimMark id) := of_parts rfl rfl rfl
theorem skimCut (id) : Statement (.skimCut id) := of_parts rfl rfl rfl
theorem skimDep (d) : Statement (.skimDep d) := by
  refine of_parts rfl rfl ?_
  refine (arm_EC { vd := 0#1 ++ d }).trans ?_
  dsimp only
  have h0 : (0#1 ++ d : BitVec 6).extractLsb' 0 5 = d := extract_low (0#1) d
  rw [h0]
theorem skimArea (a b) : Statement (.skimArea a b) := by
  refine of_parts rfl rfl ?_
  refine (arm_ED { va := 0#1 ++ a, vb := 0#1 ++ b }).trans ?_
  dsimp only
  have h0 : (0#1 ++ a : BitVec 6).extractLsb' 0 5 = a := extract_low (0#1) a
  have h1 : (0#1 ++ b : BitVec 6).extractLsb' 0 5 = b := extract_low (0#1) b
  rw [h0, h1]
theorem skimChk (d id) : Statement (.skimChk d id) := by
  refine of_parts rfl rfl ?_
  refine (arm_EE { vd := 0#2 ++ d, x := id }).trans ?_
  dsimp only
  have h0 : (0#2 ++ d : BitVec 6).extractLsb' 0 4 = d := extract_low (0#2) d
  rw [h0]
theorem skimBackgroundSpill : Statement .skimBackgroundSpill := of_none rfl
theorem skimBackgroundRefill : Statement .skimBackgroundRefill := of_none rfl
theorem longResultWritten : Statement .longResultWritten := of_none rfl
theorem wqWindowWrite : Statement .wqWindowWrite := of_none rfl
theorem deviceOverflowRefill : Statement .deviceOverflowRefill := of_none rfl
theorem launchArbitration : Statement .launchArbitration := of_none rfl
theorem launchNumberTaken : Statement .launchNumberTaken := of_none rfl
theorem taskToDieDispatcher : Statement .taskToDieDispatcher := of_none rfl
theorem taskToCorePool : Statement .taskToCorePool := of_none rfl
theorem taskPlacedInSlot : Statement .taskPlacedInSlot := of_none rfl
theorem parkedThreadSwapOut : Statement .parkedThreadSwapOut := of_none rfl
theorem parkedWaitSatisfied : Statement .parkedWaitSatisfied := of_none rfl
theorem watchdog : Statement .watchdog := of_none rfl
theorem ebudgetRefill : Statement .ebudgetRefill := of_none rfl
theorem launchEnd : Statement .launchEnd := of_none rfl
theorem completionRecordWrite : Statement .completionRecordWrite := of_none rfl
theorem launchRetire : Statement .launchRetire := of_none rfl
theorem launchAbort : Statement .launchAbort := of_none rfl
theorem preemptContext : Statement .preemptContext := of_none rfl
theorem evictContext : Statement .evictContext := of_none rfl
theorem restoreContext : Statement .restoreContext := of_none rfl
theorem handlerFaultDelivery : Statement .handlerFaultDelivery := of_none rfl
theorem faultReplay : Statement .faultReplay := of_none rfl
theorem faultRefused : Statement .faultRefused := of_none rfl
theorem hostConfigAccess : Statement .hostConfigAccess := of_none rfl
theorem bar4MemoryAccess : Statement .bar4MemoryAccess := of_none rfl
theorem hostRequestForward : Statement .hostRequestForward := of_none rfl
theorem portcfgModeWrite : Statement .portcfgModeWrite := of_none rfl
theorem portFullRetrain : Statement .portFullRetrain := of_none rfl
theorem topoverNextWrite : Statement .topoverNextWrite := of_none rfl
theorem topologySwap : Statement .topologySwap := of_none rfl
theorem podtimeWrite : Statement .podtimeWrite := of_none rfl
theorem bar4CountClear : Statement .bar4CountClear := of_none rfl
theorem doneHeadWrite : Statement .doneHeadWrite := of_none rfl
theorem stalecntClear : Statement .stalecntClear := of_none rfl
theorem thermstatTripClear : Statement .thermstatTripClear := of_none rfl
theorem grantTableWrite : Statement .grantTableWrite := of_none rfl
theorem controlWindowWrite : Statement .controlWindowWrite := of_none rfl
theorem podMessageForward : Statement .podMessageForward := of_none rfl
theorem flitReceive : Statement .flitReceive := of_none rfl
theorem fecGroupReceive : Statement .fecGroupReceive := of_none rfl
theorem fecRetry : Statement .fecRetry := of_none rfl
theorem chainTableInstall : Statement .chainTableInstall := of_none rfl
theorem chainSlotStart : Statement .chainSlotStart := of_none rfl
theorem chainDataWindow : Statement .chainDataWindow := of_none rfl
theorem linkBeatReplay : Statement .linkBeatReplay := of_none rfl
theorem bondIdleTest : Statement .bondIdleTest := of_none rfl
theorem bondGroupFailure : Statement .bondGroupFailure := of_none rfl
theorem wavelengthRetrainStart : Statement .wavelengthRetrainStart := of_none rfl
theorem wavelengthHandback : Statement .wavelengthHandback := of_none rfl
theorem sliceScrub : Statement .sliceScrub := of_none rfl
theorem bstoreScrub : Statement .bstoreScrub := of_none rfl
theorem hbmScrub : Statement .hbmScrub := of_none rfl
theorem channelCopyStart : Statement .channelCopyStart := of_none rfl
theorem channelCopyComplete : Statement .channelCopyComplete := of_none rfl
theorem checkpointStart : Statement .checkpointStart := of_none rfl
theorem restoreStart : Statement .restoreStart := of_none rfl
theorem checkpointComplete : Statement .checkpointComplete := of_none rfl
theorem thermalThrottle : Statement .thermalThrottle := of_none rfl
theorem thermalTrip : Statement .thermalTrip := of_none rfl
theorem regionCountHalving : Statement .regionCountHalving := of_none rfl
theorem remapreqGo : Statement .remapreqGo := of_none rfl
theorem remapSwapRun : Statement .remapSwapRun := of_none rfl
theorem attestNonceWrite : Statement .attestNonceWrite := of_none rfl
theorem attestReportReady : Statement .attestReportReady := of_none rfl
theorem firmwareUpdateWrite : Statement .firmwareUpdateWrite := of_none rfl
theorem linkReturnsToService : Statement .linkReturnsToService := of_none rfl

/-- A general register sets `vbc` and `vext` apart from `vqrecv` and `vqsend` (R106). -/
theorem not_queue : ∀ a : GSpec, isG a = true → ((0#1 ++ a : BitVec 6).extractLsb' 3 3 == 3#3) = false := by decide

theorem is_queue : ∀ n : BitVec 3, ((0#1 ++ 3#2 ++ n : BitVec 6).extractLsb' 3 3 == 3#3) = true := by decide

theorem not_n64 : ∀ f : Fmt, f ≠ .n64 → (f.toBits == 7#5) = false := by intro f; cases f <;> decide

theorem vbc (vd a k f e) : Statement (.vbc vd a k f e) := by
  intro hw x hx
  obtain rfl := Option.some.inj hx
  refine ⟨rfl, (arm_C6 { vd := vd, va := 0#1 ++ a, k := k, e := e, x := 0#26 ++ f.toBits }).trans ?_⟩
  dsimp only
  have h0 : (0#1 ++ a : BitVec 6).extractLsb' 0 5 = a := extract_low (0#1) a
  have h1 : (0#26 ++ f.toBits : BitVec 31).extractLsb' 0 5 = f.toBits := extract_low (0#26) f.toBits
  have hn : ((0#1 ++ a : BitVec 6).extractLsb' 3 3 == 3#3 && f.toBits == 7#5) = false := by
    rcases eq_or_ne f .n64 with rfl | hf
    · have hg : isG a = true := by simpa [Instr.wf] using hw
      rw [not_queue a hg]; rfl
    · rw [not_n64 f hf, Bool.and_false]
  rw [h0, h1, hn, fmt_back]
  rfl

theorem vext (d va f idx) : Statement (.vext d va f idx) := by
  intro hw x hx
  obtain rfl := Option.some.inj hx
  have hg : isG d = true := by
    simp only [Instr.wf, Bool.and_eq_true] at hw
    exact hw.1
  refine ⟨rfl, (arm_C7 { vd := 0#1 ++ d, va := va, x := 0#20 ++ idx ++ f.toBits }).trans ?_⟩
  dsimp only
  have h0 : (0#1 ++ d : BitVec 6).extractLsb' 0 5 = d := extract_low (0#1) d
  have h1 : (0#20 ++ idx ++ f.toBits : BitVec 31).extractLsb' 0 5 = f.toBits := extract_low (0#20 ++ idx) f.toBits
  have h2 : (0#20 ++ idx ++ f.toBits : BitVec 31).extractLsb' 5 6 = idx :=
    (extract_high (0#20 ++ idx) f.toBits 5 6 (by decide)).trans (extract_low (0#20) idx)
  rw [not_queue d hg, h0, h1, h2, fmt_back]
  rfl

theorem vqrecv (vd n k e) : Statement (.vqrecv vd n k e) := by
  refine of_parts rfl rfl ((arm_C6 { vd := vd, va := 0#1 ++ 3#2 ++ n, k := k, e := e, x := 0#26 ++ 7#5 }).trans ?_)
  dsimp only
  have h0 : (0#1 ++ 3#2 ++ n : BitVec 6).extractLsb' 0 3 = n := extract_low (0#1 ++ 3#2) n
  have h1 : (0#26 ++ 7#5 : BitVec 31).extractLsb' 0 5 = 7#5 := by decide
  rw [is_queue n, h0, h1]
  rfl

theorem vqsend (n va) : Statement (.vqsend n va) := by
  refine of_parts rfl rfl ((arm_C7 { vd := 0#1 ++ 3#2 ++ n, va := va, x := 0#26 ++ 7#5 }).trans ?_)
  dsimp only
  have h0 : (0#1 ++ 3#2 ++ n : BitVec 6).extractLsb' 0 3 = n := extract_low (0#1 ++ 3#2) n
  have h1 : (0#26 ++ 7#5 : BitVec 31).extractLsb' 0 5 = 7#5 := by decide
  rw [is_queue n, h0, h1]
  rfl

end Encodes

end Sys2Proof.Laws
end

