-- ==== Sys2Proof/Tests/Slice0.lean ====
section
/-!
SUPPORT. Tests. Witnesses that the hypotheses of the statements are met together (`wit_…`), by states and operands at the ends of the
ranges that clauses name; the limits of WellFormed; words of the encoding tables; and single instructions on small states, with
results worked out by hand from the rules that they name (`test_…`).
-/

set_option Elab.async false

namespace Sys2Proof.Tests

open Machine

/-- A state in which a resident thread of context 0 and launch 0 is at its turn: slot 0 of tile 0, page tables that map the first
gigabyte, granules 0 to 7 of slice 0 and of B-store 0 granted, a record in RecFree. -/
def base : State :=
  let s := State.reset.withFetchWord 16 0
  let s := (s.cwSet (ctxOff 0 + 16) 0x80000).cwSet 0x60000 0x8080808080808080
  let s := (s.cwSet 0x60040 0x8080808080808080).setByte (State.reset.hbmLoc 0x80008).key 0x40#8
  { s with cur := { npc := 0x40004 }, issueQ := [] }

/-- The same state with its thread changed. -/
def thr (f : Thread → Thread) (s : State := base) : State := s.setThr (f s.thr)
/-- With general registers. -/
def regs (g : FMap Word) (s : State := base) : State := thr (fun t => { t with g := g }) s
/-- With control registers changed. -/
def ctl (f : Ctl → Ctl) (s : State := base) : State := thr (fun t => { t with ctl := f t.ctl }) s
/-- With its core changed. -/
def core (f : Core → Core) (s : State := base) : State := s.modHere f
/-- With vector rows. -/
def rows (v : FMap Line) (s : State := base) : State := core (fun k => { k with rows := v }) s
/-- With launch 0 changed. -/
def launch (f : Launch → Launch) (s : State := base) : State := { s with launches := s.launches.set 0 (f (s.launch 0)) }
/-- With its thread in runtime mode. -/
def priv (s : State := base) : State := thr (fun t => { t with rt := true }) s
/-- With the operands of an event. -/
def args (ns : List Nat) (s : State := base) : State := { s with args := ns }

/-- The terms of the statements as functions: an access, lines, a part of a line, a far access that pass the checks; nothing that a release waits for. -/
def opened (s : State) (ea n : Nat) : Bool := @decide (SliceOpen s ea n) (by delta SliceOpen Granted; exact inferInstance)
def lined (s : State) (ea n : Nat) : Bool := decide (ea % 64 = 0) && @decide (LinesOpen s ea n) (by delta LinesOpen Granted NearDone; exact inferInstance)
def parted (s : State) (ea n : Nat) : Bool := @decide (PartOpen s ea n) (by delta PartOpen Granted NearDone; exact inferInstance)
def farOff (s : State) (ea n : Nat) : Bool := @decide (FarOpen s ea n) (by delta FarOpen; exact inferInstance)
def still (s : State) (sc : FScope) : Bool := decide (s.src.pend = []) && s.passedOn s.cur.core sc

/-- A window of a long instruction, and an access that is owed. -/
def win (wid left : Nat) (dests : List Dest) (need : Nat) (writes : List RegWrite) (flags : BitVec 5 := 0) (acq : Bool := false)
    (tab : Option TabUse := none) : Window :=
  { wid := wid, left := left, dests := dests, need := need, writes := writes, flags := flags, acq := acq, tab := tab }
def owed (msg owner : Nat) (load pod : Bool) (rel : Bool := false) : Pending :=
  { msg := msg, owner := owner, load := load, pod := pod, rel := rel }
/-- Another address than a context's is granted to it. -/
def granted (s : State) (ctx ea : Nat) : Bool := @decide (Granted s ctx ea) (by delta Granted; exact inferInstance)

/-- What comes before an instruction's own effect is passed, and what it leaves meets a condition. -/
def rdy (i : Instr) (s : State := base) (p : State → Bool := fun _ => true) : Bool :=
  match s.vetted i with
  | .ok t => p t
  | .error _ => false

theorem rdy_ready {i : Instr} {s : State} {p : State → Bool} (h : rdy i s p = true) : ∃ t, Ready i s t ∧ p t = true := by
  unfold rdy at h
  split at h
  · exact ⟨_, ‹_›, h⟩
  · cases h

/-- A result without a fault, which meets a condition. -/
def fine {α : Type} (r : Except Stop α) (p : α → Bool := fun _ => true) : Bool :=
  match r with
  | .ok x => p x
  | .error _ => false

/-- A value that is there and meets a condition. -/
def has {α : Type} (r : Option α) (p : α → Bool := fun _ => true) : Bool :=
  match r with
  | some x => p x
  | none => false

/-- The next state of an outcome meets a condition. -/
def nexts (o : Host.Outcome State Fault Refusal) (p : State → Bool := fun _ => true) : Bool :=
  match o with
  | .next t => p t
  | .fault _ => false
  | .refused _ => false

/-! ## Words of the encoding tables (R94 to R107, R197, R200, R210, R211, R215, R216, R222): one for each instruction -/

/-- Each word, by its length, decodes to its instruction. -/
def wordsOf (ws : List (Nat × Nat × Instr)) : Bool := ws.all fun w => decide (decodeTableWord w.1 w.2.1 = some w.2.2)

theorem test_decode_Control : wordsOf [
    (16, 0x0000, .nop), (16, 0x0020, .yield), (16, 0x0040, .end_), (32, 0x406005C0, .ret 23), (16, 0x0080, .tret),
    (32, 0x40A0003F, .trap 63), (48, 0x80C000000401, .br 1025),
    (80, 0xC0E02800800000000003, .call 5 (BitVec.ofNat 48 0x800000000003)), (32, 0x410001C0, .jmp 7), (32, 0x41202A40, .calli 5 9),
    (48, 0x814000C007FE, .loop 3 0x7FE), (32, 0x41600021, .sysc 33)] = true := by decide +kernel

theorem test_decode_Scalar : wordsOf [
    (48, 0x820018440000, .add 3 1 2), (48, 0x822018440000, .sub 3 1 2), (48, 0x824018440000, .mul 3 1 2),
    (48, 0x826018440000, .mulh 3 1 2), (48, 0x828018440000, .mulhn 3 1 2), (48, 0x82A018452000, .div 3 1 2 9),
    (48, 0x82C018454000, .divn 3 1 2 10), (48, 0x82E018456000, .rem 3 1 2 11), (48, 0x830018458000, .remn 3 1 2 12),
    (48, 0x8320263E0000, .and_ 4 24 31), (48, 0x8340263E0000, .or_ 4 24 31), (48, 0x8360263E0000, .xor_ 4 24 31),
    (48, 0x8380263E0000, .andn 4 24 31), (48, 0x83A0263E0000, .orn 4 24 31), (48, 0x83C0263E0000, .shl 4 24 31),
    (48, 0x83E0263E0000, .shr 4 24 31), (48, 0x8400263E0000, .sra 4 24 31), (48, 0x8420263E0000, .rol 4 24 31),
    (48, 0x8440263E0000, .min 4 24 31), (48, 0x8460263E0000, .max 4 24 31), (48, 0x8480263E0000, .minn 4 24 31),
    (48, 0x84A0263E0000, .maxn 4 24 31), (48, 0x84C018440000, .adds 3 1 2 false), (48, 0x84E018440001, .subs 3 1 2 true),
    (32, 0x45008980, .abs 17 6), (32, 0x45208980, .neg 17 6), (32, 0x45408980, .clz 17 6), (32, 0x45608980, .ctz 17 6),
    (32, 0x45808980, .popc 17 6), (32, 0x45A08980, .bswap 17 6), (32, 0x45C08987, .sext 17 6 7), (32, 0x45E0899F, .zext 17 6 31),
    (80, 0xC60010C0000000001728, .bfx 2 3 40 23), (80, 0xC62010C000000000003F, .bfi 2 3 63 0), (32, 0x4640F740, .mov 30 29),
    (48, 0x866018440015, .sel 3 1 2 5 true), (48, 0x868048440009, .cmp 9 1 2 .gen), (48, 0x86A0184007FF, .addi 3 1 0x7FF),
    (80, 0xC6C02800800000000001, .li 5 (BitVec.ofNat 48 0x800000000001)), (80, 0xC6E0280000000000BEEF, .lih 5 0xBEEF),
    (32, 0x4700187D, .shli 3 1 61), (32, 0x4720187E, .shri 3 1 62), (32, 0x4740187F, .srai 3 1 63),
    (80, 0xC7607843FFFFFFFFFFFE, .cmpi 15 1 .le (BitVec.ofNat 48 0xFFFFFFFFFFFE)), (48, 0x878018440407, .lea 3 1 2 3 0x101),
    (32, 0x47A01842, .ptrCvtIn 3 1 .shared), (32, 0x47A0184D, .ptrCvtOut 3 1 .pod), (32, 0x47C06043, .ptrIn 12 1 .bstore)] = true := by decide +kernel

theorem test_decode_Predicates : wordsOf [
    (32, 0x480070D9, .pand 14 3 9 true), (32, 0x482070D9, .por 14 3 9 true), (32, 0x484070D9, .pxor 14 3 9 true),
    (32, 0x486070C0, .pnot 14 3), (32, 0x488070C0, .pmov 14 3), (32, 0x48A07001, .pset 14 true), (32, 0x48A005A0, .psetAll 22),
    (32, 0x48C0B000, .pget 22)] = true := by decide +kernel

theorem test_decode_System : wordsOf [
    (80, 0xC8E018000000000000A1, .ctlGet 3 0x0A1), (80, 0xC90000C0000000000801, .ctlSet 3 0x801),
    (80, 0xC9201900000000000002, .ctlSwap 3 4 0x002), (32, 0x49400005, .fence .pod), (32, 0x49400008, .fenceAcq .lane),
    (32, 0x49400013, .fenceRel .die), (32, 0x49600001, .repartHalf), (32, 0x49600002, .repartDbl), (32, 0x49800000, .gateUp),
    (32, 0x49800001, .gateDown), (32, 0x49800002, .gateFreeUp), (32, 0x49800003, .gateFreeDown),
    (48, 0x89A05800007F, .capGet 11 127), (32, 0x49C00180, .tlbInvPage 6), (32, 0x49C00181, .tlbInvCtx 6),
    (32, 0x49C00002, .tlbInvAll), (48, 0x89E00181000F, .ctabLoad 6 15 8)] = true := by decide +kernel

theorem test_decode_Memory : wordsOf [
    (80, 0xCA00184DFFFFFFFFFFF8, .ld 3 1 .w16 true (.at .core) (BitVec.ofNat 48 0xFFFFFFFFFFF8)),
    (80, 0xCA20186B000000000008, .st 3 1 .w64 (.at .pod) 8), (80, 0xCA403C1000E78A000001, .ldv 15 1 7 0x2000001 (.at .quad) 15),
    (80, 0xCA603C1000E000000040, .stv 15 1 7 64 .none 0), (80, 0xCA800420C0828000003A, .gath 1 2 3 4 .w32 2 (.at .die) 5),
    (80, 0xCAA00420C0828000000C, .scat 1 2 3 4 .w8 3 .none 5), (48, 0x8AC018404009, .lr 3 1 true (.at .pkg) 2),
    (48, 0x8AE0184040D0, .sc 3 1 false .none 13 2), (48, 0x8B00184423BA, .amo 3 1 2 .cas true (.acqRel .pod) 1),
    (80, 0xCB200420C4A300000128, .vamo 1 2 3 4 5 .maxn false (.acq .core) 6), (32, 0x4B400180, .wrs 6), (32, 0x4B600180, .walk 6),
    (16, 0x0B80, .walkHome)] = true := by decide +kernel

theorem test_decode_Queues : wordsOf [
    (48, 0x8C003800002B, .qmap 7 0x2B), (32, 0x4C2019C0, .qfree 3 7), (32, 0x4C401980, .qlen 3 6), (32, 0x4C601940, .qpeek 3 5),
    (48, 0x8C8019000009, .qtry 3 4 9), (48, 0x8CA020C00009, .qput 4 3 9), (32, 0x4CC02000, .qclose 4)] = true := by decide +kernel

theorem test_decode_Barriers : wordsOf [
    (48, 0x8CE0018001FF, .barInit 6 511), (48, 0x8D00000001C0, .barJoin 448), (48, 0x8D20000001BF, .barArr 447),
    (48, 0x8D4000000001, .barDrop 1), (48, 0x8D6000000100, .barWait 256), (48, 0x8D8028000100, .barTry 5 256),
    (48, 0x8DA001400100, .barExp 5 256), (48, 0x8DC028000100, .barBits 5 256), (48, 0x8DE000000002, .barLeave 2)] = true := by decide +kernel

theorem test_decode_Tasks : wordsOf [
    (48, 0x8E0018412000, .spawn 3 1 9), (48, 0x8E0018412001, .spawnLight 3 1 9), (48, 0x8E2018412000, .ordSpawn 3 1 9),
    (48, 0x8E2018412001, .ordSpawnLight 3 1 9), (48, 0x8E4068412000, .launch 13 1 9), (32, 0x4E601802, .ltGet 3 2),
    (16, 0x0E80, .ltEnter), (16, 0x0EA0, .ltLeave), (16, 0x0EC0, .ltStep), (48, 0x8EE000C0003F, .tcapHold 3 63),
    (48, 0x8F0000C0003E, .tcapFree 3 62), (48, 0x8F2000C0003D, .plumbWait 3 61), (48, 0x8F401800003C, .plumbGet 3 60)] = true := by decide +kernel

theorem test_decode_Rings : wordsOf [
    (48, 0x8F6000C0803F, .ringMatch 3 63 4), (48, 0x8F8000C88005, .ringPut 3 4 true .z 4),
    (48, 0x8FA019008002, .ringTake 3 4 false .y 4), (48, 0x8FC018000004, .ringSt 3 .z), (48, 0x8FE000000000, .ringDrain .x),
    (48, 0x90E000C08002, .ringCfg 3 .y 4)] = true := by decide +kernel

theorem test_decode_Engine : wordsOf [
    (32, 0x50000500, .xfer 20), (32, 0x50200509, .xferTry 20 9), (32, 0x50401D00, .xferWp 3 20), (32, 0x50601D00, .xferSt 3 20),
    (48, 0x908000C020A5, .collPut 3 0xA5 1), (48, 0x90A0180020A5, .collGet 3 0xA5 1), (48, 0x90C0190020A5, .collAgree 3 4 0xA5 1)] = true := by decide +kernel

theorem test_decode_Matrix : wordsOf [
    (80, 0xD200DF75AD7C00000000, .mma 3 15 23 (.over .e3m2 .qc) true 5 2),
    (80, 0xD2007060000000000000, .mma 1 24 6 .regs false 0 0), (80, 0xD2208003400000000000, .mzero 2 3 1),
    (80, 0xD240807349F22D400000, .mrd 2 0 7 9 60 true 5 (.over .fp32) 3 1),
    (80, 0xD260BE0340F018000000, .mwr 2 31 0 0 60 false 3 .regs 3 1), (80, 0xD2809203000000000000, .msave 2 9 3),
    (80, 0xD2A09203000000000000, .mrest 2 9 3), (80, 0xD2C012A37FFFE0000000, .bld 9 10 2047 63 0 3 1),
    (48, 0x92E001800002, .bsel 6 2), (48, 0x930001800000, .mcfgSrc 6), (48, 0x930001800001, .mcfgStride 6),
    (48, 0x930001800002, .mcfgGo 6), (48, 0x930000000003, .mcfgStop), (48, 0x93200000900F, .mxp 15 4 2),
    (48, 0x934001808000, .mxpTab 6 4), (32, 0x53600003, .mwait 3)] = true := by decide +kernel

theorem test_decode_Vector : wordsOf [
    (48, 0x94000420E40A, .vadd 1 2 3 4 .fp32 2), (48, 0x94200420E210, .vsub 1 2 3 4 .pk 1),
    (48, 0x94400420E607, .vmul 1 2 3 4 .n64 3), (48, 0x94A00420E000, .vmin 1 2 3 4 .i8 0),
    (48, 0x94C00420E009, .vmax 1 2 3 4 .bf16 0), (48, 0x95200420E201, .vadds 1 2 3 4 .i16 1),
    (48, 0x95400420E205, .vsubs 1 2 3 4 .n16 1), (48, 0x95600420E206, .vmulh 1 2 3 4 .n32 1),
    (80, 0xD4600420C59800000008, .vfma 1 2 3 5 4 .fp16 3), (80, 0xD4800420C59800000003, .vfms 1 2 3 5 4 .i64 3),
    (48, 0x94E004202602, .vabs 1 2 4 .i32 3), (48, 0x950004202602, .vneg 1 2 4 .i32 3),
    (80, 0xD5800420C598000000D0, .vdot 1 2 3 5 4 .pk .n32 3), (48, 0x95A00420E600, .vand 1 2 3 4 3),
    (48, 0x95C00420E600, .vor 1 2 3 4 3), (48, 0x95E00420E600, .vxor 1 2 3 4 3), (48, 0x960004202600, .vnot 1 2 4 3),
    (48, 0x96200420E604, .vshl 1 2 3 4 .n8 3), (48, 0x96400420E604, .vshr 1 2 3 4 .n8 3),
    (48, 0x96600420E604, .vsra 1 2 3 4 .n8 3), (80, 0xD6801C20C0980000014A, .vcmp 7 2 3 4 .fp32 .uo 3),
    (48, 0x96A00420E600, .vsel 1 2 3 4 3), (80, 0xD6C0042000980000004A, .vcvt 1 2 4 .fp32 .i32 3),
    (80, 0xD6E00420C098000001AF, .vpack 1 2 3 4 .qc .e3m2 3), (80, 0xD7000420009800000588, .vunpk 1 2 4 .fp16 .e5m2 true 3),
    (80, 0xD7200420C09800000009, .vscl 1 2 3 4 .bf16 3)] = true := by decide +kernel

theorem test_decode_SpecialFunctions : wordsOf [
    (48, 0x9740042022E8, .vrcp 1 2 4 .fp16 7 1), (48, 0x9760042022E8, .vrsq 1 2 4 .fp16 7 1),
    (48, 0x9780042022E8, .vsqrt 1 2 4 .fp16 7 1), (48, 0x97A0042022E8, .vexp2 1 2 4 .fp16 7 1),
    (48, 0x97C0042022E8, .vlog2 1 2 4 .fp16 7 1), (48, 0x97E0042022E8, .vsin 1 2 4 .fp16 7 1),
    (48, 0x9800042022E8, .vcos 1 2 4 .fp16 7 1), (48, 0x9820042022E8, .vtanh 1 2 4 .fp16 7 1)] = true := by decide +kernel

theorem test_decode_VectorMoves : wordsOf [
    (80, 0xD84004200098000000A0, .vred 1 2 4 .i8 .xor_ 3), (80, 0xD860042000980000004A, .vscan 1 2 4 .fp32 .max 3),
    (80, 0xD8800420C5980000000E, .vperm 1 2 3 5 4 .e2m3 3), (80, 0xD8A00420009800000421, .vshuf 1 2 4 .i16 (.rot 33) 3),
    (80, 0xD8A004200098000008A1, .vshuf 1 2 4 .i16 (.bc 5) 3), (80, 0xD8A00420009800001061, .vshuf 1 2 4 .i16 (.rev 3) 3),
    (80, 0xD8A00420009800001801, .vshuf 1 2 4 .i16 (.uzp) 3), (80, 0xD8A00420009800001821, .vshuf 1 2 4 .i16 (.zip) 3),
    (80, 0xD8C00490009800000006, .vbc 1 9 4 .n32 3), (80, 0xD8E024200000000000E7, .vext 9 2 .n64 7),
    (80, 0xD90004900000000007E0, .vins 1 9 .i8 63), (80, 0xD8C005D0009800000007, .vqrecv 1 5 4 3),
    (80, 0xD8E07420000000000007, .vqsend 5 2), (48, 0x992004202600, .vmov 1 2 4 3), (48, 0x994004002600, .vzero 1 4 3),
    (48, 0x996004202608, .vclass 1 2 4 .fp16 3), (48, 0x99801C20C000, .kand 7 2 3), (48, 0x99A01C20C000, .kor 7 2 3),
    (48, 0x99C01C20C000, .kxor 7 2 3), (48, 0x99E01C200000, .knot 7 2), (48, 0x9A001C200000, .kmov 7 2),
    (48, 0x9A205C200000, .kpop 23 2), (80, 0xDA4004200098000001E5, .vshli 1 2 4 .n16 15 3),
    (80, 0xDA6004200098000001E5, .vshri 1 2 4 .n16 15 3), (80, 0xDA8004200098000001E5, .vsrai 1 2 4 .n16 15 3)] = true := by decide +kernel

theorem test_decode_Reversible : wordsOf [
    (80, 0xDC000422409800000000, .rvmul 1 2 9 4 .i8 3), (80, 0xDC40042000980000014F, .rvcvt 1 2 4 .qc .fp32 3),
    (80, 0xDC8004200098000007E7, .rvsra 1 2 4 .n64 63 3), (80, 0xDCC00420C0980000000A, .rvscl 1 2 3 4 .fp32 3),
    (80, 0xDD0004200098000003E9, .rvact 1 2 4 .bf16 31 3), (80, 0xDC200422409800000000, .unmul 1 2 9 4 .i8 3),
    (80, 0xDC60042000980000014F, .uncvt 1 2 4 .qc .fp32 3), (80, 0xDCA004200098000007E7, .unsra 1 2 4 .n64 63 3),
    (80, 0xDCE00420C0980000000A, .unscl 1 2 3 4 .fp32 3), (80, 0xDD2004200098000003E9, .unact 1 2 4 .bf16 31 3),
    (48, 0x9D400000001F, .skimMark 31), (48, 0x9D600000001E, .skimCut 30), (48, 0x9D805C000000, .skimDep 23),
    (48, 0x9DA000928000, .skimArea 9 10), (48, 0x9DC03400001D, .skimChk 13 29)] = true := by decide +kernel

/-! ## What is no instruction -/

/-- Words that break a rule decode to nothing: an unassigned major, the wrong tail length, the guard 0b1_0000, a reserved operand field, a
nonzero L or E of a short instruction, a reserved code, an operand limit, P on the last head of its line (R75 to R78, R108). -/
theorem test_decode_refused : ([(16, 0x0180), (16, 0x4000), (16, 0x0010), (32, 0x40600040 + 0x800), (48, 0x820018440001),
      (48, 0x820018442000), (48, 0x820018440800), (48, 0x86801844000B), (48, 0x868018C4000A), (32, 0x49400006), (32, 0x49400018),
      (32, 0x49600003), (32, 0x50000540), (16, 0x2000), (80, 0xCA000840000000000000 + 0x30000000000000)].all
    fun w => decide (decodeTableWord w.1 w.2 = none)) = true := by decide +kernel

/-- Each limit of `Instr.wf`, broken: queue registers where a general register must stand (R41, R72, R95, R100 to R107). -/
theorem test_wf_generalOnly : ([Instr.ret 24, .call 24 0, .jmp 31, .calli 24 0, .calli 0 24, .loop 24 0, .bfi 24 0 0 0, .lih 24 0,
      .ldv 0 24 0 0 .none 0, .stv 0 24 0 0 .none 0, .gath 0 24 1 0 .w8 0 .none 0, .scat 0 24 1 0 .w8 0 .none 0, .amo 24 0 0 .cas true .plain 0,
      .vamo 0 24 1 1 0 .add true .plain 0, .qtry 24 0 0, .qput 0 24 0, .ringPut 24 0 true .x 0, .ringPut 0 24 true .x 0,
      .ringTake 0 24 true .x 0, .mma 0 0 24 .regs false 0 0, .msave 0 24 0, .mrest 0 24 0, .bld 24 0 0 0 0 0 0, .bld 0 24 0 0 0 0 0,
      .vext 24 0 .i8 0, .rvmul 0 0 24 0 .i8 0, .unmul 0 0 24 0 .i8 0, .skimArea 24 0, .skimArea 0 24].all fun i => !i.wf) = true := by
  decide +kernel

/-- Positions, widths, indexes and identifiers past their ends (R49, R95, R103, R106, R197, R211, R222, R318), with the last good ones. -/
theorem test_wf_ranges : ([Instr.bfx 0 0 63 1, .bfi 0 0 1 63, .xfer 21, .xferTry 21 0, .vext 0 0 .i64 8, .vins 0 0 .n64 8,
      .vshli 0 0 0 .i8 8 0, .vshri 0 0 0 .n16 16 0, .vsrai 0 0 0 .i32 32 0, .rvsra 0 0 0 .i16 16 0, .unsra 0 0 0 .i8 8 0,
      .vshuf 0 0 0 .i64 (.bc 8) 0, .vshuf 0 0 0 .i8 (.rev 7) 0, .vshuf 0 0 0 .i64 (.rev 3) 0, .vshuf 0 0 0 .e3m2 .uzp 0,
      .vshuf 0 0 0 .e2m3 (.rev 0) 0, .bld 0 0 0 63 1 0 0, .mrd 0 0 0 0 60 false 4 .regs 0 0, .mwr 0 0 0 0 63 false 1 .regs 0 0,
      .qmap 0 0x08, .qmap 0 0x14, .qmap 0 0x1B, .qmap 0 0x26, .qmap 0 0x2C, .qmap 0 0x32, .ctlGet 0 0x003, .ctlSet 0 0x020,
      .ctlSwap 0 0 0x0A1].all fun i => !i.wf) = true ∧
    ([Instr.bfx 0 0 63 0, .bfi 0 0 0 63, .xfer 20, .vext 0 0 .i64 7, .vshli 0 0 0 .i8 7 0, .rvsra 0 0 0 .pk 63 0, .vshli 0 0 0 .pk 63 0, .vcvt 0 0 0 .i8 .pk 0, .vshuf 0 0 0 .i64 (.rev 2) 0,
      .bld 0 0 0 63 0 0 0, .mrd 0 0 0 0 60 false 3 .regs 0 0, .qmap 0 0xFF, .qmap 0 0x31, .ctlGet 0 0x0A1, .ctlSet 0 0x802].all fun i =>
      i.wf) = true := by decide +kernel

/-- Formats, conditions and forms that an instruction does not take (R44, R96, R100, R106, R179, R183, R198, R205, R207, R222). -/
theorem test_wf_forms : ([Instr.sel 0 0 0 0 true, .cmp 0 0 0 .uo, .cmpi 0 0 .uo 0, .ld 0 0 .w64 true .none 0, .gath 1 0 1 0 .w8 0 .none 0,
      .vamo 1 0 1 2 0 .add true .plain 0, .vamo 1 0 2 1 0 .add true .plain 0, .vamo 0 0 1 2 0 .cas true .plain 0, .mma 0 16 0 .regs false 0 0,
      .mma 0 0 0 (.over .fp32 .fp16) false 0 0, .mma 0 0 0 (.over .fp16 .pk) false 0 0, .mrd 0 1 0 0 0 false 0 .regs 0 0,
      .mwr 0 24 0 1 0 false 0 .regs 0 0, .mrd 0 0 1 0 0 false 0 .regs 0 0, .mrd 0 0 24 0 0 true 0 .regs 0 0, .mwr 0 0 0 0 0 false 0 (.over .i16) 0 0,
      .vadd 0 0 0 0 .e4m3 0, .vsub 0 0 0 0 .qc 0, .vmul 0 0 0 0 .e5m2 0, .vfma 0 0 0 0 0 .e3m2 0, .vfms 0 0 0 0 0 .e2m3 0, .vmin 0 0 0 0 .qc 0,
      .vmax 0 0 0 0 .qc 0, .vadds 0 0 0 0 .fp32 0, .vsubs 0 0 0 0 .fp16 0, .vmulh 0 0 0 0 .bf16 0, .vabs 0 0 0 .n8 0, .vneg 0 0 0 .n64 0,
      .vdot 0 0 0 0 0 .i8 .i64 0, .vdot 0 0 0 0 0 .i32 .i64 0, .vshl 0 0 0 0 .fp16 0, .vshr 0 0 0 0 .fp16 0, .vsra 0 0 0 0 .qc 0,
      .vcmp 0 0 0 0 .i8 .uo 0, .vcmp 0 0 0 0 .fp32 .ltn 0, .vcmp 0 0 0 0 .qc .eq 0, .vcvt 0 0 0 .i8 .i16 0, .vpack 0 0 0 0 .i16 .i8 0,
      .vunpk 0 0 0 .i8 .i16 true 0, .vscl 0 0 0 0 .i8 0].all fun i => !i.wf) = true ∧
    ([Instr.vrcp 0 0 0 .i8 0 0, .vrsq 0 0 0 .i8 0 0, .vsqrt 0 0 0 .i8 0 0, .vexp2 0 0 0 .e4m3 0 0, .vlog2 0 0 0 .i8 0 0, .vsin 0 0 0 .i8 0 0,
      .vcos 0 0 0 .i8 0 0, .vtanh 0 0 0 .i8 0 0, .vred 0 0 0 .fp32 .and_ 0, .vscan 0 0 0 .qc .add 0, .vbc 0 24 0 .n64 0, .vclass 0 0 0 .i32 0,
      .rvmul 0 0 0 0 .fp16 0, .rvcvt 0 0 0 .i16 .i16 0, .uncvt 0 0 0 .fp32 .fp16 0, .rvscl 0 0 0 0 .i8 0, .unscl 0 0 0 0 .i8 0,
      .rvact 0 0 0 .n8 0 0, .unact 0 0 0 .e4m3 0 0].all fun i => !i.wf) = true := by decide +kernel

/-! ## Witnesses: scalar instructions and control -/

theorem wit_Arithmetic : ([Instr.add 3 1 2, .sub 3 1 2, .mul 3 1 2, .mulh 3 1 2, .mulhn 3 1 2, .div 3 1 2 0, .rem 3 1 2 15,
    .divn 3 1 2 0, .remn 3 1 2 0, .adds 3 1 2 false, .subs 3 1 2 false, .adds 3 1 2 true, .subs 3 1 2 true, .abs 3 1, .neg 3 1,
    .add 23 23 0].all fun i => rdy i) = true := by decide +kernel

theorem wit_Arithmetic_flags : base.cur.place = .single ∧ base.cur.flags = 0#5 ∧ base.cur.view = none ∧
    ([Instr.add 23 1 0, .sub 23 1 0, .mul 23 1 0, .mulh 23 1 0, .mulhn 23 1 0].all fun i =>
      rdy i base (fun t => decide (t = base)) && nexts (exec i base)) = true := by decide +kernel

theorem wit_LeastGreatestAndLogic : ([Instr.min 3 1 2, .max 3 1 2, .minn 3 1 2, .maxn 3 1 2, .and_ 3 1 2, .or_ 3 1 2, .xor_ 3 1 2,
    .andn 3 1 2, .orn 3 1 2].all fun i => rdy i) = true := by decide +kernel

theorem wit_BitCounts : ([Instr.clz 3 1, .ctz 3 1, .popc 3 1, .bswap 3 1].all fun i => rdy i) = true := by decide +kernel

theorem wit_ShiftsAndFields : ([Instr.shl 3 1 2, .shr 3 1 2, .sra 3 1 2, .rol 3 1 2, .shli 3 1 0, .shli 3 1 63, .shri 3 1 63,
    .srai 3 1 63, .sext 3 1 0, .sext 3 1 63, .zext 3 1 63, .bfx 3 1 63 0, .bfx 3 1 0 63, .bfi 3 1 63 0, .bfi 3 1 0 63].all
    fun i => rdy i) = true := by decide +kernel

theorem wit_MovesComparesPointers : ([Instr.mov 3 1, .sel 3 1 2 1 true, .sel 3 1 2 15 false, .addi 3 1 1024, .li 3 0, .lih 3 0xFFFF,
    .lea 3 1 2 3 256, .cmp 1 2 3 .eq, .cmp 15 2 3 .gen, .cmpi 1 2 .ltn 0, .ptrCvtIn 3 1 .local_, .ptrCvtOut 3 1 .quad,
    .ptrIn 1 2 .pod].all fun i => rdy i) = true := by decide +kernel

theorem wit_PredicatesAndMasks : ([Instr.pand 1 2 3 true, .por 1 2 3 false, .pxor 0 2 3 true, .pnot 1 2, .pmov 15 0, .pset 1 true,
    .psetAll 1, .pget 3, .capGet 1 0, .capGet 1 127, .kand 1 2 3, .kor 1 2 3, .kxor 0 2 3, .knot 1 0, .kmov 7 1, .kpop 3 1].all
    fun i => rdy i) = true := by decide +kernel

theorem wit_Transfers : ([Instr.nop, .br 0, .call 3 1, .jmp 1, .ret 1, .calli 3 1, .loop 1 0].all fun i => rdy i) = true ∧
    rdy (.loop 1 0) (regs [(1, 1#64)]) (fun s => decide (s.rg 1 = 1#64)) = true ∧
    rdy (.loop 1 0) base (fun s => decide (s.rg 1 ≠ 1#64)) = true := by decide +kernel

theorem wit_Traps_enter : (let s := { base with trapvec := [(0, 0x100#64)] }
    rdy (.trap 63) s (fun s => !s.thr.ctl.trapcause.getLsbD 16 && decide (s.trapVec s.thr.ctx ≠ 0#64)) = true) ∧
    rdy .tret (ctl fun c => { c with trapcause := 0x10048#64 }) (fun s => s.thr.ctl.trapcause.getLsbD 16) = true := by decide +kernel

theorem wit_Traps_fault : rdy (.trap 1) (ctl fun c => { c with trapcause := 0x10048#64 }) (fun s => s.thr.ctl.trapcause.getLsbD 16) = true ∧
    rdy (.trap 1) base (fun s => !s.thr.ctl.trapcause.getLsbD 16 && decide (s.trapVec s.thr.ctx = 0#64)) = true ∧
    rdy .tret base (fun s => !s.thr.ctl.trapcause.getLsbD 16) = true ∧ base.cur.place = .single := by decide +kernel

/-- The base state with a task of context 1 in the pool, which wants slot 0, and a save record. -/
def sought : State := (core (fun k => { k with pool := [.new { ctx := 1 }] })).setByte (State.reset.hbmLoc 0x80000).key 0x80#8

theorem wit_LeavingTheTurn_yield : rdy (.sysc 63) = true ∧
    (let wanted (s : State) : Bool := !s.thr.light && s.cur.slot + 1 != s.here.mode && (FMap.find s.cur.slot s.here.pins).isNone &&
      s.here.pool.any (s.wantsSlot s.cur.core s.cur.slot s.thr.ctx)
     rdy .yield base (fun s => !wanted s) &&
     rdy .yield (thr (fun t => { t with windows := [(win 0 1 [] 1 [] 0)] }) sought) (fun s => wanted s && decide (s.src.windows ≠ [])) &&
     rdy .yield sought (fun s => wanted s && decide (s.src.windows = []) && decide (s.thr.windows = []) &&
      has (s.takeFree s.thr.ctx 0 (some s.thr.ctl.taskh.toNat)))) = true := by decide +kernel

theorem wit_LeavingTheTurn_end : (let closed (s : State) : Bool := decide (s.src.windows = []) && decide (s.src.pend = []) && decide (s.thr.windows = []) && decide (s.thr.pend = [])
    let counts (s : State) : Bool := has (s.countAll s.cur.core s.thr.launch
      ((s.holdsOf s.thr).map (fun h => (h.1, h.2, (-1 : Int))) ++ [((s.thr.ctl.stage.extractLsb' 0 6).toNat, s.thr.ctl.ltime, -1)]))
    let passed (s : State) : Bool := s.passedOn s.cur.core .pkg
    let serving := (thr (fun t => { t with ctl := { t.ctl with faultrec := 0x80000#64 }, serves := some (0, 3, 0x80000#64) })).setThrAt 0 3
      { st := .parked (.suspended 0x80000#64) 0 }
    rdy .end_ (thr fun t => { t with pend := [(owed 1 5 true false false)] }) (fun s => decide (s.src.pend ≠ [])) &&
    rdy .end_ (ctl fun c => { c with stage := 0x8400#64 }) (fun s => closed s && s.thr.speculative) &&
    rdy .end_ base (fun s => closed s && !s.thr.speculative && passed s && counts s && decide (s.thr.ctl.faultrec = 0#64)) &&
    rdy .end_ (core (fun k => { k with queues := [(1, { owner := some 0, closed := true })] }) (ctl fun c => { c with qmap := c.qmap - 0xFE#64 }))
      (fun s => closed s && !s.thr.speculative && passed s && counts s && !qGrad 1 && binds s.thr.ctl.qmap 1 && nexts (exec .end_ s) fun u =>
        (qEnds s.cur.core 1).all fun e => u.endEmpty e.1 e.2 && !u.bound e.1 e.2) &&
    [0, 1, 2].all fun act => rdy .end_ (serving.setByte (State.reset.hbmLoc 0x80024).key act) (fun s => closed s && !s.thr.speculative && passed s && counts s &&
      s.here.spec.all (fun e => decide (e.task ≠ (s.thrAt 0 3).ctl.taskh.toNat)) && decide (s.thr.serves = some (0, 3, s.thr.ctl.faultrec)) && decide ((s.thrAt 0 3).st = .parked (.suspended s.thr.ctl.faultrec) 0) &&
      decide (s.areaNat 0 (s.thr.ctl.faultrec.toNat + 36) 1 = act.toNat))) = true := by decide +kernel

/-- An operation in the matrix queue of accumulator 3. -/
def mop (k : MKind) : MOp := ⟨k, 3, 0, 0, 1, 0x40002, 0, none, 0, [], [], 0, none, [], false, [], 0, false, 0⟩

theorem wit_ControlRegisters_reads : ([0x000#12, 0x001, 0x002, 0x010, 0x014, 0x032, 0x0A0, 0x060, 0x090, 0x054].all fun i => rdy (.ctlGet 3 i)) = true ∧
    (isTile base.cur.core = true ∧ base.here.whyAbove < 3 ∧ base.here.whyBelow < 3) ∧ isTile ({ base with cur := { core := 2048 } } : State).cur.core = false ∧
    base.cur.view = none ∧ base.thr.light = false ∧ base.here.mode = 8 ∧ base.thr.role = 0 := by decide +kernel

theorem wit_ControlRegisters_writes : ([0x000#12, 0x001, 0x002, 0x010, 0x011, 0x012, 0x013, 0x014, 0x032, 0x0A0, 0x800, 0x801].all fun i =>
      rdy (.ctlSet 1 i) priv && rdy (.ctlSwap 3 1 i) priv) = true ∧
    ([0x071#12, 0x072].all fun i => let v := 0x800000000040#64
      rdy (.ctlSet 1 i) (regs [(1, v)] (base.setMySkim { base := v, lim := v })) fun s => decide (s.srcSkim.depth = 0) && decide (v.extractLsb' 0 6 = 0#6) &&
        decide (s.srcSkim.base ≤ v) && decide (v ≤ s.srcSkim.lim) && areaOk v s.srcSkim.lim) = true ∧
    rdy (.ctlSet 1 0x802) (core (fun k => { k with acfg := 0x8000#64, mq := [mop .mzero] }) (priv (regs [(1, 0x8009#64)]))) (fun s =>
      s.acceptedOps.all fun o => decide (s.here.acfg.extractLsb' (4 * o.acc) 4 = (0x8009#64 &&& 0xFFFF#64).extractLsb' (4 * o.acc) 4)) = true := by
  decide +kernel

theorem wit_ControlRegisters_faults : rdy (.ctlSet 1 0x802) (core (fun k => { k with acfg := 0x8000#64, mq := [mop .mzero] }) priv) (fun s =>
      s.acceptedOps.any fun o => decide (s.here.acfg.extractLsb' (4 * o.acc) 4 ≠ (src1 s 1 &&& 0xFFFF#64).extractLsb' (4 * o.acc) 4)) = true ∧
    rdy (.ctlSet 1 0x071) (base.setMySkim { depth := 1 }) (fun s => decide ((s.rd 1).2.srcSkim.depth ≠ 0)) = true ∧
    rdy (.ctlSet 1 0x071) (regs [(1, 1#64)]) (fun s => decide (s.srcSkim.depth = 0) && decide ((src1 s 1).extractLsb' 0 6 ≠ 0#6)) = true ∧
    rdy (.ctlSet 1 0x071) (regs [(1, 64#64)]) (fun s => decide (s.srcSkim.lim < src1 s 1)) = true := by decide +kernel

theorem wit_FencesAndPrivileged_fences : ([FScope.lane, .core, .quad, .die, .pkg, .pod].all fun sc =>
      rdy (.fence sc) base (fun s => still s sc) && rdy (.fenceRel sc) base (fun s => still s sc) && rdy (.fenceAcq sc) base
        (fun s => decide (s.src.pend = []))) = true ∧
    ([Instr.fence .pod, .fenceRel .pod, .fenceAcq .pod].all fun i => rdy i (thr fun t => { t with pend := [(owed 1 5 true false false)] })
      fun s => decide (s.cur.place = .single) && decide (s.src.pend ≠ [])) = true := by decide +kernel

/-- The quad above the base core's, and the gate state and work that it has. -/
def above (g : Gate) (k : Core := {}) : State := (priv.modQuad 64 fun q => { q with gate := g }).modCore (quadTile 64 0) fun _ => k

theorem wit_FencesAndPrivileged_gates : (let at_ (s : State) : Bool := isTile s.cur.core && (quadOf s.cur.core + 64) % 512 == 64
    let work : Core := { slots := [(0, { st := .running, ctx := 1 })] }
    rdy .gateUp (above .none work) (fun s => at_ s && decide ((s.quad 64).gate = .none) && s.quadOther 64 s.thr.ctx) &&
    rdy .gateUp (above .none { pins := [(0, (0, 1))] }) (fun s => at_ s && !s.quadOther 64 s.thr.ctx && s.quadPinned 64) &&
    rdy .gateUp (above .none) (fun s => at_ s && !s.quadOther 64 s.thr.ctx && !s.quadPinned 64) &&
    [Gate.pending, .closing 5, .gated, .waking 9].all (fun g => rdy .gateUp (above g) (fun s => at_ s && decide ((s.quad 64).gate = g)) &&
      rdy .gateFreeUp (above g) (fun s => at_ s && decide ((s.quad 64).gate = g))) &&
    [Instr.gateDown, .gateFreeDown].all (fun i => rdy i priv fun s => isTile s.cur.core && decide ((s.quad 448).gate = .none)) &&
    (let s := { priv with cur := { core := 2048, npc := 0x40004 } }.setThr { st := .running, rt := true, ctl := { taskh := 5 } }
     [Instr.gateUp, .gateDown, .gateFreeUp, .gateFreeDown].all fun i => rdy i s fun s => !isTile s.cur.core)) = true := by decide +kernel

theorem wit_FencesAndPrivileged_privileged : ([Instr.tlbInvPage 1, .tlbInvCtx 1, .tlbInvAll].all fun i => rdy i priv) = true ∧
    (let s := thr fun t => { t with windows := [(win 2 0 [] 0 [.inv none none] 0#5)] }
     has ((s.thrAt 0 0).windows.find? fun x => x.wid == 2) fun w => decide (w.need = 0) && decide (w.tab = none)) = true ∧
    rdy .repartHalf (priv.setThrAt 0 1 { st := .running }) (fun s => decide (s.here.mode ≠ 2) && s.here.slots.any fun p => p.1 != 0 && p.2.st != .empty) = true ∧
    ([Instr.repartHalf, .repartDbl].all fun i => rdy i (core (fun k => { k with mode := 4 }) priv) fun s => isTile s.cur.core &&
      decide (s.here.modeNext = none) && decide (s.cur.slot = 0) && !s.here.slots.any (fun p => p.1 != 0 && p.2.st != .empty) &&
      decide (s.here.arrival = []) && decide (s.here.mode = 4)) = true ∧
    rdy .repartDbl priv (fun s => decide (s.here.mode = 8)) = true ∧
    rdy .repartHalf (core (fun k => { k with mode := 2 }) priv) (fun s => decide (s.here.mode = 2)) = true := by decide +kernel
/-! ## Witnesses: memory -/

/-- Addresses of slice 0: the base, and offset 0x40. -/
def slice0 : Word := 0x800000000000#64

/-- Registers 1 and 2 hold the slice's base and a number. -/
def mems : State := regs [(1, slice0), (2, 0x1122334455667788#64)]

theorem wit_MemoryInstructions_words : ([Width.w8, .w16, .w32, .w64].all fun w => let n := Width.bytes w
      rdy (.ld 3 1 w (w != .w64) .none 0) mems (fun s => opened (s.rd 1).2 (src1 s 1 + (0#48).signExtend 64).toNat n && !s.thr.speculative) &&
      rdy (.st 2 1 w (.at .pod) 64) mems (fun s => still s (OrdScope.fence .pod) && decide (s.thr.podAns = none) &&
        opened (read2 (relState s (.at .pod)) 1 2) (src1 s 1 + (64#48).signExtend 64).toNat n && !s.thr.speculative)) = true := by decide +kernel

/-- The base thread's task is ordered and has not committed. -/
def early (s : State := mems) : State := ctl (fun c => { c with stage := 0x8400#64 }) s

theorem wit_MemoryInstructions_buffered : (rdy (.ld 3 1 .w64 false .none 0) early (fun s => opened (s.rd 1).2 (src1 s 1).toNat 8 && s.thr.speculative &&
      decide (s.here.spec.length < 256) && decide (s.skims = []) && s.reaches s.cur.core (sliceTile (src1 s 1).toNat)) &&
    rdy (.st 2 1 .w64 .none 0) early (fun s => decide (s.thr.podAns = none) && opened (read2 s 1 2) (src1 s 1).toNat 8 && s.thr.speculative &&
      decide (s.here.spec.length < 256) && decide (s.skims = [])) &&
    rdy (.st 2 1 .w64 .none 0) (core (fun k => { k with spec := [⟨1, (sliceSpot slice0.toNat).loc.key / 64, 255, 7, false⟩] }) early)
      (fun s => (s.specFind ((sliceSpot slice0.toNat).loc.key / 64)).isSome)) = true := by decide +kernel

/-- A pod of two cubes, an address of the other one in register 1, and an answer. -/
def far (a : Option (Option (Nat × Word × BitVec 5))) : State :=
  (thr (fun t => { t with podAns := a, g := [(1, word (2 ^ 60 + 2 ^ 48 + 0x40)), (2, 7#64)] })
    { base with topo := [(0xE4000, 0x8000#64)] }).cwSet 0x80 (word (2 * 2 ^ 47 + 2 ^ 42 + 2 ^ 37))

theorem wit_MemoryInstructions_far : ([none, some (some (0, 5, 2)), some (some (16, 1, 0))].all fun a =>
    [Instr.ld 3 1 .w64 false .none 0, .st 2 1 .w64 .none 0, .amo 3 1 2 .add true .plain 0].all fun i => rdy i (far a) fun s =>
      decide (s.thr.podAns = a) && farOff s (src1 s 1).toNat 8 && !s.thr.speculative && decide (s.cur.place = .single)) = true := by decide +kernel

theorem wit_MemoryInstructions_lines : ([Instr.ldv 1 1 1 0 .none 0, .stv 1 1 1 0 .none 0].all fun i =>
      rdy i mems fun s => decide (s.rk 1 = 0#64)) = true ∧
    rdy (.ldv 1 1 0 64 .none 15) mems (fun s => decide (s.rk 0 ≠ 0#64) && opened s (s.rg 1 + (64#26).signExtend 64).toNat 64 && !s.thr.speculative) = true ∧
    rdy (.stv 1 1 0 64 .none 15) mems (fun s => decide (s.rk 0 ≠ 0#64) && opened s (s.rg 1 + (64#26).signExtend 64).toNat 64 && !s.thr.speculative) = true := by
  decide +kernel

theorem wit_MemoryInstructions_elements : (let s := rows [(2, 0x0000000700000000#512)] mems
    let lanes (s : State) (n m iw c : Nat) : Bool := !s.held && decide (s.thr.done = 0) && !s.thr.speculative &&
      (activeLanes s 1 2 m (8 * n) iw c 0).all fun p => opened s p.2 n
    rdy (.gath 1 1 2 0 .w8 0 .none 0) s (fun s => lanes s 1 0 32 16) && rdy (.gath 1 1 2 1 .w8 0 (.at .pkg) 0) s (fun s => lanes s 1 1 32 16) &&
    rdy (.scat 1 1 2 0 .w8 0 (.at .pkg) 0) s (fun s => still s (OrdScope.fence .pkg) && lanes (noted s) 1 0 32 16) &&
    rdy (.vamo 1 1 2 3 0 .add true (.acqRel .core) 0) (rows [] mems) (fun s => still s (OrdScope.fence .core) && lanes (noted s) 8 0 64 8)) = true := by
  decide +kernel

theorem wit_ReservationsAndAtomics : (let ea (s : State) : Nat := (src1 s 1).toNat
    rdy (.lr 3 1 true .none 0) mems (fun s => opened (s.rd 1).2 (ea s) 8 && !s.thr.speculative) &&
    rdy (.sc 2 1 false (.at .die) 1 0) mems (fun s => still s (OrdScope.fence .die) && opened (read2 (noted s) 1 2) (ea s) 4 && !s.thr.speculative) &&
    [AmoOp.add, .cas].all (fun op => rdy (.amo 3 1 2 op true (.rel .quad) 0) mems fun s => still s (OrdScope.fence .quad) &&
      decide (s.thr.podAns = none) && opened (read2 (noted s) 1 2) (ea s) 8 && !s.thr.speculative) &&
    rdy (.wrs 1) mems (fun s => !s.thr.speculative && opened (s.rd 1).2 (ea s) 8 && decide (s.thr.pend = []))) = true := by decide +kernel

theorem wit_Walks_leave : rdy (.walk 1) base (fun s => decide (s.thr.light = false)) = true ∧ rdy .walkHome = true ∧
    (let may (s : State) : Bool := s.thr.light && !s.thr.speculative && decide (s.thr.windows = []) && decide (s.thr.pend = []) && !s.thr.counted
     let s := ctl (fun c => { c with taskh := 0x0050000000000001#64 }) (thr (fun t => { t with light := true, g := [(1, slice0), (2, slice0 + 0x400000)] }))
     let at_ (r : GSpec) (s : State) : Bool := let ea := (src1 s r).toNat; let u := (s.rd r).2
      decide (2 ^ 47 ≤ ea) && !u.held && granted u u.thr.ctx ea && !u.shutAt (sliceTile ea)
     let gated := s.modQuad (quadOf 5) fun q => { q with gate := .gated }
     rdy (.walk 1) s (fun s => at_ 1 s && decide (sliceTile (src1 s 1).toNat = s.cur.core)) &&
     rdy (.walk 2) (s.cwSet 0x60100 0x80) (fun s => at_ 2 s && may s && decide (sliceTile (src1 s 2).toNat ≠ s.cur.core)) &&
     rdy .walkHome s (fun s => may s && decide ((s.thr.ctl.taskh.extractLsb' 52 12).toNat ≠ s.cur.core) && !s.shutAt 5) &&
     rdy .walkHome gated (fun s => s.thr.light && s.shutAt 5)) = true ∧
    rdy .walkHome (thr fun t => { t with light := true }) (fun s => s.thr.light && decide ((s.thr.ctl.taskh.extractLsb' 52 12).toNat = s.cur.core)) =
      true := by decide +kernel

/-- A context that walks to a core. -/
def walker (c : Nat) (x : Nat := 0) : Walker := let t : Thread := { st := .running, light := true, ctx := x }; ⟨t, c, t.walkBytes, 9, 0⟩

theorem wit_Walks_arrive : (let w := walker 5
     let s := args [7] { base with net := [(7, .walk w)] }
     has (s.msg (s.arg 0)) (fun m => decide (m = .walk w)) && decide ((s.core 5).arrival.length < 16) && s.mayArrive (s.arg 0) (.walk w)) = true ∧
    (let w := walker 0; let v := walker 0 3
     let s := args [0] (core fun k => { k with arrival := [v, w], out := [3] })
     decide ((s.core 0).arrival = [v] ++ w :: []) && decide (v.thr.ctx ∈ (s.core 0).out) && decide (w.thr.ctx ∉ (s.core 0).out) &&
     decide ((s.core 0).modeNext = none) && decide (1 < (s.core 0).mode - 1) && decide ((s.thrAt 0 1).st = .empty) &&
     decide (FMap.find 1 (s.core 0).pins = none) && decide ((s.thrAt 0 0).st ≠ .empty) && decide (s.skims = [])) = true := by decide +kernel

theorem wit_ChecksInOrder : base.held = false ∧ base.thr.podAns = none ∧
    2 ^ 47 + 2 ^ 35 ≤ 2 ^ 60 - 1 ∧ (2 ^ 60 - 1 : Nat) < 2 ^ 60 ∧
    AKind.st ∉ [AKind.ld, .ldv] ∧ (2 ^ 47 + 1 : Nat) % 2 ≠ 0 ∧ (2 ^ 47 + 2 ^ 34 - 8 : Nat) % 8 = 0 ∧
    (base.grantee 0 8 ≠ some base.thr.ctx ∧ FMap.find (imageKey base.thr.ctx 0 8) base.images = none) ∧
    FMap.find (imageKey base.thr.ctx 0 7) ({ base with images := [(imageKey base.thr.ctx 0 7, 0x80000)] } : State).images = some 0x80000 ∧
    base.grantee 0 7 = some base.thr.ctx ∧ FMap.find (imageKey base.thr.ctx 0 7) base.images = none ∧ base.shutAt 0 = false ∧ base.thr.light = false ∧
    (({ base with quads := [(0, { gate := .gated })] } : State).shutAt 0 = true) ∧
    base.rangeLocked (2 ^ 41 + 7 * 2 ^ 16) true = false ∧ base.poison = [] := by decide +kernel

/-- An access of the base thread to the first word of slice 0. -/
def acc0 (k : AccKind) : Access :=
  { msg := 7, core := 0, slot := 0, taskh := 1, ctx := 0, wid := 0, key := sliceBase, bytes := 8, owner := 0, kind := k, land := .none
    proxied := false, pod := none }

theorem wit_OwnersPerform : ([AccKind.load, .loadResv, .store allBytes 5, .amo .add true 1 0, .sc true 5 1].all fun k =>
      [8, 64].all fun n => [false, true].all fun bad => let a := { acc0 k with bytes := n }
        let s := args [7] { base with net := [(7, .access a)], poison := if bad then [poisonOf sliceBase] else [] }
        has (s.msg (s.arg 0)) (fun m => decide (m = .access a)) && s.mayArrive (s.arg 0) (.access a) && s.accessReady (s.arg 0) a &&
        decide (FMap.get 0 s.netMarks (s.arg 0) = 0) && (n == 64 && bad || (s.marked a).isSome == (bad && k != .store allBytes 5))) = true ∧
    (({ base with poison := [poisonOf sliceBase] } : State).marked { acc0 (.store 1 5) with bytes := 1 }).isSome = true ∧ granulesOf sliceBase 1 1 = [sliceBase / 8] ∧
    granulesOf sliceBase 8 allBytes = [sliceBase / 8] ∧ 1 < (granulesOf sliceBase 64 allBytes).length ∧ base.granQ (sliceBase / 8) = [] := by decide +kernel

theorem wit_ResponsesAndResults : (let a := acc0 .load
    let s := args [7] (thr (fun t => { t with windows := [(win 0 3 [.g 3] 1 [] 0)], pend := [(owed 7 0 true false false)] })
      { base with net := [(7, .response a 5 0 true)] })
    has (s.msg 7) (fun m => decide (m = .response a 5 0 true)) && s.mayArrive 7 (.response a 5 0 true) && decide (FMap.get 0 s.netMarks 7 = 0) && decide (a.core < 2560) && decide ((s.thrAt 0 0).st ≠ .empty) &&
    decide ((s.thrAt 0 0).ctl.taskh = a.taskh) && decide ((s.thrAt 0 0).lateErr = none) &&
    (let u := { s with net := [(7, .failed a 3)] }
     has (u.msg (u.arg 0)) (fun m => decide (m = .failed a 3)) && u.mayArrive (u.arg 0) (.failed a 3))) = true ∧
    (thr (fun t => { t with windows := [(win 2 0 [.g 3] 0 [.g 3 5] 0#5)] })).thr.windows =
      (win 2 0 [.g 3] 0 [.g 3 5] 0#5) :: [] ∧ (win 2 0 [.g 3] 0 [.g 3 5] 0#5).tab = none ∧
    (let ws : List Window := [(win 2 0 [] 0 [] 0 false (some (.loads 3))), (win 4 0 [.v 1] 0 [] 0 false (some (.reads 3)))]
     has ((thr fun t => { t with windows := ws }).thr.windows.find? fun w => w.wid == 2) fun w => decide (w.tab = some (.loads 3)) &&
       (ws.any fun x => decide (x.tab = some (.reads 3)))) = true := by decide +kernel

theorem wit_OwnersPerform_overlays : base.overlays sliceBase 8 = [] ∧
    base.granQ (sliceBase / 8) = [] ∧ ({ base with gran := [(sliceBase / 8, [⟨7, acc0 (.amo .add true 1 0), .waiting⟩])] } : State).granQ (sliceBase / 8) ≠ [] := by
  decide +kernel

theorem wit_AtomicsAtTheGranule : (let a := acc0 (.amo .add true 1 0); let c := acc0 (.sc true 5 1)
    let s (p : GPhase) (x : Access) (rest : List GEntry := []) : State := args [sliceBase / 8] { base with gran := [(sliceBase / 8, ⟨7, x, p⟩ :: rest)] }
    let bad := { s .waiting a with poison := [poisonOf sliceBase] }
    decide (base.gives = []) && decide (base.poison = []) && decide (base.marked a = none) && decide (base.marked c = none) && a.goes base && a.returns base &&
    (bad.marked a).isSome && decide (bad.granQ (sliceBase / 8) = [⟨7, a, .waiting⟩]) &&
    ([AccKind.amo .add true 1 0, .sc true 5 1, .store allBytes 5].all fun k => let n : GEntry := ⟨8, acc0 k, .waiting⟩
      decide ((s (.computed 9 10) a [n]).granQ (sliceBase / 8) = [⟨7, a, .computed 9 10⟩, n])) &&
    decide ((s .waiting a).granQ (sliceBase / 8) = [⟨7, a, .waiting⟩]) && decide ((s (.sent 9) a).granQ (sliceBase / 8) = [⟨7, a, .sent 9⟩]) &&
    decide ((s (.computed 9 10) a).granQ (sliceBase / 8) = [⟨7, a, .computed 9 10⟩]) &&
    decide ((s .waiting c).granQ (sliceBase / 8) = [⟨7, c, .waiting⟩])) = true ∧
    (2 ^ 32 - 1 : Nat) < 2 ^ 32 ∧ (2 ^ 64 - 1 : Nat) < 2 ^ 64 := by decide +kernel
/-! ## Witnesses: the machine as a whole -/

theorem wit_StepRunsDecoded : (let s := State.reset.withFetchWord 48 0x820018440000
    let s0 : State := { s with issueQ := [] }
    let t := s0.thrAt 0 0
    let here : State := { s0 with cur := { core := 0, slot := 0, npc := t.pc }, args := [0, 0] }
    decide (s.agenda = []) && decide (s.events = []) && decide (s.issueQ = [0]) && decide ((s0.offersOf 0).head? = some 0) &&
    s0.mayIssue 0 0 && !t.kill && !t.heldFlag && decide (t.heldXfer = []) && !t.heldDog && !s0.dogDue t &&
    decide (t.lateErr = none) && decide (t.mid = none) && !t.windowFull && decide (t.leave = none) && fine (here.fetch 0 t) (fun r =>
      decide (decodeSlot r.1 ((r.2.thrAt 0 0).pc.toNat / 2 % 32) = .single ⟨false, 0, .add 3 1 2⟩))) = true := by decide +kernel

theorem wit_DecodeEncode : ([Instr.nop, .add 31 24 23, .li 5 (BitVec.allOnes 48), .vadd 63 0 63 7 .fp32 3, .mma 3 31 0 .regs true 15 3,
    .vqrecv 1 7 0 0, .vbc 1 24 0 .i8 0].all fun i => i.wf && (encode i).isSome) = true ∧ (0#5 ≠ 0b10000#5) ∧ (31#5 ≠ 0b10000#5) ∧
    (match decodeHead 0x8200#16 0x18440000#64 with | .ok d => decide (d.instr = .add 3 1 2) | .error _ => false) = true := by
  decide +kernel

theorem wit_MemoryStaysCanonical : MemOk State.reset ∧ nexts (step State.reset) = true ∧ MemOk base ∧ nexts (step (base)) = true := by
  unfold MemOk; decide +kernel

theorem wit_ChecksBeforeEffects : (encode (.vand 16 0 0 0 0)).isSome = true ∧ base.cur.slot < 8 ∧
    (Instr.vand 16 0 0 0 0).wf = true ∧ ¬(16#6).toNat < 128 / base.here.mode ∧ (15#6).toNat < 128 / base.here.mode ∧
    ((useOf .tlbInvAll).priv = true ∧ base.ctxRuntime base.thr.ctx = false ∧ base.legal .tlbInvAll = true) ∧
    ((useOf (.ldv 1 1 0 0 .none 0)).heavy = true ∧ (thr fun t => { t with light := true }).thr.light = true ∧
      base.legal (.ldv 1 1 0 0 .none 0) = true) ∧
    ((useOf (.mzero 2 0 0)).acc = some 2 ∧ (base.here.acfg.extractLsb' (4 * (2#2).toNat) 4).toNat ≠ 8 + base.cur.slot ∧
      base.legal (.mzero 2 0 0) = true) ∧
    ((useOf (.add 3 24 1)).pops = [24, 1] ∧ isG 24 = false ∧ base.qid (qNum 24) = 0xFF) ∧
    (let s := core fun k => { k with ebudget := [(0, 3#64)] }
     ((s.here.ebud 0).extractLsb' 0 16).toNat < debit (useOf (.vadd 1 2 3 0 .i8 2)).energy ∧ s.legal (.vadd 1 2 3 0 .i8 2) = true) ∧
    (rdy (.vadd 15 2 3 0 .i8 2) base fun t => decide (t = base.pay 2)) = true := by decide +kernel

theorem wit_FaultEntry : has (base.takeFree (base.thrAt 0 0).ctx 8 (some (base.thrAt 0 0).ctl.taskh.toNat)) = true ∧ base.thr.mid = none ∧ base.ctxHandler 0 = 0 ∧
    ((base.cwSet (ctxOff 0 + 24) 0x100).ctxHandler 0 ≠ 0) ∧ Cause.pageAbsent.replayable = true ∧ Cause.priv.replayable = false ∧
    (thr fun t => { t with serves := some (0, 0, 1) }).thr.serves.isSome = true ∧
    State.reset.takeFree (State.reset.thrAt 0 0).ctx 8 (some (State.reset.thrAt 0 0).ctl.taskh.toNat) = none := by decide +kernel

theorem wit_HardWired : rdy (.pget 3) = true := by decide +kernel

/-- The instruction completes alone at its turn, as the frames ask. -/
def completes (i : Instr) (s : State) : Bool :=
  decide (s.cur.place = .single) && decide (s.cur.view = none) && decide (s.cur.flags = 0#5) && decide (s.thr.lastIssue ≠ s.cycle + 1) &&
  nexts (exec i s) fun t => decide ((t.thrAt s.cur.core s.cur.slot).lastIssue = s.cycle + 1)

theorem wit_ScalarFrame : ([Instr.add 3 1 2, .adds 23 1 2 true, .div 3 1 2 0, .cmp 15 1 2 .gen, .psetAll 1, .kand 7 1 2, .nop,
    .loop 1 0].all fun i => (scalarDests i).isSome && completes i base) = true := by decide +kernel

theorem wit_VectorFrame : ([Instr.vadd 1 2 3 0 .fp32 3, .vand 15 2 3 1 0, .vcmp 7 1 2 0 .i8 .eq 0, .vext 3 1 .i8 63].all fun i =>
    (vectorDests i).isSome && completes i base) = true := by decide +kernel

theorem wit_MemoryFrame : ([Instr.ld 3 1 .w64 false .none 0, .st 2 1 .w8 .none 0, .stv 1 1 1 0 .none 0, .ldv 1 1 0 0 .none 3].all fun i =>
    (memoryDests i).isSome && !mems.thr.speculative && completes i mems) = true := by decide +kernel

theorem wit_BundlesIssueTogether : clash (.add 3 1 2) (.mov 3 1) = true ∧ (let d : Dec := ⟨true, 0, .add 3 1 2⟩; let e : Dec := ⟨false, 0, .vand 1 2 3 0 0⟩
    clash d.instr e.instr = false ∧ base.legal d.instr = true ∧ base.legal e.instr = true ∧
    debit (useOf d.instr).energy + debit (useOf e.instr).energy ≤ ((base.here.ebud base.cur.slot).extractLsb' 0 16).toNat ∧
    base.src.guarded d.guard = true ∧ base.cur.view = none ∧
    nexts (exec d.instr (base.asHead .first base)) (fun s1 => decide (s1.cur.out = .ok) &&
      nexts (exec e.instr (s1.asHead .second base)) fun s2 => decide (s2.cur.out = .ok)) = true) := by decide +kernel

theorem wit_ResetState : MemOk State.reset := by unfold MemOk; decide +kernel
/-! ## Witnesses: queues, barriers, logical time -/

/-- Queue number 0 bound to a queue id. -/
def bound (id : BitVec 8) (q : Queue := {}) : State :=
  core (fun k => { k with queues := [(id.toNat, q)] }) (ctl fun c => { c with qmap := c.qmap - 0xFF#64 + id.setWidth 64 })

theorem wit_Queues_binding : ([0xFF#8, 0x00, 0x07, 0x10, 0x13, 0x1A].all fun id => rdy (.qmap 7 id) base fun s =>
      id == 0xFF#8 || (qExists s.cur.core s.cur.slot s.here.mode id.toNat &&
        (qEnds s.cur.core id.toNat).all fun e => decide ((s.queue e.1 e.2).owner = none))) = true ∧
    rdy (.qmap 0 1) (core fun k => { k with queues := [(1, { owner := some 5 })] }) (fun s => qOwned 1 && qExists 0 0 8 1 &&
      decide ((1, { owner := some 5 }) ∈ s.here.queues) && decide ((0, 1) ∈ qEnds s.cur.core 1)) = true := by decide +kernel

theorem wit_Queues_instructions : rdy (.qfree 3 0) (bound 0) (fun s => qCanPush s.cur.core (s.qid 0)) = true ∧
    rdy (.qlen 3 0) (bound 0) = true ∧ rdy (.qpeek 3 0) (bound 0 { items := [5] }) (fun s => qCanPop s.cur.core (s.qid 0) &&
      decide (s.srcHead (s.qid 0) = [5])) = true ∧
    rdy (.qpeek 3 0) (bound 0 { closed := true }) (fun s => decide (s.srcHead (s.qid 0) = []) && s.srcEnded (s.qid 0)) = true ∧
    (let try_ (s : State) : Bool := qCanPop 0 0 && decide ((s.queue 0 0).marks.getD 0 0 = 0)
     rdy (.qtry 3 0 1) (bound 0 { items := [5] }) (fun s => try_ s && !qPort 0 && decide ((s.queue 0 0).items = [5]) && decide (s.cur.landed.count 0 = 0)) &&
     rdy (.qtry 3 0 1) (bound 0) (fun s => try_ s && decide (s.srcItems 0 = 0) && !s.srcEnded 0) &&
     rdy (.qtry 3 0 1) (bound 0 { closed := true }) (fun s => try_ s && decide (s.srcItems 0 = 0) && s.srcEnded 0)) = true ∧
    (let put (s : State) : Bool := qCanPush 0 0 && !(s.srcQueue 0).closed && !s.targetGated 0 0
     rdy (.qput 0 1 1) (bound 0) (fun s => put s && decide (s.srcFree 0 ≠ 0) && decide ((s.queue 0 (qSend 0)).resv = [])) &&
     rdy (.qput 0 1 1) (bound 0 { resv := [⟨1, 0, none, 0⟩] }) (fun s => put s && decide (s.srcFree 0 ≠ 0) && decide ((s.queue 0 (qSend 0)).resv ≠ [])) &&
     rdy (.qput 0 1 1) (bound 0 { resv := List.replicate 64 ⟨1, 0, none, 0⟩ }) (fun s => put s && decide (s.srcFree 0 = 0)) &&
     rdy (.qput 0 1 1) (bound 0 { closed := true }) (fun s => (s.srcQueue 0).closed)) = true ∧ rdy (.qclose 0) (bound 0) = true := by decide +kernel

/-- The vertical link above tile 0 out of service. -/
def cut (s : State) : State := { s with bonds := [(0, { out := true })] }

theorem wit_Queues_transport : (let s := args [0, 1] (core fun k => { k with queues := [(0x10, { items := [5] }), (0x120, { items := [6] }),
      (0x29, { items := [7], seenFull := 1 })] })
    decide ((s.queue 0 0x10).items = [5]) && decide ((s.queue (portTile 0 4) 0x12).items.length < 16) && s.portUp 0 4 && !(cut s).portUp 0 4 &&
    decide ((s.queue 0 0x29).items = [7]) && decide ((s.queue (gradCore 0) 0x29).items.length < 64) && isTile (s.arg 0) &&
    s.pathUp 0 0 (gradCore 0) && s.pathUp 0 (gradCore 0) 0) = true ∧
    (let s := args [0, 0] (core fun k => { k with queues := [(0x120, { items := [6] })] })
     decide ((s.queue 0 (0x120 + s.arg 1 % 6)).items = [6]) && decide ((s.queue (portTile 0 0) 0x21).items.length < 16) && s.portUp 0 0) = true ∧
    (let s := args [0, 1] (base.modQueue (portTile 0 4) 0x12 fun q => { q with popped := 1 })
     decide ((s.queue (portTile (s.arg 0) 4) 0x12).popped ≠ 0) && s.portUp (portTile 0 4) 5) = true := by decide +kernel

/-- With barrier 1 of the base quad, and wide barrier 448 of its core, as given. -/
def bars (b : Barrier) : State := (base.setBar 0 1 b).setBar 0 448 { b with bound := some 0 }

theorem wit_BarrierInstructions :
    rdy (.barInit 1 1) (regs [(1, 0xFFFFFFFF#64)]) (fun s => decide ((barHere s 1).owner = none) && decide ((barHere s 1).arrivals = 0#32) &&
      decide ((barHere s 1).pending = 0) && decide ((barHere s 1).credit = 0) && decide ((src1 s 1).extractLsb' 32 32 = 0#32)) = true ∧
    rdy (.barInit 1 448) (regs [(1, 0xFF#64)] (bars {})) (fun s => decide ((barHere s 448).bound ≠ none) &&
      decide ((src1 s 1).setWidth 32 &&& ~~~(0xFF#32) = 0#32)) = true ∧
    ([1#9, 448].all fun id => let b : Barrier := { owner := some 0, members := 1 }
      let ok (s : State) : Bool := decide ((barHere s id).owner = some s.thr.ctx) && (decide (id.toNat < 448) || (barHere s id).bound.isSome)
      rdy (.barJoin id) (bars b) ok && rdy (.barBits 3 id) (bars b) ok && rdy (.barExp 1 id) (bars b) ok &&
      ([Instr.barArr id, .barDrop id, .barLeave id].all fun i => rdy i (bars b) fun s => ok s &&
        (barHere s id).members.getLsbD (barIndex s) && !(barHere s id).waiting.getLsbD (barIndex s) && still s .quad && still s .pkg) &&
      ([Instr.barArr id, .barDrop id].all fun i => rdy i (bars { b with waiting := 1 }) (fun s => ok s && (barHere s id).waiting.getLsbD (barIndex s)) &&
        rdy i (bars { b with members := 0 }) fun s => ok s && !(barHere s id).members.getLsbD (barIndex s)) &&
      rdy (.barLeave id) (bars { b with members := 0 }) (fun s => ok s && !(barHere s id).members.getLsbD (barIndex s)) &&
      rdy (.barWait id) (bars b) (fun s => ok s && !(barHere s id).waiting.getLsbD (barIndex s) && !(barHere s id).passed.getLsbD (barIndex s) &&
        (barHere s id).members.getLsbD (barIndex s)) &&
      rdy (.barExp 1 id) (regs [(1, BitVec.allOnes 64)] (bars b)) (fun s => ok s && decide (2 ^ 48 ≤ (src1 s 1).toNat)) &&
      rdy (.barArr id) (bars { b with owner := some 5 }) (fun s => !ok s) &&
      ([Instr.barWait id, .barTry 1 id].all fun i =>
        rdy i (bars { b with waiting := 1 }) (fun s => ok s && (barHere s id).waiting.getLsbD (barIndex s)) &&
        rdy i (bars { b with passed := 1 }) (fun s => ok s && !(barHere s id).waiting.getLsbD (barIndex s) &&
          (barHere s id).passed.getLsbD (barIndex s)) &&
        rdy i (bars { b with members := 0 }) fun s => ok s && !(barHere s id).passed.getLsbD (barIndex s) &&
          !(barHere s id).members.getLsbD (barIndex s))) = true := by decide +kernel

theorem wit_BarrierInstructions_faults : (let busy (s : State) (id : BitVec 9) : Bool := let b : Barrier := barHere s id;
      (has b.owner (fun o => o != s.thr.ctx) || b.arrivals != 0#32 || b.pending != 0 || b.credit != 0 || decide (448 ≤ id.toNat) && b.bound.isNone)
    ([{ owner := some 5 }, { arrivals := 1 }, { pending := 1 }, { credit := 1 }].all fun (b : Barrier) => [1#9, 448].all fun id =>
      rdy (.barInit 1 id) (bars b) fun s => busy s id) &&
    rdy (.barInit 1 511) base (fun s => busy s 511) &&
    rdy (.barInit 1 1) (regs [(1, 0x100000000#64)]) (fun s => !busy s 1 && decide ((src1 s 1).extractLsb' 32 32 ≠ 0#32)) &&
    rdy (.barInit 1 448) (regs [(1, 0x100#64)] (bars {})) (fun s => isTile s.cur.core && decide (inQuad s.cur.core = 0) && !busy s 448 &&
      decide ((src1 s 1).setWidth 32 &&& ~~~(0xFF#32) ≠ 0#32)) &&
    rdy (.barExp 1 1) (bars { owner := some 5 }) (fun s => decide ((barHere s 1).owner ≠ some s.thr.ctx))) = true := by decide +kernel

theorem wit_BarrierPhases : (let b : Barrier := { members := 3, arrivals := 3 }
    b.members ≠ 0#32 ∧ b.arrivals = b.members ∧ b.pending = 0) ∧ (let b : Barrier := { members := 3, arrivals := 1 }
    ¬(b.members ≠ 0#32 ∧ b.arrivals = b.members ∧ b.pending = 0)) ∧ (Barrier.post {} 5).isSome = true ∧
    ({ credit := 2 ^ 48 - 2 } : Barrier).credit + 1 < 2 ^ 48 := by decide +kernel

theorem wit_BarrierPhases_networks : (let b : Barrier := { members := 1, arrivals := 1, bound := some 0, sent := true }
    let at_ (b : Barrier) (ns : List Nat) : State := args ns (core fun k => { k with wide := [(448, b)] })
    let net (b : Barrier) (ns : List Nat) (w : WideNet) : State := { at_ b ns with wideNets := [(((at_ b ns).netOf 0 448).getD 0, w)] }
    let hub (s : State) : Nat := wideHub (s.arg 0) (FMap.get {} (s.core (s.arg 0)).wide (s.arg 1) : Barrier).bound
    let sent (s : State) : Bool := has (s.netOf (s.arg 0) (s.arg 1)) fun n => (FMap.get {} (s.core (s.arg 0)).wide (s.arg 1) : Barrier).sent &&
      decide (s.arg 0 ∈ (s.wideNet n).members) && decide (s.arg 0 ∉ (s.wideNet n).arrived) && decide (s.arg 0 ∉ (s.wideNet n).owing) &&
        s.pathUp 0 (s.arg 0) (hub s)
    let ends (s : State) (owes : Bool) : Bool := has (s.netOf (s.arg 0) (s.arg 1)) fun n =>
      (s.wideNet n).members.any (fun m => !(s.wideNet n).arrived.contains m) && (decide (s.arg 0 ∈ (s.wideNet n).owing) == owes) && s.pathUp 0 (hub s) (s.arg 0)
    sent (net b [0, 448] ⟨[0], [], []⟩) && sent (net b [0, 448] ⟨[0, 5], [], []⟩) && sent (net { b with bound := some 2 } [0, 448] ⟨[0], [], []⟩) &&
    sent (net { b with bound := some 3 } [0, 448] ⟨[0], [], []⟩) && ends (net b [0, 448] ⟨[0, 5], [], [0]⟩) true &&
    ends (net b [0, 448] ⟨[0, 5], [], [5]⟩) false &&
    (let s := net { b with bound := some 2 } [0, 448, 1] ⟨[0], [0], []⟩
     let down := { s with bonds := [(4096, { out := true })] }
     !down.pathUp 0 0 (hub down) && !down.pathUp 0 (hub down) 0 &&
     decide (s.arg 2 = 1) && s.pathUp 0 (hub s) 0 && has (s.netOf 0 448) fun n => decide (0 ∈ (s.wideNet n).members) && decide ((s.wideNet n).arrived = [0]))) = true := by
  decide +kernel

theorem wit_BarrierPhases_gates : (let q (g : Gate) (s : State := State.reset) : State := args [0] { s with quads := [(0, { gate := g })] }
    decide (((q .pending).quad 0).gate = .pending) && (q .pending).gateReady 0 && (q (.closing 0)).gateReady 0 &&
    decide (0 ≤ (q (.closing 0)).cycle) && !(q (.closing 0) base).gateReady 0 && has ((q (.closing 0)).saveQuad 0) &&
    decide ((q (.closing 0)).skims = []) && (List.range 4).all (fun i => decide (((q (.closing 0)).core (quadTile 0 i)).tabOwner = none) &&
      (List.range 4).all fun n => decide (((q (.closing 0)).core (quadTile 0 i)).accSlot n = none)) &&
    decide (((q (.waking 0)).quad 0).gate = .waking 0)) = true := by decide +kernel

theorem wit_LogicalTime_summaries : summary 4 0 3 0xFFFE#64 = some 0xFFFF#64 ∧ summary 4 0 3 0xFFFF#64 = none ∧
    summary 1 0 0 0xFFFEFFFFFFFFFFFF#64 = none ∧ (0#64 ≠ BitVec.allOnes 64) ∧ (summary 4 2 3 0#64).isSome = true := by decide +kernel

/-- Launch 0 with two stages, entered and left by one edge each. -/
def loops : State := launch fun l => { l with stages := [1, 2], edges := [(0, 1, 1, 0), (0, 0, 2, 0)] }

/-- `movable`, and `timeAllowed`, as functions. -/
def moves (s : State) (st : Nat) (tm : Word) : Bool :=
  !s.thr.speculative && still s .pkg && s.countRoom 0 0 st tm && (counted (noted s) st tm 1).countRoom 0 0 (stageOf s.thr.ctl) s.thr.ctl.ltime
def timely (s : State) (st : Nat) (tm : Word) : Bool :=
  has (s.myLaunch.reach (stageOf s.thr.ctl) s.thr.ctl.ltime st) fun r => decide (r ≤ tm) && fitsDepth tm (s.myLaunch.depth st) &&
    decide (tm ≠ BitVec.allOnes 64)

theorem wit_LogicalTime_moves : rdy (.ltGet 3 3) = true ∧
    ([(Instr.ltEnter, 1), (.ltLeave, 2)].all fun p => rdy p.1 loops fun s =>
      let es := s.myLaunch.edges.filter fun e => e.1 == stageOf s.thr.ctl && e.2.2.1 == p.2
      has es.head? fun e => decide (es = [e]) && has (summary (s.myLaunch.depth 0) p.2 0 s.thr.ctl.ltime) fun tm => moves s e.2.1 tm) = true ∧
    rdy .ltEnter base (fun s => decide ((s.myLaunch.edges.filter fun e => e.1 == 0 && e.2.2.1 == 1).length ≠ 1)) = true ∧
    rdy .ltEnter (launch (fun l => { l with edges := [(0, 0, 1, 0)] }) (ctl fun c => { c with ltime := BitVec.allOnes 64 }))
      (fun s => decide (summary (s.myLaunch.depth 0) 1 0 s.thr.ctl.ltime = none)) = true ∧
    rdy .ltStep base (fun s => has (summary (s.myLaunch.depth 0) 0 (s.myLaunch.depth 0 - 1) s.thr.ctl.ltime) fun tm => moves s 0 tm) = true ∧
    rdy .ltStep (ctl fun c => { c with ltime := 0xFFFF000000000000#64 }) (fun s =>
      decide (summary (s.myLaunch.depth 0) 0 (s.myLaunch.depth 0 - 1) s.thr.ctl.ltime = none)) = true := by decide +kernel

/-- The base state with context 0 valid. -/
def valid (s : State := mems) : State := s.cwSet (ctxOff 0) 1

theorem wit_SpawnsAndLaunches_spawns : ([Instr.spawn 3 1 0, .spawnLight 3 1 0, .ordSpawn 3 1 0, .ordSpawnLight 3 1 0].all fun i =>
    let with_ (s : State) (p : State → List Byte → Bool) : Bool := rdy i s fun s =>
      let u := (s.rd 1).2; lined u (src1 s 1).toNat 2 && p u (linesAt u (src1 s 1).toNat 2)
    let f (bs : List Byte) (at_ n : Nat) : Nat := leNat ((bs.drop at_).take n)
    let made (s : State) (bs : List Byte) : Bool := decide (f bs 65 1 < 2) && decide (f bs 67 1 = 0) && decide (f bs 70 2 = 0) && decide (f bs 80 48 = 0) &&
      decide (f bs 64 1 < s.myLaunch.stages.length)
    let goes (s : State) (bs : List Byte) : Bool := made s bs && decide (f bs 66 1 = 0) && s.ctxValid s.thr.ctx && !s.thr.speculative &&
      decide (s.dispatch = []) && decide (s.spawned = [])
    with_ valid (fun s bs => goes s bs && decide (f bs 65 1 = 0) && decide (f bs 64 1 = stageOf s.thr.ctl) && s.countRoom 0 0 0 s.thr.ctl.ltime) &&
    with_ (valid.setByte (sliceKey 0 65) 1) (fun s bs => goes s bs && decide (f bs 65 1 = 1) && timely s 0 (word (f bs 56 8)) && s.countRoom 0 0 0 (word (f bs 56 8))) &&
    with_ ((launch (fun l => { l with stages := [1, 1], edges := [(0, 1, 0, 0)] }) valid).setByte (sliceKey 0 64) 1) (fun s bs => goes s bs && decide (f bs 65 1 = 0) &&
      decide (f bs 64 1 ≠ stageOf s.thr.ctl) && has (summary 1 0 0 s.thr.ctl.ltime) fun tm => s.countRoom 0 0 1 tm) &&
    with_ (valid.setByte (sliceKey 0 67) 1) (fun s bs => !made s bs) &&
    rdy i (regs [(1, slice0 + 32)]) (fun s => decide ((src1 s 1).toNat % 64 ≠ 0))) = true ∧
    rdy (.ordSpawn 3 1 0) (early valid) (fun s => ordered s.thr.ctl && lined (s.rd 1).2 (src1 s 1).toNat 2) = false := by decide +kernel

/-- No dispatcher is full that has no tasks. -/
theorem wit_SpawnsAndLaunches_room (s : State) (z : Nat) (h : s.dispatch = []) (h' : s.spawned = []) : s.dispatchFull z = false := by
  unfold State.dispatchFull
  rw [h, h']
  exact decide_eq_false (Nat.not_le_of_lt (Nat.lt_of_lt_of_le (show 0 + 0 < 4096 by decide) (Nat.le_add_left _ _)))

/-- Packets of kinds 1 and 2 in slice 0. -/
def packs (kind : Nat := 0x010000000001) : State := valid.writeN (sliceKey 0 0) kind 8

theorem wit_SpawnsAndLaunches_launch : (let p : Packet := ⟨[], true, 0, 0, 0, 0, 0, 0, 0, 0⟩
    let read (s : State) (q : State → List Byte → Bool) : Bool := rdy (.launch 1 1 0) s fun s => let u := (s.rd 1).2; let v := noted u
      still u .pkg && lined v (src1 s 1).toNat 1 && q v (linesAt v (src1 s 1).toNat 1)
    let near (s : State) : Bool := decide (s.devQ.length < 4096) && s.ovf.all fun q => q.prio != s.myLaunch.prio
    let far (s : State) : Bool := decide ((s.ovf.filter fun q => q.ctx == s.thr.ctx).length < (s.cwGet (ctxOff s.thr.ctx + 48)).toNat % 2 ^ 32)
    let go (s : State) : Bool := !s.thr.speculative
    read packs (fun s bs => go s && decide (field bs 0 1 = 1) && !packetBad bs && near s) &&
    read ({ packs with ovf := [p] }.cwSet (ctxOff 0 + 48) 2) (fun s bs => go s && !packetBad bs && !near s && far s) &&
    read { packs with ovf := [p] } (fun s bs => go s && !packetBad bs && !near s && !far s) &&
    read (packs 2) (fun s bs => go s && decide (field bs 0 1 = 2) && !packetBad bs && near s && decide (field bs 7 1 < s.myLaunch.stages.length) &&
      s.ctxValid s.thr.ctx && timely s 0 (word (field bs 24 8)) && decide (field bs 6 1 = 0) && s.countRoom 0 0 0 (word (field bs 24 8))) &&
    read (packs 3) (fun _ bs => decide (field bs 0 1 ≠ 1) && decide (field bs 0 1 ≠ 2)) && read (packs 0xFF000001) fun _ bs => packetBad bs) = true ∧
    packs.gran = [] ∧ packs.ovf.length < 2 ^ 34 := by decide +kernel

theorem wit_HoldsAndFrontiers_holds : (let light (a : Option (Option Nat)) := thr fun t => { t with light := true, homeAns := a }
    let told (s : State) : State := s.setThr { s.thr with homeAns := none }
    let full := thr fun t => { t with holds := List.replicate 8 (0, 0#64) }
    let one := thr fun t => { t with holds := [(0, 0#64)] }
    let may (s : State) : Bool := decide (0 < s.myLaunch.stages.length) && timely (s.rd 1).2 0 (src1 s 1) && !s.thr.speculative
    rdy (.tcapHold 1 0) base (fun s => may s && !s.thr.light && decide (s.thr.holds.length < 8) && s.countRoom 0 0 0 (src1 s 1)) &&
    rdy (.tcapHold 1 0) full (fun s => may s && decide (8 ≤ s.thr.holds.length)) &&
    [none, some (some 0), some (some 1)].all (fun a => rdy (.tcapHold 1 0) (light a) fun s => may s && s.thr.light && decide (s.thr.homeAns = a) &&
      (told s).countRoom 0 0 0 (src1 s 1) && decide (s.cur.place = .single)) &&
    rdy (.tcapFree 1 0) one (fun s => may s && decide ((0, src1 s 1) ∈ s.thr.holds) && s.countRoom 0 0 0 (src1 s 1)) &&
    rdy (.tcapFree 1 0) base (fun s => may s && decide ((0, src1 s 1) ∉ s.thr.holds)) &&
    [none, some (some 0), some (some 2)].all fun a => rdy (.tcapFree 1 0) (light a) fun s => may s && s.thr.light && decide (s.thr.homeAns = a) &&
      (told s).countRoom 0 0 0 (src1 s 1)) = true ∧
    (let s (free : Bool) (rs : List HomeRec) : State :=
      args [7] (core (fun k => { k with homes := rs }) ({ base with net := [(7, .home 3 1 9 0 0 0 5 free 0), (8, .homeAns 3 1 9 0 0 0)] }.setThrAt 3 1
        { st := .running, ctl := { taskh := 9 } }))
     let come (s : State) (n : Nat) : Bool := has (s.msg n) fun m => s.mayArrive n m
     come (s true [⟨9, 0, [(0, 5)], false⟩]) 7 && come (s false [⟨9, 0, List.replicate 8 (0, 5), false⟩]) 8 &&
     decide (((s false []).core 0).homes.length < 64) && decide (((s true []).thrAt 3 1).ctl.taskh = 9) && decide ((base.thrAt 3 1).st = .empty) &&
     decide (((List.replicate 64 (⟨8, 0, [], false⟩ : HomeRec)).filter fun r => !r.out).length = 64)) = true := by decide +kernel

theorem wit_HoldsAndFrontiers_waits : rdy (.plumbGet 3 0) base (fun s => decide (0 < s.myLaunch.stages.length)) = true ∧
    rdy (.plumbWait 1 0) base (fun s => decide (s.myLaunch.reach 0 0#64 0 = some 0#64)) = true ∧
    (let s (v : Word) : State := core (fun k => { k with views := [(1, v)] }) (regs [(1, 5#64)] (launch fun l => { l with stages := [1, 1] }))
     rdy (.plumbWait 1 1) (s 6) (fun s => decide (1 < s.myLaunch.stages.length) && decide (s.myLaunch.reach 0 0#64 1 = none) &&
      decide ((s.holdsOf s.thr) = []) && decide (src1 s 1 < s.view 0 0 1)) &&
     rdy (.plumbWait 1 1) (s 5) (fun s => decide (¬src1 s 1 < s.view 0 0 1) && isTile s.cur.core)) = true ∧
    (let s : State := { base with cur := { core := 2048, npc := 0x40004 } }
     let s := (s.setThr { st := .running, ctl := { taskh := 5 } }).modHere fun k => { k with views := [(1, 0#64)] }
     rdy (.plumbWait 1 1) (launch (fun l => { l with stages := [1, 1] }) s) fun s => !isTile s.cur.core &&
       decide (s.myLaunch.reach 0 0#64 1 = none) && decide (¬src1 s 1 < s.view 2048 0 1)) = true := by decide +kernel

theorem wit_CountsAndCommit : (let d : Delta := ⟨0, 0, 5, 1⟩
    let s := args [0] { base with quads := [(0, { times := [d], flush := true })], dieTimes := [(0, [d])], net := [(0, .batch 0 9 [d])] }
    decide ((s.quad 0).times ≠ []) && (s.quad 0).flush && decide (FMap.get [] s.dieTimes 0 ≠ []) && decide (s.arg 0 ≤ 8) &&
    decide (s.msg 0 = some (.batch 0 9 [d])) && s.mayArrive 0 (.batch 0 9 [d]) && s.pathUp 0 2560 0 && decide ((s.net.takeWhile fun m => m.1 != s.arg 0) = [])) = true ∧
    (let s := args [0, 0] (ctl (fun c => { c with stage := 0x8400#64 }) (thr fun t => { t with ended := true }))
     let u := s.thrAt 0 0
     decide (u.st ≠ .empty) && u.ended && u.speculative && s.nextToCommit u && decide (u.pend = []) && s.passedOn 0 .pkg &&
     (s.commitTask 0 0).passedOn 0 .pkg && s.here.spec.isEmpty && has ((s.commitTask 0 0).finishTask 0 0)) = true ∧
    (base.thrAt 0 0).ended = false := by
  decide +kernel
/-! ## Witnesses: rings, copies, collectives, the matrix unit -/

/-- Ring x through tile 0, enabled for context 0 and launch 0, and registers for `ring.put`: the slice, and a tag word. -/
def ringed (w : Word := 0x101000000#64) (g : Ring := { enabled := true }) : State :=
  { regs [(1, slice0), (2, w)] with rings := [(0, g)] }

theorem wit_EngineInstructions_ringPut : (
    let may (s : State) : Bool := isTile s.cur.core && (s.ring (ringHere s .x)).enabled &&
      decide ((s.ring (ringHere s .x)).ctx = s.thr.ctx) && decide ((s.ring (ringHere s .x)).launch = s.thr.launch)
    let tag (s : State) : Bool :=
      let w := s.rg 2
      decide (w.extractLsb' 36 28 = 0#28) && decide (w.extractLsb' 24 8 ≠ 0#8) && decide (w.extractLsb' 32 4 ≠ 0#4)
    let own (s : State) (n : Nat) : Bool := decide (2 ^ 47 + s.cur.core * 2 ^ 22 ≤ (s.rg 1).toNat ∧ (s.rg 1).toNat + n ≤ 2 ^ 47 + (s.cur.core + 1) * 2 ^ 22)
    let i := Instr.ringPut 1 2 true .x 15
    rdy i mems (fun s => isTile s.cur.core && !may s) &&
    rdy i (ringed 0x100000000) (fun s => may s && !tag s) &&
    rdy i (thr (fun t => { t with g := [(1, slice0 + 1), (2, 0x101000000)] }) (ringed)) (fun s => may s && tag s && decide ((s.rg 1).toNat % 64 ≠ 0)) &&
    rdy i (thr (fun t => { t with g := [(1, slice0 + 0x3FFE40), (2, 0x101000000)] }) (ringed)) (fun s => may s && tag s &&
      decide ((s.rg 1).toNat % 64 = 0) && !own s 512) &&
    rdy i (ringed) (fun s => may s && tag s && own s 512 && !s.thr.speculative && decide (FMap.find (posHere s .x) ((s.ring (ringHere s .x)).buf true) = none) &&
      lined s (s.rg 1).toNat 8 && s.countRoom 0 0 (stageOf s.thr.ctl) s.thr.ctl.ltime)) = true := by decide +kernel

theorem wit_EngineInstructions_rings : rdy (.ringMatch 1 63 0) mems (fun s => let u := (s.rd 1).2; isTile s.cur.core && !u.thr.speculative &&
      parted u (src1 s 1).toNat 16 && let bs := (List.range 16).map (fun j => u.byte ((sliceSpot (src1 s 1).toNat).loc.key + j))
        !(field bs 14 1).testBit 6 && decide (field bs 15 1 < 8) && !(field bs 14 1).testBit 7) = true ∧
    (let read (s : State) (q : State → List Byte → Bool) : Bool := rdy (.ringCfg 1 .x 0) s fun s => let u := (s.rd 1).2
      isTile s.cur.core && !u.thr.speculative && lined u (src1 s 1).toNat 1 && let bs := linesAt u (src1 s 1).toNat 1
        decide (field bs 0 1 < 2) && decide (field bs 1 1 < 64) && decide (field bs 16 48 = 0) && q u bs
     let on (n : Byte) : State := ((priv (ringed)).setByte (sliceKey 0 2) n).setByte (sliceKey 0 0) 1
     let off (h : Bool) : State := priv (ringed 0 { enabled := true, halted := h, poles := [(0, { remaining := 1 })] })
     let free (u : State) (bs : List Byte) : Bool := let g := u.ring (ringHere u .x)
       (field bs 0 1 != 1 || !g.enabled || g.launch == field bs 2 2) && (field bs 0 1 != 0 || !g.holds || g.halted)
     read (on 0) free && read (on 1) (fun u bs => !free u bs) && read (off true) free && read (off false) (fun u bs => !free u bs)) = true ∧
    (let d : Delivery := ⟨1, 0, some 1, {}, {}, [1], [], false, false⟩
     let s := { mems with deliveries := [(0, [d])] }
     rdy (.ringTake 3 1 true .x 0) mems (fun s => decide (s.myPair s.cur.core = none)) &&
     rdy (.ringTake 3 1 true .y 0) s (fun s => has (s.myPair s.cur.core) fun q => decide (q.ring ≠ ringHere s .y)) &&
     [true, false].all fun b => rdy (.ringTake 3 1 b .x 0) s fun s => has (s.myPair s.cur.core) fun q => decide (q.ring = ringHere s .x) &&
      !(if b then q.perchTaken else q.poleTaken) && !s.thr.speculative && decide ((s.rg 1).toNat % 64 = 0) &&
      (if b then q.perchLeft else q.poleLeft).all fun j => opened s ((s.rg 1).toNat + 64 * j) 64) = true ∧
    rdy (.ringSt 3 .z) base (fun s => isTile s.cur.core && !s.thr.speculative) = true ∧
    rdy (.ringDrain .y) base (fun s => !(s.ring (ringHere s .y)).enabled && !s.thr.speculative) = true ∧
    rdy (.ringDrain .x) (ringed) (fun s => (s.ring (ringHere s .x)).enabled && (s.ring (ringHere s .x)).idle) = true ∧
    rdy (.ringDrain .x) (ringed 0 { enabled := true, liveShown := 1 }) (fun s => !(s.ring (ringHere s .x)).idle) = true ∧
    rdy (.ringDrain .x) (ringed 0 { enabled := true, launch := 5 }) (fun s => decide ((s.ring (ringHere s .x)).launch ≠ s.thr.launch)) = true := by
  decide +kernel

theorem wit_RingSteps : (let c : Carried := { remaining := 1, lapLimit := 15, home := 1 }
    State.reset.cycle % 32 = 0 ∧ c.remaining ≠ 0 ∧ (15 : Nat) < ringLen 0 ∧ ringTile 0 ((0 + 1) % ringLen 0) = c.home ∧
    ringTile 0 ((15 + 1) % ringLen 0) ≠ c.home ∧ c.laps + 1 < c.lapLimit) ∧
    (let a : Carried := { remaining := 1 }; let b : Carried := { remaining := 255, perch := true }
     let s : State := { core (fun k => { k with matches_ := [(0, { valid := true, rings := 1 })] }) with
      rings := [(0, { enabled := true, poles := [(0, a)], perches := [(0, b)] })] }
     (s.matchFor 0 0 a b).isSome = true ∧ FMap.find 0 (s.ring 0).poles = some a ∧ FMap.find 0 (s.ring 0).perches = some b ∧
     (FMap.get [] s.deliveries 0).length < 8) := by decide +kernel

/-- A copy of 64 bytes from slice 0 to HBM address 0x50000. -/
def cp : Xfer := {
  core := 0, slot := 0, ctx := 0, taskh := 1, launch := 0, xid := 3, op := 0, w1 := slice0, w2 := 0x50000, src := linear 64, dst := linear 64
  total := 64, status := .queued, intr := false, handler := 0, bar := none, verAddr := 0, stamp := 0, eng := 0, live := true, seq := 9, at_ := 0 }

/-- With one transfer, named by the event's operand. -/
def copies (x : Xfer) (ns : List Nat := []) : State := args (9 :: ns) { base with xfers := [x] }

theorem wit_EngineInstructions_copies : (let s := regs [(4, 3#64), (5, slice0), (6, 0x50000#64), (7, 64#64)]
    let room (s : State) : Bool := decide (4 ≤ s.srcFree 0x1A) && decide ((s.xfers.filter fun x => x.core == s.cur.core && x.live).length < 64)
    let may (s : State) : Bool := room s && !s.held && decide (s.thr.pend = []) && !s.thr.speculative && decide ((s.queue s.cur.core 0x1A).items.length < 4) &&
      decide (s.nextAsker (engineOf s.cur.core) [s.cur.core] = some s.cur.core)
    rdy (.xfer 4) s may && rdy (.xferTry 4 1) s may && rdy (.xferWp 3 4) s (fun s => !s.thr.speculative) && rdy (.xferSt 3 4) s &&
    rdy (.xfer 4) (regs [(4, 0x1000000000003#64)]) (fun s => may s && decide ((s.src.gr 4).extractLsb' 48 16 ≠ 0#16)) &&
    (let live := { s with xfers := [{ core := 0, slot := 0, ctx := 0, taskh := 1, launch := 0, xid := 3, op := 0, w1 := 0, w2 := 0, src := linear 1
                                      dst := linear 1, total := 1, status := .queued, intr := false, handler := 0, bar := none, verAddr := 0, stamp := 0
                                      eng := 0, live := true, seq := 9, at_ := 0 }] }
     rdy (.xfer 4) live fun s => may s && !requestBad (s.src.gr 4) (s.src.gr 6) (s.src.gr 7) s.thr.light && has (s.xfer 0 0 3) fun x => x.live) &&
    rdy (.xferTry 4 1) (core (fun k => { k with queues := [(0x1A, { items := List.replicate 32 0 })] }) s) (fun s => !room s && !s.thr.speculative)) = true := by
  decide +kernel

theorem wit_EngineInstructions_linear : ([(3#64, 0x50000#64, 64#64), (0x100000003, 0x50000, 64), (0x300000003, 0, 8)].all fun p =>
    let s := mems; let w0 := p.1; let w3 := p.2.2; let op := (w0.extractLsb' 32 8).toNat; let g := linear w3.toNat
    !w0.getLsbD 41 && !w0.getLsbD 40 && decide (w0.extractLsb' 26 6 = 0#6) && decide (w0.extractLsb' 42 22 = 0#22) &&
    (op == 0 || op == 1 || op == 3 && p.2.1 == 0 && w3.toNat ≤ 4096) && (s.xfer 0 0 3).isNone &&
    (op != 0 || (g.pieces slice0).all fun q => s.rangeOk q.addr true) && (op == 3 || (g.pieces p.2.1).all fun q => s.rangeOk q.addr true) &&
    (op != 3 || ((linear (8 * w3.toNat)).pieces slice0).all fun q => s.rangeOk q.addr false) &&
    (op != 0 || !overlaps (s.footprint 0 g slice0) (s.footprint 0 g p.2.1)) && !w0.getLsbD 25) = true := by decide +kernel

theorem wit_CopiesRun_start : has ((copies cp).op 9) (fun x => decide (x.status = .queued)) = true ∧
    (let mine := (copies cp).xfers.filter fun y => y.live && y.eng == cp.eng
     decide ((mine.filter fun y => y.chan).length < 16) && mine.all fun y => decide (cp.seq ≤ y.seq)) = true ∧
    ((copies cp).xfers.all fun y => decide (cp.seq ≤ y.seq)) = true := by decide +kernel

theorem wit_CopiesRun : (let run := { cp with status := .running, chan := true }
    has ((copies run).op 9) (fun x => decide (x.status = .running) && decide (x.fin = none) && decide (x.sent < x.total) &&
      (match (copies run).source x x.next with
       | .bytes _ _ bs => decide (bs.length ≤ 64) && decide (0 < bs.length)
       | _ => false)) &&
    (match (copies run).engKey 0 0x50000 true run.self with
     | .ok (some k) => (match (copies run).lateLine run k 63 true with | .ok y => y.reaches (copies run) k | .error _ => false) &&
        decide ((copies run).poisonHit k 64 (lowBytes 64) true = none) && !(copies run).mmaReads run k &&
        (granulesOf k 64 (lowBytes 64)).all fun g => decide ((copies run).granQ g = [])
     | _ => false) &&
    has ((copies { run with fin := some .done, sent := 64, wp := 64 }).op 9) (fun x => has x.outcome) &&
    has ((copies { run with status := .parked }).op 9) (fun x => decide (x.owed = []) && decide (x.frec = 0#64)) &&
    has ((copies { run with owed := [(0, 64)], sent := 64 } [0, 0]).op 9) (fun x => decide (x.owed = [(0, 64)]) && decide (x.bar = none)) &&
    (let t := (thr fun t => { t with heldXfer := [(3, 1, 0x100)] }).thrAt 0 0
     decide (t.heldXfer = [(3, 1, 0x100)]) && !t.ctl.trapcause.getLsbD 16 && decide (t.st ≠ .empty)) &&
    (let s := args [0] (core fun k => { k with queues := [(0x1A, { items := [3, 0, 0, 0] })] })
     decide (s.nextAsker (engineOf (s.arg 0)) = some 0) && s.recFree 0 && decide (4 ≤ (s.queue 0 0x1A).items.length))) = true := by decide +kernel

/-- Group 5 of context 0, whose router at tile 0 has a local member, with a state of the member. -/
def grouped (st : Nat) (e : GroupEntry := { children := 64 }) : State :=
  { base with groups := [(5, e)], groupLaunch := [(5, 0)] }.setColl 0 5 0 ⟨st, { lo := 7 }⟩

theorem wit_EngineInstructions_collectives : (
    let may (e : GroupEntry) (st : Nat) (s : State) : Bool := !s.thr.light && isTile s.cur.core &&
      decide (s.groupAt s.cur.core 5 = some e) && s.ownsGroup s.thr.ctx 5 && e.children.testBit 6 && !s.thr.speculative &&
      decide ((s.collAt s.cur.core 5 s.thr.ctx).st = st) && !(s.collAt s.cur.core 5 s.thr.ctx).res.stale && !s.treeLive s.thr.ctx
    let e : GroupEntry := { children := 64 }; let v : GroupEntry := { children := 64, op := 6 }
    rdy (.collPut 1 5 0) (grouped 0) (may e 0) && rdy (.collGet 3 5 0) (grouped 2) (may e 2) &&
    rdy (.collAgree 3 1 5 0) (grouped 0 v) (fun s => may v 0 s && decide (s.thr.latch = none)) &&
    rdy (.collAgree 3 1 5 0) (thr (fun t => { t with latch := some 1 }) (grouped 2 v)) (fun s => may v 2 s && decide (s.thr.latch ≠ none))) = true ∧
    (let x := { cp with op := 3, status := .running, total := 8, src := linear 8, w2 := 0 }
     let s := { (copies x).writeN (sliceKey 0 0) (5 * 2 ^ 44) 8 with groupLaunch := [(5, 0)] }
     has (s.op 9) (fun x => decide (x.status = .running) && decide (x.op = 3) && decide (x.wp < x.total)) &&
     (match s.engRead x slice0.toNat 8 true with
      | .bytes _ y bs => decide (bs.length = 8) && (s.treeRecord y.ctx (word (leNat bs))).isSome
      | _ => false) && !s.someInPut 5) = true := by decide +kernel

theorem wit_CollectiveRounds_stale : (let s := args [7] { grouped 1 with net := [(7, .nack 0 64 5 true), (8, .nack 0 64 5 false), (9, .collRes 0 5 1 {})] }
    has (s.msg 7) (fun m => decide (m = .nack 0 64 5 true)) && has (s.msg 8) (fun m => decide (m = .nack 0 64 5 false)) && s.nackUp 0 64 &&
    has (s.groupAt 0 5) && s.notCurrent 0 5 1 && has (s.msg 9) (fun m => decide (m = .collRes 0 5 1 {})) && s.resultUp 0 5) = true := by decide +kernel

theorem wit_CollectiveRounds : (let s := args [7] ({ grouped 1 with net := [(7, .coll 0 6 5 0 {}), (8, .collRes 0 5 0 {})] })
    has (s.msg 7) (fun m => decide (m = .coll 0 6 5 0 {})) && decide (FMap.find (inKey 0 5 6) s.collIn = none) && !s.notCurrent 0 5 0 &&
    s.notCurrent 0 5 1 && decide (base.groupAt 0 5 = none) && s.inputUp 0 6 5 && s.resultUp 0 5 && has (s.msg 8) && has (s.groupAt 0 5) && decide ((s.collAt 0 5 0).st = 1)) = true := by decide +kernel

/-- Accumulator 3 owned by slot 0, K in register 4, the slice in register 1. -/
def mats (n : Word := 8) : State := core (fun k => { k with acfg := 0x8000#64 }) (regs [(1, slice0), (4, n)])

theorem wit_MatrixInstructions_acceptance : rdy (.mzero 3 0 0) (mats) (fun s => decide (s.here.mq.length < 4)) = true ∧
    ([(2, 32), (8, 0)].all fun p => rdy (.mma 3 0 4 (.over .fp16 .bf16) true 0 0) (core (fun k => { k with mode := p.1 }) (mats (word p.2))) fun s =>
      let kk := (s.rg 4).toNat; let need := 64 * ((kk + matPer .fp16 - 1) / matPer .fp16)
      decide (kk = p.2) && s.cap (matFeature .fp16) && s.cap (matFeature .bf16) && decide (colBytes (matWidth .bf16) kk ≤ 2 ^ 17) &&
      fine (s.sampleScales s.src.ctl.scla .fp16 kk) (fun sa => !badType .fp16 sa) &&
      !s.bLocked s.cur.core 0 (colBytes (matWidth .bf16) kk) (List.range 64) && decide (need ≤ 128 / s.here.mode)) = true ∧
    rdy (.mma 3 24 4 (.over .fp16 .bf16) false 0 0) (ctl (fun c => { c with qmap := c.qmap - 0xE7#64 }) (mats))
      (fun s => decide (s.qid (qNum 24) = 0x18) && qExists 0 0 8 0x18 && mmaQueue 0x18) = true ∧
    rdy (.mrd 3 0 0 0 63 false 0 (.over .fp32) 0 0) (mats) (fun s => !s.env.sr && match s.rowCheck mrdQueue 0 0 0 63 false 0 (.over .fp32) with
      | .ok _ => true
      | .error _ => false) = true ∧
    rdy (.mwr 3 0 0 0 0 false 3 (.over .fp32) 0 0) (mats) (fun s => match s.rowCheck mwrQueue 0 0 0 0 false 3 (.over .fp32) with
      | .ok _ => true
      | .error _ => false) = true ∧
    ([Instr.msave 3 1 0, .mrest 3 1 0].all fun i => rdy i (mats) fun s => isTile s.cur.core && decide ((s.rg 1).toNat % 64 = 0) &&
      decide (2 ^ 47 ≤ (s.rg 1).toNat) && s.heldRange s.thr.ctx s.cur.core 0 20480 && !s.thr.speculative) = true ∧
    rdy (.bld 1 4 2047 0 0 0 0) (mats 64) (fun s => isTile s.cur.core && decide ((s.rg 4).toNat % 64 = 0) && decide (2047 * 64 + 64 ≤ 2 ^ 17) &&
      s.heldRange s.thr.ctx s.cur.core 0 64 && s.bHeld s.thr.ctx s.cur.core (2047 * 64) && !s.bLocked s.cur.core (2047 * 64) 64 [0]) = true := by
  decide +kernel

theorem wit_MatrixInstructions_pointers : ([(0x1FFC0#64, true), (0x20000, false)].all fun p => rdy (.bsel 1 3) (regs [(1, p.1)] (mats)) fun s =>
      decide ((src1 s 1).toNat % 64 = 0) && decide ((src1 s 1).toNat < 2 ^ 17) == p.2) = true ∧
    rdy (.bsel 1 3) (regs [(1, 1#64)] (mats)) (fun s => decide ((src1 s 1).toNat % 64 ≠ 0)) = true ∧
    ([Instr.mcfgSrc 1, .mcfgStride 1].all fun i => rdy i (regs [(1, 0x3FFFC0#64)]) fun s => decide ((src1 s 1).toNat < 2 ^ 22)) = true ∧
    rdy (.mcfgGo 1) (regs [(1, 4096#64)]) (fun s => decide (s.here.feeder.left = 0) && s.here.slots.all (fun p => decide (p.2.feed = none)) && decide ((src1 s 1).toNat ≤ 4096) &&
      s.heldRange s.thr.ctx s.cur.core 0 (64 * 4096) && !s.thr.speculative) = true ∧
    rdy .mcfgStop = true ∧ rdy (.mwait 3) (mats) (fun s => decide (s.here.mxp = none) && decide (s.here.mq = [])) = true ∧
    (let s := core (fun k => { k with tabOwner := some 0 }) mems
     rdy (.mxpTab 1 0) (s.writeN (sliceKey 0 40) 64 4) (fun s => decide (s.here.tabOwner = some s.thr.ctx) && decide (s.here.mxp = none) &&
      fine ((s.rd 1).2.bulk (src1 s 1).toNat 1) fun r => decide (tabFault r.1 = none)) &&
     rdy (.mxp 15 0 0) (core (fun k => { k with xtabs := [(0, List.replicate 40 0 ++ [64] ++ List.replicate 23 0)] }) s) (fun s =>
      decide (s.here.tabOwner = some s.thr.ctx) && decide (tabWord (s.xtab s.cur.core s.thr.ctx) 40 ≠ 0) && !s.thr.speculative)) = true := by
  decide +kernel

theorem wit_MatrixResults : ([MKind.mzero, .mma 0 .fp16 .bf16 true, .msave 0, .mrest 0].all fun k =>
      let s := args [0] (core fun c => { c with mq := [mop k] })
      decide ((s.core (s.arg 0)).mq = [mop k]) && decide ((mop k).wants ≤ (mop k).staged.length) && decide (s.poison = []) && decide (s.gran = []) &&
      decide (s.away = []) && decide ((s.core 0).pool = [])) = true ∧
    (accAdd 0 0 (2 ^ 39) (.fin true 0 0)).1 = 2 ^ 39 := by decide +kernel

theorem wit_MatrixMoves : (let with_ (o : MOp) (s : State) : State := args [0] (core (fun c => { c with mq := [o] }) s)
    let out (s : State) : Bool := decide (s.away = []) && decide ((s.core 0).pool = []) && isTile (s.arg 0)
    out (with_ (mop (.bld (2 ^ 22 - 128) 128 2046 63 1)) base) && (with_ (mop (.bld (2 ^ 22 - 128) 128 2046 63 1)) base).gran.isEmpty &&
    (let o := { mop (.mrd 0 4 .fp32 0) with wid := some 3, row := 0, taskh := base.thr.ctl.taskh }
     let s := with_ o (thr fun t => { t with windows := [win 3 0 ((List.range 16).map .v) 1 []] })
     decide (rowEntries .fp32 = 4) && decide (o.queue = none) && decide ((s.thrAt 0 0).ctl.taskh = o.taskh) && decide ((s.core 0).mode = 8) &&
     (List.range 16).all fun m => decide (Dest.v (o.row + m) ∈ (win 3 0 ((List.range 16).map .v) 1 []).dests)) &&
    Fmt.isRow .fp32 && !(vEnv 0 0).sr && (let o : MOp := { mop (.mwr 63 1 .fp32 0) with staged := List.replicate 4 7 }
     decide (o.wants ≤ o.staged.length) && decide (o.bad = []))) = true := by decide +kernel

theorem wit_MatrixEvents : (let s := args [0] (core fun k => { k with feeder := { left := 1, row := 63 } })
    let f := (s.core 0).feeder
    decide (f.left ≠ 0) && s.heldRange f.ctx 0 (f.runSrc + f.row * f.runStride + 64 * f.panel) 64 && !s.qClosed 0 0x18 && decide (s.qFree 0 0x18 ≠ 0) &&
      decide ((s.queue 0 0x18).resv = [])) = true ∧
    (let s (n : Nat) := args [0] ((quadCores 0).foldl (fun s c => s.modCore c fun k => { k with mxp := some (0, 16, 0, 0, if c = 0 then n else 0) }) base)
     let at_ (n : Nat) : Bool := (quadCores 0).all fun c => has ((s n).core c).mxp fun m => decide (m.1 = 0) && decide (m.2.2.2.2 ≤ n) && ((s n).core c).mq.isEmpty
     at_ 65536 && decide ((s 65536).gran = []) && decide ((s 65536).cycle % 8 = 0) && decide (((s 65536).quad 0).mxpLost = []) && at_ 65537 &&
     decide (({ s 65537 with cycle := 65537 } : State).mxpLate 0 = some 0)) = true ∧
    (let t := (thr fun t => { t with heldFlag := true }).thrAt 0 0
     t.heldFlag = true ∧ t.ctl.trapcause.getLsbD 16 = false ∧ t.st ≠ .empty ∧ ({ base with trapvec := [(0, 0x100#64)] } : State).trapVec t.ctx ≠ 0#64) := by
  decide +kernel
/-! ## Witnesses: vectors, special functions, the skim stack -/

/-- Every integer format is one with its signedness and width, and every float format one with its parts. -/
theorem wit_VectorArithmetic_formats : ([(Fmt.i8, true, 8), (.n8, false, 8), (.i16, true, 16), (.n16, false, 16), (.i32, true, 32), (.n32, false, 32),
      (.i64, true, 64), (.n64, false, 64), (.pk, true, 4)].all fun p => decide (base.env.cf p.1 = .int p.2.1 p.2.2)) = true ∧
    base.env.cf .fp16 = .flt fp16 ∧ base.env.cf .bf16 = .flt bf16 ∧ base.env.cf .fp32 = .flt fp32 ∧
    (ctl fun c => { c with efmt := 0x2001 }).env.cf .pk = .int false 6 := by decide +kernel

theorem wit_VectorArithmetic : ([Fmt.i8, .n64, .fp32, .fp16].all fun f => ([Instr.vadd 1 2 3 0 f 0, .vsub 1 2 3 0 f 0, .vmul 1 2 3 0 f 0, .vmin 1 2 3 0 f 0,
      .vmax 1 2 3 0 f 0].all fun i => rdy i)) = true ∧
    ([Fmt.i8, .n64].all fun f => rdy (.vadds 1 2 3 0 f 0) && rdy (.vsubs 1 2 3 0 f 0)) = true ∧ rdy (.vmulh 1 2 3 0 .i16 0) = true ∧
    ([Fmt.i8, .fp16].all fun f => rdy (.vabs 1 2 0 f 0) && rdy (.vneg 1 2 0 f 0)) = true := by decide +kernel

theorem wit_VectorArithmetic_fused : ([Fmt.i8, .n64, .fp32].all fun f => rdy (.vfma 1 2 3 4 0 f 0) && rdy (.vfms 1 2 3 4 7 f 0)) = true ∧
    ([(Fmt.i8, Fmt.i32), (.n16, .n64), (.pk, .i32), (.fp16, .fp32)].all fun p => rdy (.vdot 1 2 3 4 0 p.1 p.2 0)) = true ∧
    base.env.pkw = 4 ∧ base.env.pks = Fmt.isSigned .i32 ∧ base.env.pks ≠ Fmt.isSigned .n32 ∧ rdy (.vdot 1 2 3 4 0 .pk .n32 0) = true := by decide +kernel

theorem wit_VectorLogic : ([Instr.vand 1 2 3 0 0, .vor 1 2 3 0 0, .vxor 1 2 3 0 0, .vnot 1 2 0 0, .vmov 1 2 0 0, .vzero 1 0 0, .vsel 1 2 3 1 0,
      .vcmp 1 2 3 0 .i8 .ltn 0, .vcmp 1 2 3 0 .fp32 .uo 0, .vcmp 1 2 3 0 .pk .eq 0, .vclass 1 2 0 .bf16 0, .vshl 1 2 3 0 .i8 0,
      .vshr 1 2 3 0 .n64 0, .vsra 1 2 3 0 .i32 0, .vshli 1 2 0 .i64 63 0, .vshri 1 2 0 .i8 7 0, .vsrai 1 2 0 .i16 15 0].all fun i => rdy i) = true ∧
    base.env.w .pk = 4 ∧ ([Instr.vshli 1 2 0 .pk 4 0, .vshri 1 2 0 .pk 4 0, .vsrai 1 2 0 .pk 4 0].all fun i => rdy i) = true := by decide +kernel

theorem wit_VectorConversions : (let ok (s : State) (d f : Fmt) : Bool := scaleOk (s.env.cf d) (s.env.cf f) s.env.sb
    rdy (.vcvt 1 2 0 .fp32 .i32 0) base (fun s => ok s .fp32 .i32 && decide (s.env.w .fp32 = s.env.w .i32)) &&
    rdy (.vcvt 1 2 0 .i8 .n8 0) base (fun s => decide (s.env.cf .i8 = .int true 8) && decide (s.env.cf .n8 = .int false 8)) &&
    rdy (.vpack 1 2 3 0 .fp16 .fp32 0) base (fun s => ok s .fp16 .fp32 && decide (s.env.w .fp16 < s.env.w .fp32)) &&
    rdy (.vunpk 1 2 0 .fp32 .fp16 true 0) base (fun s => ok s .fp32 .fp16 && decide (s.env.w .fp16 < s.env.w .fp32)) &&
    rdy (.vcvt 1 2 0 .e3m2 .pk 0) base (fun s => decide (s.env.w .e3m2 ≠ s.env.w .pk)) &&
    rdy (.vpack 1 2 3 0 .pk .e3m2 0) (ctl fun c => { c with efmt := 0x2001 }) (fun s => decide (¬s.env.w .pk < s.env.w .e3m2)) &&
    rdy (.vunpk 1 2 0 .e3m2 .pk false 0) (ctl fun c => { c with efmt := 0x2001 }) (fun s => decide (¬s.env.w .pk < s.env.w .e3m2)) &&
    rdy (.vscl 1 2 3 0 .fp16 0) (rows [(3, 0x1F#512)]) (fun s => decide (scaleType (el 8 (s.rv 3) 0).toNat = 0)) &&
    rdy (.vscl 1 2 3 0 .fp16 0) (rows [(3, 0x40#512)]) (fun s => decide (scaleType (el 8 (s.rv 3) 0).toNat ≠ 0))) = true := by decide +kernel

theorem wit_VectorReductionsAndMoves_reductions : ([(Fmt.i8, RedOp.xor_), (.n64, .min), (.fp32, .add), (.bf16, .max)].all fun p =>
    rdy (.vred 1 2 0 p.1 p.2 0) && rdy (.vscan 1 2 0 p.1 p.2 0)) = true := by decide +kernel

theorem wit_VectorReductionsAndMoves_moves : ([Instr.vperm 1 2 3 4 0 .i8 0, .vshuf 1 2 0 .i8 (.rot 63) 0, .vshuf 1 2 0 .i8 (.bc 63) 0, .vshuf 1 2 0 .i8 (.rev 5) 0,
      .vshuf 1 2 0 .i8 .uzp 0, .vshuf 1 2 0 .i8 .zip 0, .vbc 1 2 0 .i8 0, .vext 3 1 .i8 63, .vins 1 2 .i64 7].all fun i => rdy i) = true ∧
    (let s := ctl fun c => { c with efmt := 0x2001 }
     s.env.w .pk = 6 ∧ ([Instr.vshuf 1 2 0 .pk (.rev 0) 0, .vshuf 1 2 0 .pk .uzp 0, .vshuf 1 2 0 .pk .zip 0, .vshuf 1 2 0 .pk (.bc 63) 0].all fun i => rdy i s) = true) ∧
    rdy (.vqrecv 1 0 0 0) (bound 0 { items := [5] }) = true ∧ rdy (.vqsend 0 1) (bound 0) = true := by decide +kernel

theorem wit_SpecialFunctions : (let own := core fun k => { k with tabOwner := some 0 }
    let mine (t : Nat) (s : State) : Bool := decide (s.srcCore.tabOwner = some s.thr.ctx) && decide (s.srcCore.tabWant = none) &&
      s.srcCore.slots.all fun p => p.2.windows.all fun w => decide (w.tab ≠ some (.loads t))
    ((List.range 8).all fun n => [(Fmt.fp32, n), (.bf16, n + 8)].all fun f =>
      rdy (specialOp n 1 2 0 f.1 15 0) own (mine f.2) && rdy (specialOp n 1 2 0 f.1 15 0) base (fun s => !mine f.2 s) &&
      rdy (specialOp n 1 2 0 f.1 15 0) (thr (fun t => { t with windows := [(win 0 3 [] 0 [] 0 false (some (.loads f.2)))] }) own) (fun s => !mine f.2 s)) &&
    rdy (.ctabLoad 1 15 0) (core (fun k => { k with tabOwner := some 0 }) mems) (fun s => mine 15 (s.rd 1).2 && lined (s.rd 1).2 (src1 s 1).toNat 16) &&
    rdy (.ctabLoad 1 15 0) (regs [(1, slice0 + 63)]) (fun s => decide ((src1 s 1).toNat % 64 ≠ 0)) &&
    decide (fp32.value 0x80000001 ≠ fp32.value 0) && decide (fp32.value 0x3F800000 ≠ fp32.value 0) &&
    (match fp32.value 0x7FC00001 with | .nan _ _ => true | _ => false) &&
    (match fp32.value 0xBF800000 with | .fin s m _ => s && m != 0 | _ => false)) = true := by decide +kernel

theorem wit_SpecialFunctions_tables : (let w (n : Nat) : Window := (win n 0 [] 0 [.ctab 3 [7]] 0 false (some (.loads 3)))
    let r : Window := (win 9 0 [.v 1] 0 [] 0 false (some (.reads 3)))
    let s (ws : List Window) : State := args [0, 0, 4] (thr fun t => { t with windows := ws })
    let reads (s : State) : Bool := (s.core 0).slots.any fun p => p.2.windows.any fun w => decide (w.tab = some (.reads 3))
    decide (w 4 ∈ ((s [w 4]).thrAt 0 0).windows) && !reads (s [w 4]) && reads (s [w 4, r]) &&
    (let x (o : Option Nat) (m : Option (Nat × Nat × Nat × Nat × Nat)) : State := args [0] (core (fun k => { k with tabOwner := o, tabWant := some 5, mxp := m })
       { base with coreImgs := [(0, { addr := 0x90000 })] })
     [none, some 0].all (fun o => decide (((x o none).core 0).tabWant = some 5) && decide (((x o none).core 0).mxp = none) &&
       ((x o none).core 0).slots.all fun p => p.2.windows.all fun w => decide (w.tab = none)) && has ((x (some 0) none).coreImg 0 0) &&
     has ((x none (some (0, 1, 0, 0, 0))).core 0).mxp)) = true := by decide +kernel

/-- No speculative task has read anything. -/
def unread (s : State) : Bool := s.cores.all fun p => p.2.spec.all fun e => !e.read

/-- A skim stack of the base thread, in slice 0. -/
def skim (k : Skim) (s : State := base) : State := s.setMySkim { k with base := slice0, lim := slice0 + 960 }

/-- `EntryOpen` as a function. -/
def entryOpen (s : State) (ctx ea : Nat) : Bool := @decide (EntryOpen s ctx ea) (by delta EntryOpen Granted; exact inferInstance)

theorem wit_SkimStack : (let m : Skim := { depth := 2, marks := [(31, 2), (5, 3)] }
    rdy (.skimMark 31) && rdy (.skimDep 3) && rdy (.skimChk 1 31) &&
    rdy (.skimCut 31) (skim m) (fun s => !s.thr.speculative && decide (FMap.find 31 s.mySkim.marks = some 2) && decide (2 ≤ s.mySkim.depth)) &&
    rdy (.skimCut 5) (skim m) (fun s => decide (FMap.find 5 s.mySkim.marks = some 3) && decide (s.mySkim.depth < 3)) &&
    rdy (.skimCut 6) (skim m) (fun s => decide (FMap.find 6 s.mySkim.marks = none)) &&
    (let late (s : State) : Bool := decide (s.srcSkim.depth ≠ 0) || s.thr.speculative
     let odd (s : State) : Bool := decide ((s.rg 1).toNat % 64 ≠ 0 ∨ (s.rg 2).toNat % 64 ≠ 0)
     rdy (.skimArea 1 2) (regs [(1, slice0), (2, slice0 + 960)]) (fun s => !late s && !odd s && decide (s.rg 1 ≤ s.rg 2) && areaOk (s.rg 1) (s.rg 2)) &&
     rdy (.skimArea 1 2) (skim m) late &&
     rdy (.skimArea 1 2) (regs [(1, slice0 + 32), (2, slice0 + 960)]) (fun s => !late s && odd s) &&
     rdy (.skimArea 1 2) (regs [(1, slice0 + 64), (2, slice0)]) (fun s => !late s && !odd s && decide (s.rg 2 < s.rg 1))) &&
    (let k : Skim := { depth := 7, onCore := ((List.range 7).map fun n => (6 - n, 5)) }
     let s := args [0, 0, 0] (skim k)
     decide ((s.skim 0 0 0).onCore = ((List.range 6).map fun n => (6 - n, 5)) ++ [(0, 5)]) && unread s &&
     decide (s.gran = []) && entryOpen s 0 (s.skim 0 0 0).base.toNat) &&
    (let s := args [0, 0, 0] (skim { depth := 5, onCore := ((List.range 4).map fun n => (4 - n, 5)) })
     let k := s.skim 0 0 0
     decide (k.onCore.length ≤ 4) && decide (k.onCore.length < k.depth) && k.onCore.all (fun p => decide (p.1 < k.depth ∧ k.depth ≤ p.1 + k.onCore.length)) &&
     decide (k.saved = []) && entryOpen s 0 (k.base.toNat + 96 * (k.depth - k.onCore.length - 1)) && decide (s.gran = []))) = true := by decide +kernel

theorem wit_ReversibleInstructions_forward : (let s := regs [(4, 3#64)] (skim {} (rows [(3, 0x1F#512)]))
    let room (s : State) : Bool := decide (s.srcSkim.depth < s.srcSkim.capacity) && decide (s.mySkim.onCore.length < 8)
    rdy (.rvsra 1 2 0 .i16 15 0) s room && rdy (.rvmul 1 2 4 0 .n64 0) s (fun s => room s && decide ((s.rg 4).toNat % 2 ^ s.env.w .n64 ≠ 0)) &&
    rdy (.rvact 1 2 0 .i8 31 0) s room && rdy (.rvact 1 2 0 .fp32 31 0) s (fun s => room s && decide (s.env.cf .fp32 = .flt fp32)) &&
    rdy (.rvact 1 2 0 .fp32 31 0) (ctl (fun c => { c with round := 4 }) s) (fun s => room s && s.env.sr) && !Fmt.pk.isInt && !Fmt.fp16.isInt && rdy (.rvact 1 2 0 .pk 1 0) s (fun s => room s && s.env.pks) &&
    rdy (.rvcvt 1 2 0 .fp16 .fp32 0) s (fun s => room s && decide (s.env.w .fp16 < s.env.w .fp32) &&
      scaleOk (s.env.cf .fp16) (s.env.cf .fp32) s.env.sb) &&
    rdy (.rvscl 1 2 3 0 .bf16 0) s (fun s => room s && decide (scaleType (el 8 (s.rv 3) 0).toNat = 0)) &&
    rdy (.rvsra 1 2 0 .pk 4 0) s (fun s => decide (s.env.w .pk ≤ 4)) &&
    rdy (.rvmul 1 2 5 0 .n64 0) s (fun s => decide ((s.rg 5).toNat = 0)) &&
    rdy (.rvcvt 1 2 0 .pk .e3m2 0) (ctl (fun c => { c with efmt := 0x2001 }) s) (fun s => decide (s.env.w .e3m2 ≤ s.env.w .pk)) &&
    rdy (.rvscl 1 2 3 0 .bf16 0) (rows [(3, 0x40#512)]) (fun s => decide (scaleType (el 8 (s.rv 3) 0).toNat ≠ 0)) &&
    rdy (.rvact 1 2 0 .pk 1 0) (ctl (fun c => { c with efmt := 0x2000 }) s) (fun s => !s.env.pks) &&
    rdy (.rvsra 1 2 0 .i16 15 0) base (fun s => decide (s.srcSkim.capacity ≤ s.srcSkim.depth))) = true := by decide +kernel

/-- The pairs of `ReversibleRoundTrip`, and the undos of `ReversibleInstructions`. -/
theorem wit_ReversibleRoundTrip : (let i : List (Instr × Instr) := [(.rvsra 1 2 0 .i16 15 0, .unsra 1 2 0 .i16 15 0), (.rvmul 1 2 4 0 .n64 0, .unmul 1 2 4 0 .n64 0),
      (.rvact 1 2 0 .i8 31 0, .unact 1 2 0 .i8 31 0), (.rvcvt 1 2 0 .fp16 .fp32 0, .uncvt 1 2 0 .fp16 .fp32 0),
      (.rvscl 1 2 3 0 .bf16 0, .unscl 1 2 3 0 .bf16 0)]
    let s := regs [(4, 3#64)] (skim {} (rows [(3, 0x1F#512)]))
    i.all fun p => nexts (exec p.1 s) (fun t => rdy p.2 t fun u => !u.thr.speculative && decide (u.mySkim.depth = 1) &&
        (match u.mySkim.onCore with
         | [(0, _)] => true
         | _ => false) && decide (u.mySkim = t.mySkim) && decide (u.here.mode = s.here.mode)) &&
      rdy p.2 s (fun u => decide (u.mySkim.depth = 0)) &&
      rdy p.2 (ctl (fun c => { c with stage := 0x8400#64 }) s) fun u => u.thr.speculative) = true := by decide +kernel
/-! ## Witnesses: launches, slots, contexts -/

/-- The host's writes reach the bridge, and writes reach the host: a port in host mode carries traffic. -/
def online (s : State := base) : State := { s with pci := [(4, 6)], bring := { s.bring with screed := true } }.cwSet 0 0xFF38
/-- Queue 0 on, with a ring of two packets at 0x90000, one completion place, and its window and ring as given. -/
def queue0 (w : WorkQ := {}) (s : State := online) : State :=
  { (s.cwSet (wqOff 0) 0x90000).cwSet (wqOff 0 + 16) 0x800001 with workQ := [(0, w)] }

theorem wit_LaunchesLive_ports : (let s := args (0 :: 0 :: List.replicate 64 7) (queue0 { tail := 1 })
     let g := (s.hbmLoc (s.wqRing 0 + 64)).key / 8
     let t := { s with gran := [(g, [⟨7, acc0 (.amo .add true 1 0), .waiting⟩])] }
     t.wqEnabled 0 && g ∈ granulesOf (8 * g) 64 allBytes && (t.granQ g).length == 1 && !t.hostWaits .wqWindowWrite && t.barOpen && t.bring.screed) = true ∧
    ([Instr.wqWindowWrite, .doneHeadWrite].all fun i => !base.hostWaits i && !base.barOpen && !(args [3, 1] online).hostWaits i) = true ∧
    (let s (slot : Nat) (done : Bool) := args [3] { online with completions := [⟨3, [], false, 2047, done⟩], groupSlot := slot }
     [0, 1].all fun n => [true, false].all fun b => has ((s n b).completions.find? fun c => c.queue == 3) (fun c => c.sent == b && decide (c.vector < 2048)) &&
      (s n b).hostWrites && decide ((s n b).groupSlot = n) && decide (((s n b).wqDoneTail 3 + 2 ^ 32 - (s n b).wqDoneHead 3) % 2 ^ 32 ≠ (s n b).wqDoneEntries 3)) = true := by
  decide +kernel

theorem wit_LaunchesLive_queues : (let s := args [0, 0, 1, 2] queue0
     s.wqEnabled 0 = true ∧ s.barOpen = true ∧ s.bring.screed = true ∧ ¬(0 ≤ 63 ∧ 63 < 0 + 2) ∧ base.barOpen = false) ∧
    (let s := args (0 :: 0 :: List.replicate 64 7) (queue0 { tail := 1 })
     s.wqEnabled 0 = true ∧ (0 : Nat) ≤ 63 ∧ 63 < 0 + 64 ∧ ¬s.wqEntries 0 ≤ (s.wq 0).tail - (s.wq 0).head ∧ s.gran = []) ∧
    (let s := args [0, 63, 7] (queue0 { tail := 5, head := 3 })
     s.wqEnabled 0 = true ∧ 63 < 63 + 1 ∧ s.wqEntries 0 ≤ (s.wq 0).tail - (s.wq 0).head) ∧
    (args [65535, 63, 7] online).wqEnabled 65535 = false ∧
    (let p : Packet := ⟨[], true, 0, 0, 0, 0, 0, 0, 0, 0x90000⟩
     ({ base with ovf := [p] } : State).ovf = [p] ∧ base.devQ.length < 4096 ∧ (List.replicate 4096 p).length = 4096) ∧
    (let c : Completion := ⟨3, [], false, 2047, false⟩
     let s := args [3] { online with completions := [c] }
     (s.completions.find? fun c => c.queue == 3) = some c ∧ (s.wqDoneTail 3 + 2 ^ 32 - s.wqDoneHead 3) % 2 ^ 32 ≠ s.wqDoneEntries 3 ∧
     s.hostWrites = true ∧ base.hostWrites = false ∧
     (let s := s.cwSet (wqOff 3 + 24) 16
      (s.wqDoneTail 3 + 2 ^ 32 - s.wqDoneHead 3) % 2 ^ 32 = s.wqDoneEntries 3)) ∧
    (let s := args [3, 1] (online.cwSet (wqOff 3 + 24) 1)
     let d (n : Nat) : Nat := (n + 2 ^ 32 - s.wqDoneHead 3) % 2 ^ 32
     s.barOpen = true ∧ d 1 ≤ d (s.wqDoneTail 3) ∧ d (s.wqDoneTail 3) < d 2) := by decide +kernel

/-- The base state with a kernel image at the base of slice 0: its header (R90), and its code segment of one line. -/
def imaged : State :=
  let h (n : Nat) : Nat := sliceKey 0 n
  { base with mem := base.mem ++ [(h 0, 0x4C), (h 1, 0x4E), (h 2, 0x53), (h 3, 0x4B), (h 4, 1),
      (h 24, 2), (h 72, 255), (h 73, 255), (h 74, 255), (h 76, 255), (h 77, 255), (h 78, 255), (h 79, 255), (h 97, 1), (h 100, 64),
      (h 256, 1)] }
/-- A packet of a device launch of that image, of a kind. -/
def packet (kind : Byte := 1) : Packet :=
  ⟨[kind, 0, 0, 0, 0, 1, 0xFF, 0] ++ leBytes (2 ^ 47) 8 ++ List.replicate 48 0, true, 0, 0, 3, 0, 0, 0, 0, 0⟩

theorem wit_LaunchesLive_life : (let p := packet
     let s := { imaged with devQ := [packet 2, p], rrNext := 65536 }
     has s.bestOffer (fun o => decide (o.2.2 = packet 2) && decide (o.1 = 65536)) &&
     decide (({ imaged with devQ := [p] }).bestOffer = some (65536, 3, p)) && decide (field p.bytes 0 1 ≠ 2) &&
     (match imaged.checkLaunch p with
      | .ok r => decide (r.1.stages = [1])
      | .error _ => false) &&
     (match base.checkLaunch p with
      | .ok _ => false
      | .error e => decide (e = .header))) = true ∧
    (let bs := (packet).bytes
     let s := { (queue0 { tail := 1 }).writeN ((queue0).hbmLoc 0x90000).key (leNat bs) 64 with devQ := [] }
     has s.bestOffer fun o => !o.2.2.device && decide (o.2.2.bytes = bs)) = true ∧
    (let s := { base with devQ := [packet 2] }
     let gone := s.cwSet (ctxOff 0) 0
     let p := { packet 2 with origin := 2048 }
     let full := { gone with devQ := [p], dieTimes := [(8, List.replicate 2048 ⟨9, 0, 0, 1⟩)] }
     has s.bestOffer (fun o => decide (o.2.2 = packet 2)) && decide ((s.launch 0).active = true) && !(s.launch 0).aborted && s.ctxValid 0 &&
     !gone.ctxValid 0 && has gone.bestOffer (fun o => decide (o.2.2 = packet 2)) && gone.countRoom 0 0 0 0 && (packet 2).device &&
     !full.ctxValid 0 && p.device && has full.bestOffer (fun o => decide (o.2.2 = p)) && !full.childRoom p) = true ∧
    (let s := (queue0 { tail := 1, prev := some 5 }).writeN ((queue0).hbmLoc 0x90001).key 2 1
     let bs := s.bytesAt (s.hbmLoc (s.wqRing 0 + 64 * ((s.wq 0).head % s.wqEntries 0))).key 64
     (field bs 1 1).testBit 1 = true ∧ (s.wq 0).prev ≠ none) ∧
    (let w : Waiting := ⟨packet, { device := false, queue := 7, ringMask := 7, span := 0xFF }, {}⟩
     let s := args [0] { base with waiting := [w] }
     s.waiting[s.arg 0]? = some w ∧ s.freeNumbers.head? = some 1 ∧ s.canStart w = true ∧ s.countRoom 2048 0 64 0 = true ∧ w.l.device = false) ∧
    (let s := args [0] (launch fun l => { l with final := 5, ended := false })
     (s.launch 0).active = true ∧ (s.launch 0).aborted = false ∧ s.passed 0 = false) ∧
    (let s := args [0] { launch (fun l => { l with final := 0 }) with pkgTimes := [⟨0, 0, 1#64 <<< 48, 1⟩] }
     (s.launch 0).active = true ∧ (s.launch 0).ended = false ∧ s.passed 0 = true) ∧
    (let s := args [0] { launch (fun l => { l with ended := true }) with pkgTimes := [] }
     (s.launch 0).active = true ∧ s.stamps 0 = [] ∧ s.passed 0 = true) ∧ (base.stamps 0 ≠ []) ∧
    (let s := args [0, 0] (thr fun t => { t with st := .empty })
     (s.launch 0).active = true ∧ (s.launch 0).ended = false ∧ s.arg 1 ≠ 1 ∧ s.arg 1 ≠ 2 ∧ s.holders 0 = [] ∧ (s.launch 0).recorded = false) ∧
    (args [0, 2] base).arg 1 = 2 := by decide +kernel

/-- The base state with a save record in SaveFree as well. -/
def spare : State := base.setByte (State.reset.hbmLoc 0x80000).key 0x80#8

theorem wit_TasksReachSlots_pool : (let t : Task := { place := { kind := 1, num := 0 } }
     let s := args [0, 0] { base with spawned := [t], dispatch := [(0, [t])] }
     s.spawned[s.arg 0]? = some t ∧ (FMap.get [] s.dispatch 0).length < 4096 ∧ s.arg 1 < 4096 ∧ (FMap.get [] s.dispatch 0)[s.arg 1]? = some t ∧ t.first = false ∧
     s.emptiest ((placeCores 0 t.place).filter (s.candidate (s.launch 0))) = some 0 ∧ (s.core 0).pool.length + max 1 0 ≤ 64 ∧
     ((core (fun k => { k with pool := List.replicate 64 (.new t) }) s).core 0).pool.length = 64 ∧
     (let u := launch (fun l => { l with roles := [1, 0xFF, 3] }) s
      (u.launch 0).rolePins = [(1, 1), (3, 3)] ∧ (u.core 0).pool.length + max 1 2 ≤ 64 ∧ (u.core 0).pins = [] ∧ isTile 0 = true ∧
       u.outOf 0 1 = false ∧ u.outOf 0 3 = false ∧ (core (fun k => { k with pins := [(1, (0, 1))] }) u).emptiest ((placeCores 0 t.place).filter (u.candidate (u.launch 0))) = some 0 ∧
       ({ u with away := [⟨0, 3, 5, {}, false⟩] } : State).outOf 0 3 = true)) := by decide +kernel

theorem wit_TasksReachSlots_slot : (let t : Task := {}
     let s := args [0] (core (fun k => { k with pool := [.new t] }) base)
     ((s.poolOrder 0).findSome? fun e => (s.slotFor 0 e).map fun i => (e, i)) = some (.new t, 1) ∧ s.skims = []) ∧
    (let t : Thread := { st := .stalled, pc := 0x40002 }; let e : PoolEntry := .back 6 5 t true
     let s := args [0] (core (fun k => { k with pool := [.new {}, e] }) base)
     ((s.poolOrder 0).findSome? fun e => (s.slotFor 0 e).map fun i => (e, i)) = some (e, 6) ∧ t.restart = false ∧ t.savedMode = (s.core 0).mode ∧
     s.skims = [] ∧ unread s = true ∧ (s.areaKey 0 5).isSome = true ∧ (s.areaKey 0 (5 + 1016)).isSome = true) := by decide +kernel

theorem wit_TasksReachSlots_out :
    (let s := args [0] { core (fun k => { k with pool := [.back 0 0 { ctx := 1, savedMode := 8 } true] }) (thr (s := spare) fun t => { t with st := .parked (.ringDrain 0) 3 }) with cycle := 259 }
     decide ((s.core 0).leaving = none) && decide (s.swapSlot 0 = some 0)) = true ∧
    (let s (st : TState) (f : State) := args [0] { core (fun k => { k with leaving := some (0, base.thr.ctl.taskh, 64) }) (thr (s := f) fun t => { t with st := st }) with cycle := 64 }
     let goes (f : State) : Option (Nat × State) := f.takeFree 0 0 (some base.thr.ctl.taskh.toNat)
     [TState.parked (.ringDrain 0) 3, .running].all fun st =>
      decide (((s st base).core 0).leaving = some (0, ((s st base).thrAt 0 0).ctl.taskh, 64)) && decide (((s st base).thrAt 0 0).st = st) &&
      decide (((s st base).core 0).pool.length < 64) && (goes (s st base)).isNone && has (goes (s st spare)) && unread (s st spare)) = true ∧
    ((thr fun t => { t with st := .parked (.ringDrain 0) 3 }).thrAt 0 0).parkedAt = some 3 ∧ (base.thrAt 0 0).parkedAt = none := by decide +kernel

/-- The words of an instruction or a message that errors may mark. -/
theorem wit_ThreadsResume_marks : (let s (n : Nat) : State := { args [0, 0, n, 0, 11] (bound 0 { items := [5] }) with net := [(0, .collRes 0 5 0 {})] }
     let k := (s 4).setMySkim { base := slice0, lim := slice0 + 960, depth := 1, onCore := [(0, 5)] }
     decide (0 < ((s 3).queue 0 0).items.length) && decide ((0, 5) ∈ (k.skim (k.thrAt 0 0).ctx 0 0).onCore) && decide ((0, .collRes 0 5 0 {}) ∈ (s 5).net) &&
     (let u := args [0, 0, 1] (thr fun t => { t with st := .stalled }); decide ((u.thrAt 0 0).st ≠ .running)) && decide (5 < (s 6).arg 2)) = true ∧
    (let t : Thread := { st := .parked (.service 3) 0 }
     let s (pre : Bool) (full : Bool) : State := args [0, 5, 7, 8] (core (fun k => { k with pool := if full then List.replicate 64 (.new {}) else [] })
       { base with away := [⟨0, 5, 0x80000, t, pre⟩] })
     ([(false, false), (false, true), (true, false)].all fun p => let u := s p.1 p.2
      has (u.away.find? fun a => a.core == 0 && a.slot == 5 && (!a.preempted || a.thr.inService) && u.waitOver 0 a.thr) (fun a => a.thr.inService) && unread u &&
      decide ((u.thrAt 0 5).st = .empty)) &&
     (let w : Thread := { st := .parked (.ringDrain 0) 0 }
      let u : State := core (fun k => { k with pool := List.replicate 64 (.new {}) }) { base with away := [⟨0, 5, 0x80000, w, false⟩] }
      decide (64 ≤ (u.core 0).pool.length) && !w.inService && u.waitOver 0 w)) = true := by decide +kernel

theorem wit_ThreadsResume_waits : (let s := args [0, 0] (thr fun t => { t with st := .parked (.reservation 5) 0 })
     s.waitOver 0 (s.thrAt 0 0) &&
     (let t : Thread := { st := .parked (.ringDrain 0) 0 }
      let s := args [0, 5] { base with away := [⟨0, 5, 0x80000, t, false⟩] }
      decide ((s.thrAt 0 5).st = .empty) && has (s.away.find? fun a => a.core == 0 && a.slot == 5 && !a.preempted && s.waitOver 0 a.thr) &&
      decide ((s.core 0).pool.length < 64)) &&
     (let s := args [0, 0, 0] (thr fun t => { t with fault := some { cause := .illegalOp } })
      decide (s.arg 2 = 0) && (s.thrAt 0 0).fault.isSome) && decide ((args [0, 0, 2] base).arg 2 = 2) &&
     (let s := args [0, 0, 1] base; decide (s.arg 2 = 1) && decide ((s.thrAt 0 0).st = .running)) &&
     (let s := args [0, 0] (thr fun t => { t with st := .parked (.replay 0x80000) 0 })
      decide ((s.thrAt 0 0).st = .parked (.replay 0x80000) 0) && unread s && s.handlerRoom 0 (s.thrAt 0 0)) &&
     (let u := launch (fun l => { l with stages := [1] }) (base.cwSet (ctxOff 0 + 24) 0x100)
      let full := u.modQuad 0 fun q => { q with times := (List.range 64).map fun n => ⟨9, 0, word n, 1⟩ }
      !full.handlerRoom 0 (full.thrAt 0 0) && !(full.thrAt 0 0).handles)) = true := by decide +kernel

/-- The base thread at the end of its watchdog's count, with windows. -/
def dog (w : List Window) : State := args [0, 0] { thr (s := spare) (fun t => { t with dogPer := 3, windows := w }) with cycle := 8 }

/-- The watchdog fires and its notice finds a record. -/
def noticed (s : State) : Bool :=
  let t := s.thrAt 0 0
  decide (t.st ≠ .empty) && !t.heldDog && decide (t.dogPer ≠ 0) && decide (t.dog + 2 ^ t.dogPer ≤ s.cycle) &&
    has (s.notice 0 0 t { cause := .watchdog } t.ctl.taskh) fun s1 => decide (s1.cycle = s.cycle)
/-- After the notice its thread may leave its slot, which nothing wants. -/
def leaves (s : State) : Bool :=
  has (s.notice 0 0 (s.thrAt 0 0) { cause := .watchdog } (s.thrAt 0 0).ctl.taskh) fun s1 =>
    decide ((s.core 0).modeNext = none) && (s1.takeFree (s.thrAt 0 0).ctx 0 (some (s.thrAt 0 0).ctl.taskh.toNat)).isSome

theorem wit_ThreadsResume_watchdog : noticed (dog []) = true ∧ noticed (dog [(win 0 1 [] 1 [] 0)]) = true ∧ leaves (dog []) = true ∧
    noticed (core (fun k => { k with modeNext := some 4 }) (dog [])) = true ∧ (let s := (dog []).setByte (State.reset.hbmLoc 0x80000).key 0
      noticed s && !leaves s) = true ∧
    (let fixed (s : State) : Bool := (s.thrAt 0 0).light || 0 + 1 == (s.core 0).mode || (FMap.find 0 (s.core 0).pins).isSome
     let pinned := core (fun k => { k with pins := [(0, (0, 1))] }) (dog [])
     !fixed (dog []) && fixed pinned && noticed pinned) = true := by decide +kernel

theorem wit_ThreadsResume_contexts : (let s := args [0, 0] base
     unread s && (List.range 8).all fun i => !(s.thrAt 0 i).speculative) = true ∧
    (let img : CoreImg := { addr := 0x90000 }
     let s : State := { core (fun k => { k with out := [0] }) (thr fun t => { t with st := .empty }) with coreImgs := [(0, img)] }
     let bare := ((s.cwSet 0x60000 0).cwSet 0x60040 0)
     (0 ∈ (s.core 0).out ∧ (s.core 0).slots.all (fun p => decide (p.2.st = .empty)) = true ∧ (s.core 0).arrival = [] ∧ (s.core 0).mq = [] ∧ FMap.find 0 s.coreImgs = some img) ∧
     ((args [0, 0] bare).args.length = 2) ∧ ((List.range 192).all fun g => decide (bare.grantee 0 g ≠ some 0)) = true ∧ img.saved = false ∧
     (let one := (s.cwSet 0x60000 0x8000000000000000).cwSet 0x60040 0
      one.grantee 0 7 = some 0 ∧ ((List.range 192).all fun g => g == 7 || decide (one.grantee 0 g ≠ some 0)) = true ∧ one.copyIn 0 0 7 = false ∧ one.gran = []) ∧
     (let a (m : Nat) : Away := ⟨0, 3, 0x80000, { savedMode := m }, true⟩
      let t (m : Nat) := args [0, 0] { s with away := [a m] }
      let may (s : State) : Bool := decide (0 ∈ (s.core 0).out) && (s.core 0).modeNext.isNone &&
        s.away.all fun a => !a.of 0 0 || a.thr.savedMode == (s.core 0).mode
      let busy (s : State) : Bool := (List.range 192).any fun g => has (FMap.find (imageKey 0 0 g) s.images) fun a => s.granuleBusy 0 (granKey 0 g) a.toNat
      let held := { t 8 with images := [(imageKey 0 0 7, 0xA0000)], gran := [(granKey 0 7 / 8, [⟨7, acc0 .load, .waiting⟩])] }
      let homes := core (fun k => { k with homes := (List.range 65).map fun n => ⟨word n, 0, [], true⟩ }) (t 8)
      (may (t 8) && (t 8).here.homesFit 0 && !busy (t 8) && unread (t 8) && may held && busy held && may homes && !homes.here.homesFit 0) = true ∧
      (let img : CoreImg := { addr := 0x90000, saved := true, acc := [(3, [(5, 7)])] }; img.saved = true ∧ (([(5, 7)] : FMap Nat).map Prod.fst).Nodup) ∧
      may (t 8) = true ∧ may (t 4) = false ∧ (a 8).of 0 0 = true ∧ (a 8).slot ≠ 8 ∧
        (⟨0, 8, 0x80000, {}, true⟩ : Away).of 0 0 = true)) := by decide +kernel

/-! ## Witnesses: the host, the pod, the package -/

/-- A host port in full retrain, and requests that wait or do not; the entries and slots that a request may name. -/
theorem wit_HostAndControl_waits : (let shut := base.cwSet 0 0xFF30
     shut.hostShut && !base.hostShut &&
     ([Instr.hostConfigAccess, .bar4MemoryAccess, .wqWindowWrite, .doneHeadWrite, .controlWindowWrite].all fun i => !(args [4, 0] online).hostWaits i &&
      (let s := args [4, 0] { online with hostIn := [(i, [4, 0])] }; s.hostIn.any fun e => serviceOf e == serviceOf (i, s.args)))) = true ∧
    (let to_ (slot own : Nat) (cubes : FMap Nat) (ns : List Nat) : State :=
       args ns ({ online with groupSlot := own, slotCubes := cubes }.cwSet 0x100 (word (2 ^ 63 + slot * 2 ^ 56)))
     let open_ (s : State) : Bool := s.barOpen && s.bring.screed && (s.cwGet 0x100).getLsbD 63 && !s.hostWaits .bar4MemoryAccess
     [0, 1].all fun w => let far := to_ 15 0 [(15, 7)] [9, w, 0, 0x40000, 64]; let none_ := to_ 15 0 [] [9, w, 0, 0x40000, 64]
       let other := to_ 15 1 [] [9, w, 0, 0x40000, 64]; let sent := to_ 15 1 [] [9, w, 64, 0x40000, 64]; let big := to_ 0 0 [] [9, w, 0, 0x40000, 4097]
       open_ far && bitsOf (far.cwGet 0x100) 56 4 == 15 && far.groupSlot == 0 && far.slotCube 15 == some 7 && open_ none_ && (none_.slotCube 15).isNone &&
       open_ other && other.groupSlot == 1 && open_ sent && decide (64 ≤ sent.arg 2) && has (sent.hostKeys (sent.arg 2 / 64 - 1) 0x40000 64 (w == 1)) &&
       open_ big && decide (4096 < big.arg 4)) = true ∧
    (let s := online.cwSet 0x100 0x8000000000000000; let g := (base.hbmLoc 0x40000).key / 8
     has ({ s with gran := [(g, [⟨7, acc0 .load, .waiting⟩])] }.hostKeys 0 0x40000 64 true) fun ks =>
       ks.any fun k => g ∈ granulesOf k.1 k.2.2 (lowBytes k.2.2)) = true := by decide +kernel

theorem wit_HostAndControl_accesses : (let s := args [9, 0, 4092, 15, 0] base; s.arg 2 % 4 = 0 ∧ s.arg 2 < 4096 ∧ s.arg 1 = 0 ∧ s.hostWaits .hostConfigAccess = false) ∧
    (let s := args [9, 1, 4, 1, 6] base; s.arg 2 % 4 = 0 ∧ s.arg 1 = 1 ∧ s.arg 2 ≠ 0x44) ∧ (args [9, 1, 4096, 1, 6] base).arg 2 = 4096 ∧
    (let value (s : State) (b : Nat) : Bool := if (s.arg 3).testBit (b / 8) then (s.arg 4).testBit b else (s.cfgRead (s.arg 2)).testBit b
     let d3 := args [9, 1, 0x44, 1, 3] base; let d1 := args [9, 1, 0x44, 1, 1] base
     value d3 0 = value d3 1 ∧ value d1 0 ≠ value d1 1) ∧
    (let map (s : State) : State := s.cwSet 0x100 (0x8000000000000000#64)
     let mine (s : State) : Bool := (s.cwGet 0x100).getLsbD 63 && bitsOf (s.cwGet 0x100) 56 4 == s.groupSlot && s.bring.screed && s.barOpen
     mine base = false ∧ mine (map online) = true ∧
     (map online).hostKeys 0 (2 ^ 29 * 2 ^ 20) 8 true = none ∧
     has ((map online).hostKeys 0 0x40000 64 true) (fun ks => decide (ks = [(((base.hbmLoc 0x40000).key), 0, 64)]) &&
       ks.all fun k => (granulesOf k.1 k.2.2 (lowBytes k.2.2)).all fun g => decide (online.granQ g = [])) = true ∧ online.gran = [] ∧
     has ((map online).hostKeys 0 0x4003C 8 false) (fun ks => decide (ks.length = 2)) = true) ∧
    (let s := args [1, 4095, 0, 7] base; s.arg 0 = 1 ∧ s.arg 1 < 4096 ∧ s.arg 2 = 0) ∧ (args [1, 4096, 0, 7] base).arg 1 = 4096 ∧
    online.barOpen = true ∧ base.barOpen = false ∧ online.mayLeave (.msix 0) = true ∧ base.mayLeave (.msix 0) = false ∧
    tagAt_ 0 [7] = some 0 ∧ tagAt_ 2 [2, 7] = some 1 ∧ tagAt_ 3 [7] = none := by decide +kernel

theorem wit_HostAndControl_window : (let s := args [4, 0x90, 8, 0xFFFFFFFFFFFFFFFF] online
     plainMask 0x90 ≠ 0 ∧ s.serves 0x90 = true ∧ s.serves (2 ^ 22 - 8) = true ∧ s.barOpen = true ∧ base.barOpen = false) ∧
    (let s := args [4, 2 ^ 26 - 8, 8, 1] online
     s.hostWaits .controlWindowWrite = false ∧ s.groupSlot = 0 ∧ 2 ^ 22 ≤ s.arg 1 ∧ s.arg 1 < 2 ^ 26 ∧ s.arg 1 / 2 ^ 22 = 15 ∧
       ({ base with bring := {} } : State).serves 0x90 = false ∧ (args [2, 9, 2 ^ 22, 8] online).arg 2 = 2 ^ 22) ∧
    (args [5, 15, 15, 4095] base).args = [5, 15, 15, 4095] ∧ State.reset.bring.screed = false ∧ base.bring.screed = true ∧
    (args [0, 0x50000 + 64 * 63, 8, 0] online).bring.screed = true ∧ (args [1, 2559, 511, 3] online).arg 1 < 2560 ∧
    (let s := args [12, 3] base; s.portMode 0 ≠ 3 ∧ (List.range 12).all (fun q => decide (s.portMode q ≠ 3)) = true) ∧
    (let s := args [0, 3] (base.cwSet 8 0x30); (s.arg 1 = 3 ∧ s.portMode 1 = 3 ∧ s.portMode 0 ≠ 3)) ∧
    (base.cwGet 0x88).getLsbD 32 = false ∧ ((base.cwSet 0x88 0x100000000).cwGet 0x88).getLsbD 32 = true ∧
    (let s := args [2047, 191, 128] base
     s.arg 0 < 2048 ∧ s.arg 1 < 192 ∧ 128 ≤ s.arg 2 ∧ s.grantee 2047 191 ≠ some 0 ∧ FMap.find (imageKey 0 2047 191) s.images = none) ∧
    (base.cwGet 0x1300).getLsbD 63 = false ∧ ({ base with nonceMask := 255 }).nonceMask = 255 ∧ base.nonceMask ≠ 255 ∧
    (base.nonceMask < 256) := by decide +kernel

/-- A port of the torus with its lanes up, in a pod of two cubes along x. -/
def podded : State := (base.cwSet 0x80 (word (2 * 2 ^ 47 + 2 ^ 42 + 2 ^ 37))).cwSet 0 0xFF18
/-- A chain table of one slot of 1 µs, with a guard of 50 ns and a quota of 2 for cube 1 at port 0. -/
def chained : State :=
  { podded.cwSet 0 0xFF28 with chain := some { slots := [(1, 5, true, 2, some 1 :: List.replicate 11 none)] } }

theorem wit_FabricAndRepair_fabric : (let m : PodMsg := ⟨1, 0, 0, 0, [10, 1, 0, 0, 0, 4], 0⟩
     let s := args [0, 0] { podded with podOut := [m, m] }
     s.podOut[0]? = some m ∧ s.podFirst 0 m = true ∧ s.podFirst 1 m = false ∧ m.dst ≠ s.selfCube ∧ s.chain = none ∧ has (s.podPort m) (fun p =>
       decide (s.lanesUp p ≠ [])) = true ∧ 0 < m.bytes.length ∧ m.bytes.length ≤ 64 ∧ m.bytes.headD 0 = 10#8 ∧ (0 : Nat) = s.selfCube) ∧
    (let m : PodMsg := ⟨0, 1, 0, 0, [11, 5, 0], 0⟩
     let s := args [0, 0] { podded with podOut := [m] }
     s.podOut[0]? = some m ∧ s.podFirst 0 m = true ∧ m.dst = s.selfCube ∧ m.bytes.headD 0 = 11#8) ∧
    (let s (up : Bool) := args [0, 0] ((if up then online else base).cwSet 0x80 (word (2 * 2 ^ 47 + 2 ^ 42 + 2 ^ 37)))
     let to_ (s : State) (bs : List Byte) : State := { s with podOut := [⟨0, 1, 0, 0, bs, 0⟩], completions := [⟨3, [], false, 2047, true⟩] }
     let here (s : State) (bs : List Byte) : Bool := has (s.podOut[0]?) (fun m => s.podFirst 0 m && decide (m.dst = s.selfCube) && decide (m.bytes = bs))
     let b13 : List Byte := 13 :: 0 :: leBytes 4 4 ++ leBytes 64 8; let b14 : List Byte := 14 :: leBytes 4 4
     here (to_ (s true) b13) b13 && (to_ (s true) b13).hostWrites && field b13 2 4 != 0 && here (to_ (s false) b13) b13 &&
     !(to_ (s false) b13).hostWrites && here (to_ (s true) b14) b14 &&
     has ((to_ (s true) b14).completions.find? fun c => c.queue == field b14 1 4 - 1 && c.sent) fun c => decide (c.vector < 2048)) = true ∧
    (let m : PodMsg := ⟨1, 0, 1, 0, [1], 0⟩
     let s := args [0, 0] { podded with podOut := [m], chain := some { slots := [(1, 5, true, 2, some 1 :: List.replicate 11 none)] } }
     has s.chain (fun c => c.peer m.dst) = true ∧ m.cls ≤ 1) ∧
    (let a : Access := { acc0 .load with pod := some (word (3 * 2 ^ 62 + 2 ^ 48)) }
     let s := args [1, 5] { podded with net := [(5, .access a)] }
     s.msg 5 = some (.access a) ∧ s.mayArrive 5 (.access a) = true ∧ a.pod.isSome = true ∧ s.podSent.contains 5 = false) ∧
    (let s := args [0, 0x400, 1, 2] podded
     s.inService 0 = true ∧ (s.port 0).held = [] ∧ bitsOf (word (s.arg 1)) 36 2 = 0 ∧ bitsOf (word (s.arg 1)) 10 10 = 1 ∧ (s.port 0).seqIn = 0) ∧
    (let s := args [0, 3, 256] { podded with ports := [(0, { flits := [(3, 8 * 512)] })] }
     s.arg 2 < FMap.get 0 (s.port 0).flits 3 / 8 ∧ FMap.get 0 (s.port 0).flits 3 / 8 ≤ s.arg 2 + 256) ∧
    (let errs (s : State) : List Nat := (s.args.drop 2).take 4
     (∃ e ∈ errs (args [0, 8, 4, 4, 5, 0] podded), 4 < e) ∧ (∀ e ∈ errs (args [0, 8, 4, 4, 4, 4] podded), e ≤ 4) ∧
       (errs (args [0, 8, 4, 4, 4, 4] podded)).foldl (· + ·) 0 ≠ 0) ∧
    base.shadowChainOk = false ∧ ((((base.cwSet 0xE3000 1).cwSet 0xE3040 0x1050001)).shadowChainOk) = true ∧
    (let c : Chain := { start := 3 }
     let s := args [1] { podded with chainNext := some c, pod8 := 24 }; 8 * s.chainDue c ≤ s.pod8 ∧ 23 < 8 * s.chainDue c) ∧
    (let s := { chained with pod8 := 8 * 999 }
     has s.slotNow (fun q => decide (q.2.1 = 0)) = true ∧ s.chainSlot.isNone = true ∧ has s.chain (fun c => (c.slots[0]?).isSome) = true) ∧
    (let m : PodMsg := ⟨1, 0, 0, 0, [1, 2, 3], 0⟩
     let s := args [1] { chained with pod8 := 8 * 500, sendQ := [(1, [m])], chainSlot := some (0, [(1, 2)]) }
     FMap.get [] s.sendQ 1 = [m] ∧ s.chainPort 1 = some 0 ∧ s.lanesFree 0 ≠ []) := by decide +kernel

theorem wit_FabricAndRepair_lateral : (let s := args [12287, 0] base
     8192 ≤ s.arg 0 ∧ s.arg 0 < 12288 ∧ (s.bond 12287).failed.testBit 0 = false) ∧
    (let s := args [0, 4] base; (s.bond 0).failed.testBit 4 = false) ∧
    (let s := args [0, 1] { podded with ports := [(0, { full := true })], hostQ := [.msix 0] }
     s.arg 1 ≠ 0 ∧ (s.port 0).full = true ∧ s.portMode 0 ≠ 0) ∧
    ((base.chanMap.all fun p => decide (p.2.1 ≠ spareOf 5)) = true) := by decide +kernel

theorem wit_FabricAndRepair_links : (let s := args [8191, 4] { base with bonds := [(8191, { crc := List.replicate 15 (4, 0) })] }
     (s.arg 0 < 8192 ∧ (s.bond 8191).failed.testBit 4 = false ∧
      16 ≤ ((((s.bond 8191).crc.filter fun (e : Nat × Nat) => decide (s.cycle < e.2 + 2 ^ 20)) ++ [(4, s.cycle)]).filter fun (e : Nat × Nat) => e.1 == 4).length)) ∧
    (let s := args [0, 3] { base with bonds := [(0, { spareFor := 1, out := true })] }
     (s.bond 0).out = true ∧ (s.bond 0).failed.testBit 3 = false ∧ (s.bond 0).spareFor ≠ 7) ∧
    (let s := args [0, 7] podded
     s.inService 0 = true ∧ (s.port 0).full = false ∧ (s.port 0).dead.contains 7 = false ∧ (s.port 0).waiting.contains 7 = false ∧
     (s.port 0).retrain = none ∧ s.portMode 0 ≠ 0) ∧
    (let s := args [0, 0] { podded with ports := [(0, { retrain := some 7, fails := [(7, 1)], full := true })] }
     (s.port 0).retrain = some 7 ∧ FMap.get 0 (s.port 0).fails 7 ≠ 0 ∧ bitsOf (s.cwGet 0x4000) 32 4 ≠ 15 ∧
     bitsOf ((s.cwSet 0x4000 0xF00000000).cwGet 0x4000) 32 4 = 15 ∧ FMap.get 0 (s.port 0).fails 6 = 0) ∧
    (let s := args [511, 2 ^ 31] { base with chanMap := [(511, (527, some 0))] }
     FMap.find 511 s.chanMap = some (527, some 0) ∧ memWf s.mem = true ∧
       s.mem.all (fun c => decide (c.1 < 527 * 2 ^ 31)) = true ∧ base.chanMap = [] ∧ spareOf 511 = 527) := by decide +kernel

theorem wit_PowerAndService_boot : firmwareOk [] = false ∧
    (let s (k : Nat) : State := { State.reset with flash := [(k, { svn := 0, digest := [], body := [] })] }
     has (FMap.find 0 (s 0).flash) (fun f => !firmwareOk f.body) && (FMap.find 0 (s 3).flash).isNone && has (FMap.find 3 (s 3).flash) (fun f => !firmwareOk f.body)) = true ∧
    ([0, 3, 15, 16].all fun col => let s := args [7, 1, 0, 15, col] { State.reset with bring := { screed := true, layers := List.replicate 8 1 } }
      let t := s.cwSet (0x2000 + 8 * 127) 3
      s.bring.layers.getD (s.arg 0) 0 == 1 && bitsOf (s.cwGet (0x2000 + 8 * 127)) 0 5 == 16 && bitsOf (t.cwGet (0x2000 + 8 * 127)) 0 5 == 3) = true ∧
    (args [65535] base).args ≠ [] ∧ (args [] base).args = [] ∧ base.cycle % 256 = 0 ∧ ({ base with cycle := 255 }).cycle % 256 ≠ 0 := by
  decide +kernel

theorem wit_PowerAndService : (State.reset.bring.screed = false ∧ FMap.find 0 State.reset.flash = none ∧ (args [1] State.reset).arg 0 = 1 ∧
      (args [0] State.reset).arg 0 ≠ 1) ∧
    (let s : State := { base with bring := { screed := true, layers := [2, 1, 1, 5, 0, 0, 0, 0] } }
     s.bring.layers.length = 8 ∧ s.bring.layers.getD 1 0 = 1 ∧ (∀ y < 1, s.joined y = true) ∧ s.bring.layers.getD 2 0 = 1 ∧ (∃ y < 2, s.joined y = false) ∧
       ∀ y < 8, 4 ≤ s.bring.layers.getD y 0 → ∃ x < y, s.joined x = false) ∧
    (let s : State := { base with bring := ⟨true, List.replicate 8 2, true, false⟩ }
     s.cycle % 2 ^ 20 = 0 ∧ (∀ z < 8, s.joined z = true) ∧ s.bring.bstore = true) ∧ State.reset.cycle % 256 = 0 ∧
    (let s := args [7, 4] base; s.arg 0 < 8 ∧ s.arg 1 ≤ 4) ∧
    (let s := args [0] { base with swap := some (0, 0, 0, 1) }
     s.swap = some (0, 0, 0, 1) ∧ s.ckpt.state ≠ 1 ∧ s.copying = false ∧ s.regionBusy (s.regionBase 0 0) = false ∧
     s.regionBusy (s.regionBase 0 1) = false ∧ memWf s.mem = true ∧ s.regionBase 0 0 + 2 ^ 21 ≤ s.regionBase 0 1) ∧
    ({ base with swap := some (0, 0, 0, 1), ckpt := { state := 1 } }).ckpt.state = 1 ∧
    (State.reset.ckpt.state ≠ 1 ∧ State.reset.swapping = false ∧ State.reset.checkpointOk = true ∧ base.checkpointOk = false ∧ base.swapping = false) ∧
    (let s (r : Bool) := args [1] { base with ckpt := { state := 1, restore := r, pages := 2 ^ 28 - 1, sent := 2 ^ 28, saved := some base.snapshot } }
     (s false).ckpt.state = 1 ∧ (s false).arg 0 = 1 ∧ (s false).ckpt.restore = false ∧ (s false).ckpt.pages < (s false).ckpt.sent ∧
       (s true).ckpt.restore = true ∧ (s true).ckpt.saved.isSome = true) ∧
    (let s := args [0] { (podded.cwSet 0x1000 1) with ckpt := { state := 1 } }
     let ok (s : State) (p : Nat) : Bool := (s.cwGet 0x1000).getLsbD p && s.inService p && s.portMode p != 3 && !s.ckpt.dropped.contains p
     ok s 0 = true ∧ (List.range 12).all (fun p => !ok s p || decide (s.lanesUp p ≠ [])) = true ∧ s.ckpt.sent < 2 ^ 28 ∧ (List.range 12).all (fun p => !ok { base with ckpt := { state := 1 } } p) = true) ∧ (args [2] base).arg 0 = 2 := by decide +kernel

/-! ## Results worked out by hand, and the worked examples of the spec -/

/-- The words that the spec itself works out: chapter 3's line, chapter 7's `vsra.pk` and `vadds.pk`, chapter 8's second `mma`, chapter 9's
forward instructions and their undos, chapter 12's load, gather and `amo.cas`. -/
theorem test_decode_workedWords : wordsOf [(80, 0xC6C0300000000000 * 2 ^ 16 + 0x1234, .li 6 0x1234), (48, 0x86A0398007FD, .addi 7 6 0x7FD),
    (48, 0x8202418E0000, .add 8 6 7), (16, 0x0040, .end_), (48, 0x96601020C010, .vsra 4 2 3 0 .pk 0), (48, 0x952014408210, .vadds 5 4 2 0 .pk 1),
    (80, 0xD2007471EB5800000000, .mma 1 26 7 (.over .e4m3 .e4m3) false 1 3), (80, 0xDC800810000000000040, .rvsra 2 1 0 .i8 2 0),
    (80, 0xDD000C20000000000020, .rvact 3 2 0 .i8 1 0), (80, 0xDCA00810000000000040, .unsra 2 1 0 .i8 2 0),
    (80, 0xDD200C20000000000020, .unact 3 2 0 .i8 1 0), (80, 0xCA001966000000000040, .ld 3 5 .w32 true (.at .pkg) 0x40),
    (80, 0xCA800850402180 * 2 ^ 24 + 0x00000A, .gath 2 5 1 1 .w32 2 .none 3), (48, 0x8B001948001A, .amo 3 5 4 .cas true .plain 0)] = true := by
  decide +kernel

/-- The instruction leaves a value in general register 3. -/
def gives (i : Instr) (s : State) (v : Word) : Bool := nexts (exec i s) fun t => decide ((t.thrAt 0 0).gr 3 = v)
/-- It leaves a value in a vector register of slot 0. -/
def fills (i : Instr) (s : State) (r : Nat) (v : Line) : Bool := nexts (exec i s) fun t => decide (FMap.get 0 (t.core 0).rows r = v)
/-- It leaves STATUS. -/
def flags (i : Instr) (s : State) (v : Word) : Bool := nexts (exec i s) fun t => decide ((t.thrAt 0 0).ctl.status = v)
/-- Registers 1 and 2. -/
def two (a b : Word) : State := regs [(1, a), (2, b)]

theorem test_scalar_sums : (gives (.add 3 1 2) (two 0xFFFFFFFFFFFFFFFF 2) 1 && gives (.mulh 3 1 2) (two 0xFFFFFFFFFFFFFFFF 2) 0xFFFFFFFFFFFFFFFF &&
    gives (.mulhn 3 1 2) (two 0xFFFFFFFFFFFFFFFF 2) 1 && gives (.adds 3 1 2 false) (two 0x7FFFFFFFFFFFFFFF 1) 0x7FFFFFFFFFFFFFFF &&
    flags (.adds 3 1 2 false) (two 0x7FFFFFFFFFFFFFFF 1) 8 && gives (.subs 3 1 2 true) (two 1 2) 0 &&
    gives (.abs 3 1) (two 0x8000000000000000 0) 0x7FFFFFFFFFFFFFFF && gives (.neg 3 1) (two 0x8000000000000000 0) 0x8000000000000000 &&
    gives (.min 3 1 2) (two 0xFFFFFFFFFFFFFFFF 1) 0xFFFFFFFFFFFFFFFF && gives (.minn 3 1 2) (two 0xFFFFFFFFFFFFFFFF 1) 1) = true := by decide +kernel

theorem test_scalar_shifts : (gives (.shl 3 1 2) (two 1 0x140) 0 && gives (.sra 3 1 2) (two 0x8000000000000000 255) 0xFFFFFFFFFFFFFFFF &&
    gives (.rol 3 1 2) (two 0x8000000000000001 65) 3 && gives (.srai 3 1 63) (two 0x8000000000000000 0) 0xFFFFFFFFFFFFFFFF &&
    gives (.clz 3 1) (two 0 0) 64 && gives (.ctz 3 1) (two 8 0) 3 && gives (.bswap 3 1) (two 0x0123456789ABCDEF 0) 0xEFCDAB8967452301 &&
    gives (.sext 3 1 7) (two 0x180 0) 0xFFFFFFFFFFFFFF80 && gives (.zext 3 1 7) (two 0x1FF 0) 0xFF &&
    gives (.bfx 3 1 4 7) (two 0xABCD 0) 0xBC && gives (.bfi 3 1 8 7) (regs [(1, 0x155), (3, 0xFFFFFF)]) 0xFF55FF) = true := by decide +kernel

/-- R149, R150, R151, R148: the constants that the spec builds, its comparison with 2^64 - 1, an address, a choice. -/
theorem test_scalar_moves : (gives (.li 3 0x89ABCDEF0123) base 0xFFFF89ABCDEF0123 &&
    gives (.lih 3 0x0040) (regs [(3, 0xFFFF89ABCDEF0123)]) 0x004089ABCDEF0123 && gives (.addi 3 1 0x400) (two 0 0) 0xFFFFFFFFFFFFFC00 &&
    nexts (exec (.cmpi 2 1 .gtn (BitVec.allOnes 48)) (two 0xFFFFFFFFFFFFFFFF 0)) (fun t => !(t.thrAt 0 0).pr 2) &&
    nexts (exec (.cmpi 0 1 .eq 1) (two 0 0)) (fun t => (t.thrAt 0 0).pr 0) && gives (.lea 3 1 2 3 0x1FF) (two 0x1000 2) 0x100F &&
    gives (.sel 3 1 2 0 false) (two 7 9) 7 && gives (.sel 3 1 2 5 false) (two 7 9) 9) = true := by decide +kernel

/-- R138: a long division leaves its result and DZ to a later step, and the destination as it was. -/
theorem test_scalar_divide : nexts (exec (.div 3 1 2 2) (regs [(1, 7), (2, 0), (3, 5)])) (fun t => decide ((t.thrAt 0 0).gr 3 = 5) &&
    (t.thrAt 0 0).windows.any fun w => decide (w.left = 2) && decide (w.dests = [.g 3]) &&
      decide (w.writes = [.g 3 0xFFFFFFFFFFFFFFFF])) = true := by decide +kernel

/-- R79, R156 and chapter 6: line-slot displacements, links, the loop count; R432: a trap enters at TRAPVEC with the next PC saved. -/
theorem test_control : (nexts (exec (.br (BitVec.ofInt 11 (-32 + 5))) base) (fun t => decide ((t.thrAt 0 0).pc = 0x3FFCA)) &&
    nexts (exec (.call 3 0x21) base) (fun t => decide ((t.thrAt 0 0).pc = 0x40042) && decide ((t.thrAt 0 0).gr 3 = 0x40004)) &&
    nexts (exec (.loop 1 0x22) (two 2 0)) (fun t => decide ((t.thrAt 0 0).pc = 0x40044) && decide ((t.thrAt 0 0).gr 1 = 1)) &&
    nexts (exec (.loop 1 0x22) (two 1 0)) (fun t => decide ((t.thrAt 0 0).pc = 0x40004) && decide ((t.thrAt 0 0).gr 1 = 0)) &&
    nexts (exec (.trap 7) { base with trapvec := [(0, 0x40042)] }) (fun t => let h := t.thrAt 0 0
      decide (h.pc = 0x40042) && decide (h.ctl.trappc = 0x40004) && decide (h.ctl.trapcause.extractLsb' 16 1 = 1#1) &&
      decide (h.ctl.trapcause.extractLsb' 8 8 = 7#8))) = true := by decide +kernel

/-- Chapter 7's example: i4 elements shifted and added. -/
theorem test_vector_packed : (fills (.vsra 4 2 3 0 .pk 0) (rows [(2, 0x6F01D587#512), (3, 0x1230F411#512)]) 4 0x3F01F0C3#512 &&
    fills (.vadds 5 4 2 0 .pk 0) (rows [(2, 0x6F01D587#512), (4, 0x3F01F0C3#512)]) 5 0x7E02C587#512 &&
    flags (.vadds 5 4 2 0 .pk 0) (rows [(2, 0x6F01D587#512), (4, 0x3F01F0C3#512)]) 8 &&
    (let n4 := ctl (fun c => { c with efmt := 0x2000 }) (rows [(2, 0x6F01D587#512), (4, 0x3F01F0C3#512)])
     fills (.vadds 5 4 2 0 .pk 0) n4 5 0x9F02F5FA#512)) = true := by decide +kernel

/-- R131's example: sixteen FP32 lanes, summed by the tree. -/
theorem test_vector_tree : (let lanes : Line := BitVec.ofNat 512 (leNat (leBytes 0x4B800000 4 ++ (List.replicate 15 (leBytes 0x3F800000 4)).flatten))
    fills (.vred 1 2 0 .fp32 .add 0) (rows [(2, lanes)]) 1 0x4B800007#512 && flags (.vred 1 2 0 .fp32 .add 0) (rows [(2, lanes)]) 16) = true := by
  decide +kernel

/-- Element moves: a permutation, a rotation, an insertion, an extraction with its sign; R126's integer conversion. -/
theorem test_vector_moves : (fills (.vshuf 1 2 0 .n64 (.rot 1) 0) (rows [(2, 0x7#512 <<< 64)]) 1 0x7#512 &&
    fills (.vperm 1 2 3 4 0 .n64 0) (rows [(2, 9#512), (3, 5#512), (4, 0x6#512 <<< 64)]) 1
      (0x6#512 + BitVec.ofNat 512 ((List.range 7).foldl (fun n i => n + 5 * 2 ^ (64 * (i + 1))) 0)) &&
    gives (.vext 3 2 .i8 1) (rows [(2, 0x8000#512)]) 0xFFFFFFFFFFFFFF80 &&
    fills (.vins 2 1 .n16 31) (regs [(1, 0x1BEEF)]) 2 (0xBEEF#512 <<< 496) &&
    fills (.vunpk 1 2 0 .n16 .i8 false 0) (rows [(2, 0x7FFB#512)]) 1 0x7F0000#512 &&
    flags (.vunpk 1 2 0 .n16 .i8 false 0) (rows [(2, 0x7FFB#512)]) 8) = true := by decide +kernel

/-- Chapter 9's example: `rvsra` and `rvact`, then their undos. -/
theorem test_reversible : (let s := skim {} (rows [(1, 0x64F39D07#512)])
    nexts (exec (.rvsra 2 1 0 .i8 2 0) s) (fun t => decide (FMap.get 0 (t.core 0).rows 2 = 0x19FCE701#512) &&
      (match t.mySkim.onCore with
       | [(0, img)] => decide (img.toNat % 256 = 0x37)
       | _ => false)) &&
    nexts (exec (.rvsra 2 1 0 .i8 2 0) s) (fun t =>
      nexts (exec (.unsra 2 1 0 .i8 2 0) (rows [(2, 0x19FCE701#512)] t)) fun u => decide (FMap.get 0 (u.core 0).rows 1 = 0x64F39D07#512)) &&
    nexts (exec (.rvact 3 2 0 .i8 1 0) (rows [(2, 0x19FCE701#512)] s)) (fun t => decide (FMap.get 0 (t.core 0).rows 3 = 0x19FEF301#512) &&
      nexts (exec (.unact 3 2 0 .i8 1 0) (rows [(3, 0x19FEF301#512)] t)) fun u => decide (FMap.get 0 (u.core 0).rows 2 = 0x19FCE701#512))) = true := by
  decide +kernel

end Sys2Proof.Tests
end

section
/-!
SUPPORT. The predicates and the lane masks of a thread (R43, R46): what each reads after a write to the same and to another one.
-/

namespace Sys2Proof.Machine

/-! ## Predicates -/

@[simp] theorem Thread.pr_zero (t : Thread) : t.pr 0 = true := rfl
@[simp] theorem Thread.setP_zero (t : Thread) (v : Bool) : t.setP 0 v = t := rfl

/-- PW holds predicate p in bit p. -/
theorem Thread.pr_eq_getLsbD {p : Nat} (hp : 0 < p) (t : Thread) : t.pr p = t.pw.getLsbD p := by
  simp [Thread.pr, Nat.ne_of_gt hp]

/-- A write of predicate p is a write of bit p of PW, and of no other bit. -/
theorem Thread.getLsbD_pw_setP {p : Nat} (hp : 0 < p) (hp16 : p < 16) (t : Thread) (v : Bool) (q : Nat) :
    (t.setP p v).pw.getLsbD q = if q = p then v else t.pw.getLsbD q := by
  have hbit : (1#16 <<< p).getLsbD q = decide (q = p) := by
    rw [← BitVec.twoPow_eq, BitVec.getLsbD_twoPow, ← Bool.decide_and]
    exact decide_eq_decide.mpr ⟨fun h => h.2.symm, fun h => ⟨hp16, h.symm⟩⟩
  rw [Thread.setP, if_neg (Nat.ne_of_gt hp)]
  cases v
  · simp only [Bool.false_eq_true, if_false, BitVec.getLsbD_and, BitVec.getLsbD_not, hbit]
    by_cases h : q = p
    · simp [h]
    · simpa [h] using BitVec.lt_of_getLsbD
  · simp only [if_true, BitVec.getLsbD_or, hbit]
    by_cases h : q = p <;> simp [h]

theorem Thread.pr_setP_self {p : Nat} (hp : 0 < p) (hp16 : p < 16) (t : Thread) (v : Bool) : (t.setP p v).pr p = v := by
  rw [Thread.pr_eq_getLsbD hp, Thread.getLsbD_pw_setP hp hp16, if_pos rfl]

theorem Thread.pr_setP_other {p q : Nat} (hp : 0 < p) (hp16 : p < 16) (h : q ≠ p) (t : Thread) (v : Bool) :
    (t.setP p v).pr q = t.pr q := by
  simp [Thread.pr, Thread.getLsbD_pw_setP hp hp16, h]

/-! ## Lane masks -/

@[simp] theorem Thread.kr_zero (t : Thread) : t.kr 0 = BitVec.allOnes 64 := rfl
@[simp] theorem Thread.setK_zero (t : Thread) (w : Word) : t.setK 0 w = t := rfl

theorem Thread.kr_setK_self {k : Nat} (hk : 0 < k) (t : Thread) (w : Word) : (t.setK k w).kr k = w := by
  simp [Thread.kr, Thread.setK, Nat.ne_of_gt hk]

theorem Thread.kr_setK_other {j k : Nat} (h : j ≠ k) (t : Thread) (w : Word) : (t.setK k w).kr j = t.kr j := by
  by_cases hk : k = 0
  · rw [hk, Thread.setK_zero]
  · simp [Thread.kr, Thread.setK, hk, FMap.get_set_other h]

end Sys2Proof.Machine
end

section
/-!
SUPPORT. Completion: an instruction whose checks pass and whose body answers a state completes with the effect of that state.
-/

namespace Sys2Proof.Machine

/-- An answer without a fault ends the instruction alone at its turn, and holds a head for the other one (R62). -/
theorem finish_ok (s u : State) : finish s (.ok u) = .next (after s u) := by
  unfold finish after
  cases s.cur.place <;> rfl

theorem completes_of_run {i : Instr} {s s1 u : State} {body : State → Res} (hexec : exec i s = run i s body)
    (hready : Ready i s s1) (hbody : body s1 = .ok u) : Completes i s u := by
  unfold Completes
  rw [hexec, run_of_vetted hready, hbody, parks_ok, finish_ok]

/-- R155: `pget` completes with PW in its destination, bit 0 set. -/
theorem reads_pget : Reads .pget (fun s => (s.src.pw ||| 1#16).setWidth 64) :=
  fun d s _ hready => completes_of_run (show exec (.pget d) s = run (.pget d) s _ from rfl) hready rfl

end Sys2Proof.Machine
end

section
/-!
PROOFS. The state of a thread (spec/02).
-/

namespace Sys2Proof.Proofs

open Machine

/-- Settles O10: the laws of the two register files, p0 and k0 apart, and the completion of `pget`. -/
theorem hardWired : Obligations.HardWired := by
  unfold Obligations.HardWired
  refine ⟨reads_pget, fun t v w => ⟨t.pr_zero, t.kr_zero, t.setP_zero v, t.setK_zero w, fun p hp hp16 => ?_, fun k hk => ?_⟩⟩
  · have hwritten : (t.setP p v).pw.getLsbD p = v := by rw [Thread.getLsbD_pw_setP hp hp16, if_pos rfl]
    exact ⟨Thread.pr_eq_getLsbD hp t, hwritten, Thread.pr_setP_self hp hp16 t v, fun q hq => Thread.pr_setP_other hp hp16 hq t v⟩
  · exact ⟨Thread.kr_setK_self hk t w, fun j hj => Thread.kr_setK_other hj t w⟩

end Sys2Proof.Proofs
end

section
/-!
SUPPORT. The scalar operand forms `op d, a, b` and `op d, a` (R135): an instruction whose meaning is such a form completes with its
function of the sources.
-/

namespace Sys2Proof.Machine

theorem binary_of_binOp {op : GSpec → GSpec → GSpec → Instr} {g f : Word → Word → Word}
    (hexec : ∀ d a b s, exec (op d a b) s = run (op d a b) s (binOp d a b g)) (hfun : ∀ x y, g x y = f x y) : Binary op f := by
  obtain rfl : g = f := funext₂ hfun
  exact fun d a b s _ hready => completes_of_run (hexec d a b s) hready rfl

theorem unary_of_unOp {op : GSpec → GSpec → Instr} {g f : Word → Word}
    (hexec : ∀ d a s, exec (op d a) s = run (op d a) s (unOp d a g)) (hfun : ∀ x, g x = f x) : Unary op f := by
  obtain rfl : g = f := funext hfun
  exact fun d a s _ hready => completes_of_run (hexec d a s) hready rfl

end Sys2Proof.Machine
end

section
/-!
SUPPORT. The functions of the scalar instructions: least and greatest (R141), and the bit counts and the byte reversal as facts about
single bits and bytes (R145).
-/

namespace Sys2Proof.Machine

/-! ## Least and greatest -/

/-- R141: a word chosen where the order is strict is the word chosen where it is not, for equal operands are one value. -/
theorem ite_lt_eq_ite_le {α : Type} [LinearOrder α] {key : Word → α} (hkey : ∀ x y, key x = key y → x = y) (x y : Word) :
    (if key x < key y then y else x) = if key x ≤ key y then y else x := by
  rcases lt_trichotomy (key x) (key y) with h | h | h
  · rw [if_pos h, if_pos h.le]
  · rw [hkey x y h, ite_self, ite_self]
  · rw [if_neg h.not_gt, if_neg h.not_ge]

/-! ## Leading zeros, trailing zeros and one bits -/

theorem bitLen_le_iff {v n : Nat} : bitLen v ≤ n ↔ v < 2 ^ n := by
  unfold bitLen
  split
  case isTrue h => simp [h]
  case isFalse h => rw [Nat.add_one_le_iff, Nat.log2_lt h]

/-- The bits of an n-bit number above its bit length are the zeros that stand before its highest one bit. -/
theorem sub_bitLen_eq_length_takeWhile {v n : Nat} (hv : v < 2 ^ n) :
    n - bitLen v = ((List.range n).takeWhile fun i => !v.testBit (n - 1 - i)).length := by
  induction n with
  | zero => simp
  | succ n ih =>
    rw [List.range_succ_eq_map]
    by_cases htop : v < 2 ^ n
    · have hbit : v.testBit n = false := Nat.testBit_lt_two_pow htop
      have htail : ((fun i => !v.testBit (n + 1 - 1 - i)) ∘ Nat.succ) = fun i => !v.testBit (n - 1 - i) := by
        funext i; simp [Nat.sub_sub, Nat.add_comm]
      rw [List.takeWhile_cons_of_pos (by simp [hbit]), List.takeWhile_map, htail, List.length_cons, List.length_map, ← ih htop,
        Nat.sub_add_comm (bitLen_le_iff.mpr htop)]
    · have hbit : v.testBit n = true := Nat.testBit_of_two_pow_le_and_two_pow_add_one_gt (not_lt.mp htop) hv
      have hlen : n < bitLen v := not_le.mp fun h => htop (bitLen_le_iff.mp h)
      rw [List.takeWhile_cons_of_neg (by simp [hbit]), Nat.sub_eq_zero_of_le hlen, List.length_nil]

theorem trailing_eq_length_takeWhile (v n : Nat) : trailing v n = ((List.range n).takeWhile fun i => !v.testBit i).length := by
  induction n generalizing v with
  | zero => rfl
  | succ n ih =>
    have htail : ((fun i => !v.testBit i) ∘ Nat.succ) = fun i => !(v / 2).testBit i := by
      funext i; simp [Nat.testBit_succ]
    rw [trailing, List.range_succ_eq_map]
    by_cases hlow : v % 2 = 1
    · rw [if_pos hlow, List.takeWhile_cons_of_neg (by simp [hlow]), List.length_nil]
    · rw [if_neg hlow, List.takeWhile_cons_of_pos (by simp [hlow]), List.takeWhile_map, htail, List.length_cons, List.length_map,
        ← ih, Nat.add_comm]

theorem ones_eq_length_filter (v n : Nat) : ones v n = ((List.range n).filter fun i => v.testBit i).length := by
  induction n generalizing v with
  | zero => rfl
  | succ n ih =>
    have htail : ((fun i => v.testBit i) ∘ Nat.succ) = fun i => (v / 2).testBit i := by
      funext i; simp [Nat.testBit_succ]
    rw [ones, List.range_succ_eq_map]
    by_cases hlow : v % 2 = 1
    · rw [List.filter_cons_of_pos (by simp [hlow]), List.filter_map, htail, List.length_cons, List.length_map, ← ih, hlow, Nat.add_comm]
    · rw [List.filter_cons_of_neg (by simp [hlow]), List.filter_map, htail, List.length_map, ← ih, Nat.mod_two_ne_one.mp hlow,
        Nat.zero_add]

/-! ## Byte reversal -/

/-- Byte i of a word is byte 7 − i of the word reversed. -/
theorem extractLsb'_swapBytes (x : Word) {i : Nat} (hi : i < 8) :
    (swapBytes x).extractLsb' (8 * (7 - i)) 8 = x.extractLsb' (8 * i) 8 := by
  unfold swapBytes
  interval_cases i <;> repeat rw [BitVec.extractLsb'_append_eq_of_le (by decide)]
  · rw [BitVec.extractLsb'_eq_self]
  all_goals rw [BitVec.extractLsb'_append_eq_right]

end Sys2Proof.Machine
end

section
/-!
PROOFS. The scalar instructions (spec/06).
-/

namespace Sys2Proof.Proofs

open Machine

/-- R141: `min` and `max` by the signed values, `minn` and `maxn` by the unsigned ones. -/
theorem minMax : Claims.MinMax := by
  unfold Claims.MinMax
  refine ⟨binary_of_binOp (fun _ _ _ _ => rfl) fun x y => ?_, binary_of_binOp (fun _ _ _ _ => rfl) fun x y => ?_,
    binary_of_binOp (fun _ _ _ _ => rfl) fun x y => ?_, binary_of_binOp (fun _ _ _ _ => rfl) fun x y => ?_,
    fun _ _ _ => ⟨rfl, rfl, rfl, rfl⟩⟩
  · simp only [BitVec.slt_iff_toInt_lt, ← not_le, ite_not]
  · simp only [BitVec.slt_iff_toInt_lt, ite_lt_eq_ite_le fun _ _ => BitVec.eq_of_toInt_eq]
  · simp only [BitVec.ult_iff_toNat_lt, ← not_le, ite_not]
  · simp only [BitVec.ult_iff_toNat_lt, ite_lt_eq_ite_le fun _ _ => BitVec.eq_of_toNat_eq]

/-- R142: the function of each logic instruction is the operation itself. -/
theorem logic : Claims.Logic := by
  unfold Claims.Logic
  refine ⟨?_, ?_, ?_, ?_, ?_, fun _ _ _ => ⟨rfl, rfl, rfl, rfl, rfl⟩⟩
  all_goals exact binary_of_binOp (fun _ _ _ _ => rfl) fun _ _ => rfl

/-- Settles O16: the comparisons of R141 and the bitwise functions of R142. -/
theorem leastGreatestAndLogic : Obligations.LeastGreatestAndLogic := ⟨minMax, logic⟩

/-- Settles O17: each count of the model read bit by bit, and the reversal byte by byte. -/
theorem bitCounts : Obligations.BitCounts := by
  unfold Obligations.BitCounts
  refine ⟨unary_of_unOp (fun _ _ _ => rfl) fun x => ?_, unary_of_unOp (fun _ _ _ => rfl) fun x => ?_,
    unary_of_unOp (fun _ _ _ => rfl) fun x => ?_, fun d a s s1 hready => ?_, fun _ _ => ⟨rfl, rfl, rfl, rfl⟩⟩
  · simp only [sub_bitLen_eq_length_takeWhile x.isLt, BitVec.testBit_toNat]
  · simp only [trailing_eq_length_takeWhile, BitVec.testBit_toNat]
  · simp only [ones_eq_length_filter, BitVec.testBit_toNat]
  · have hswap : Unary .bswap swapBytes := unary_of_unOp (fun _ _ _ => rfl) fun _ => rfl
    exact ⟨swapBytes (src1 s1 a), hswap d a s s1 hready, fun i hi => extractLsb'_swapBytes (src1 s1 a) hi⟩

end Sys2Proof.Proofs
end
